-- ==== Sys2Proof/Word.lean ====
section
/-! DEFINITION. The words and the small fixed-size tables of the Wendjar 416: modular positions (R1), sequence
numbers (R3), frame bytes and tags (R187), and the index types of section 5.8 of the introduction with the tables they
index (four stations, columns, heater zones and watch units; three ports; two job slots). -/

namespace Sys2Proof

/-- A 32-bit web position in counts, modulo 2^32 (R1). -/
abbrev Pos := BitVec 32

/-- A repeat sequence number: 16 bits, wrapping (R3). -/
abbrev SeqNo := BitVec 16

/-- A frame byte (R194). -/
abbrev Byte := BitVec 8

/-- The two-byte tag of a master frame, which the part does not interpret (R187). -/
abbrev Tag := BitVec 16

/-- An index 0..3 of a station, a column, a heater zone of a station, or a watch unit (introduction, 5.8). -/
inductive Idx where
  | i0 | i1 | i2 | i3
deriving DecidableEq, Repr

def Idx.toNat : Idx → Nat
  | .i0 => 0
  | .i1 => 1
  | .i2 => 2
  | .i3 => 3

/-- The index a number names, when it lies in 0..3. -/
def Idx.ofNat? : Nat → Option Idx
  | 0 => some .i0
  | 1 => some .i1
  | 2 => some .i2
  | 3 => some .i3
  | _ => none

/-- The four indices in order. -/
def Idx.all : List Idx := [.i0, .i1, .i2, .i3]

/-- Four like things, one for each index. -/
structure Four (α : Type) where
  a0 : α
  a1 : α
  a2 : α
  a3 : α
deriving DecidableEq, Repr

def Four.get {α : Type} (f : Four α) : Idx → α
  | .i0 => f.a0
  | .i1 => f.a1
  | .i2 => f.a2
  | .i3 => f.a3

def Four.set {α : Type} (f : Four α) (i : Idx) (x : α) : Four α :=
  match i with
  | .i0 => { f with a0 := x }
  | .i1 => { f with a1 := x }
  | .i2 => { f with a2 := x }
  | .i3 => { f with a3 := x }

/-- The table that holds `g i` at each index `i`. -/
def Four.tab {α : Type} (g : Idx → α) : Four α := ⟨g .i0, g .i1, g .i2, g .i3⟩

/-- The table that holds the same thing at every index. -/
def Four.all {α : Type} (x : α) : Four α := ⟨x, x, x, x⟩

def Four.toList {α : Type} (f : Four α) : List α := [f.a0, f.a1, f.a2, f.a3]

/-- One of the three master ports (introduction, section 3). -/
inductive Port where
  | line | inspection | roll
deriving DecidableEq, Repr

def Port.all : List Port := [.line, .inspection, .roll]

/-- Three like things, one for each master port. -/
structure Three (α : Type) where
  line : α
  inspection : α
  roll : α
deriving DecidableEq, Repr

def Three.get {α : Type} (t : Three α) : Port → α
  | .line => t.line
  | .inspection => t.inspection
  | .roll => t.roll

def Three.set {α : Type} (t : Three α) (p : Port) (x : α) : Three α :=
  match p with
  | .line => { t with line := x }
  | .inspection => { t with inspection := x }
  | .roll => { t with roll := x }

def Three.tab {α : Type} (g : Port → α) : Three α := ⟨g .line, g .inspection, g .roll⟩

def Three.all {α : Type} (x : α) : Three α := ⟨x, x, x⟩

/-- One of the two job slots (R177). -/
inductive Slot where
  | slot0 | slot1
deriving DecidableEq, Repr

/-- The slot a number names, when it lies in 0..1. -/
def Slot.ofNat? : Nat → Option Slot
  | 0 => some .slot0
  | 1 => some .slot1
  | _ => none

/-- The slot that is not this one. -/
def Slot.other : Slot → Slot
  | .slot0 => .slot1
  | .slot1 => .slot0

/-- Two like things, one for each job slot. -/
structure Two (α : Type) where
  s0 : α
  s1 : α
deriving DecidableEq, Repr

def Two.get {α : Type} (t : Two α) : Slot → α
  | .slot0 => t.s0
  | .slot1 => t.s1

def Two.set {α : Type} (t : Two α) (i : Slot) (x : α) : Two α :=
  match i with
  | .slot0 => { t with s0 := x }
  | .slot1 => { t with s1 := x }

def Two.tab {α : Type} (g : Slot → α) : Two α := ⟨g .slot0, g .slot1⟩

/-- The fault units U0..U3 of the stations and U4 of the line (R151). -/
inductive UnitId where
  | station (s : Idx)
  | line
deriving DecidableEq, Repr

/-- The fault unit a number names, when it lies in 0..4. -/
def UnitId.ofNat? (n : Nat) : Option UnitId :=
  if n = 4 then some .line else (Idx.ofNat? n).map .station

end Sys2Proof
end

