-- ==== Sys2Proof/Config.lean ====
section
/-! DEFINITION. The fixed numbers of the part: the capacities and times the manual states as constants, and the free choice that two
rules of the manual leave between them. The two free values about a job record stand in this namespace behind that type in
Machine/State.lean (log entry 18). -/

namespace Sys2Proof.Config

/-- The Repeat Track holds at most 48 records (R23). -/
def trackCapacity : Nat := 48

/-- The Outcome List holds at most 64 records (R36). -/
def outcomeCapacity : Nat := 64

/-- READ TRACK and TAKE OUTCOMES return at most 8 records (R33, R40). -/
def readBatch : Nat := 8

/-- ACK_TIMEOUT in microseconds (R60, R68). -/
def ackTimeout : Nat := 500

/-- A station has at most 2 orders in flight (R60). -/
def inFlightLimit : Nat := 2

/-- The overdue list holds at most 2 entries (R60). -/
def overdueLimit : Nat := 2

/-- The Splice List holds at most 4 entries (R128). -/
def spliceCapacity : Nat := 4

/-- Splice zones no more than 100 counts apart merge (R130). -/
def spliceGap : Int := 100

/-- A zone is stale when its age is above 500 ms (R117). -/
def staleAge : Nat := 500

/-- Slot timers and reading ages hold at 65,535 ms (R112, R117). -/
def timerTop : Nat := 65535

/-- Readings saturate at 3,000 tenths of a degree (R103, R105). -/
def readingTop : Nat := 3000

/-- Web speed is capped at 4,095 counts per ms (R8). -/
def speedTop : Nat := 4095

/-- The stretch estimate stays within plus or minus 32,768 (R21). -/
def stretchTop : Int := 32768

/-- The trim of a station stays within plus or minus 2,000 whatever the job (R54). -/
def trimTop : Nat := 2000

/-- The missed count and the greatest gap that still passes the gap test (R44, R47). -/
def gapLimit : Nat := 8

/-- Positions are scheduled at most 2^23 counts from H (R6, R129, R169). -/
def horizon : Int := 8388608

/-- The longest body of a master frame (R187). -/
def portBodyTop : Nat := 2048

/-- The longest body of a station frame (R192). -/
def stationBodyTop : Nat := 32

/-- FREE VALUE (DESIGN CHOICE, safe, log entry 49): whether the frame of an order that a commit queued, measured as PHASED, still goes out
after a station link loss, as R52 has it of the queued order, or never does. The order itself ends FAULTED and leaves the queue either
way, as R79 has it; nothing can be proved of the choice. -/
opaque linkLossSendsQueued : Bool

end Sys2Proof.Config
end

