-- ==== Sys2Proof/Syntax.lean ====
section
/-! DEFINITION. The commands of the part: one constructor of `Instr` for each row of spec/opcode_table.json, with the
values its rule names. A value that a master frame draws from a list of names is an `Option` here: `none` stands for a code
that is not among those listed, which the owning rule refuses RANGE. Indices arrive as the byte the frame carries. -/

namespace Sys2Proof

/-- How far a request frame gets within the command (R188). `whole`: it arrives and its owning block takes it at once.
`arrives`: the frame arrives and is now the port's request in service, not yet taken. `taken`: the owning block takes the
request that stands in service. -/
inductive ReqStage where
  | whole | arrives | taken
deriving DecidableEq, Repr

/-- What every master request carries: the port it came in at, its tag (R187), and its stage (R188). -/
structure ReqHdr where
  port : Port
  tag : Tag
  stage : ReqStage
deriving DecidableEq, Repr

/-- A change of quadrature state of the web encoder (R4). -/
inductive EncoderChange where
  | forward | backward | bothPhases
deriving DecidableEq, Repr

/-- The result an ORDER ACK carries (R69, R194). -/
inductive AckResult where
  | accepted | refusedBusy | refusedRange
deriving DecidableEq, Repr

/-- The outcome a STRIKE REPORT carries (R73, R194). -/
inductive ReportOutcome where
  | contact | lifted | noContact
deriving DecidableEq, Repr

/-- The outcome an ABORT REPORT carries (R81, R194). -/
inductive AbortFound where
  | contactMade | notMade
deriving DecidableEq, Repr

/-- The body of a STRIKE REPORT as the frame carries it (R73, R193, R194): `ePresent` is flag bit 0 and `e` the field
behind it, which R193 decodes. -/
structure StrikeReportFrame where
  seq : SeqNo
  outcome : ReportOutcome
  ePresent : Bool
  e : BitVec 16
  breakMask : Four Bool
  advanced : Four (BitVec 16)
deriving DecidableEq, Repr

/-- The action of EDIT HOLD CONTEXT (R144) and of a hold-context entry (R139). -/
inductive ResumeAction where
  | skip | restrike
deriving DecidableEq, Repr

/-- A set of fault flags named by CLEAR FLAGS or SET FLAGS (R157, R158). `beyond` says that the set names TRIPPED or any
bit that is neither SOFT nor HARD. -/
structure FlagSet where
  soft : Bool
  hard : Bool
  beyond : Bool
deriving DecidableEq, Repr

/-- The source of BEGIN JOB (R179). -/
inductive JobSource where
  | blank | keep | copy
deriving DecidableEq, Repr

/-- One global parameter of a job with its value as received (R180). `unlisted` stands for a parameter name or a value kind
that is not among those listed. -/
inductive GlobalItem where
  | pitch (v : BitVec 16)
  | window (v : BitVec 16)
  | lockN (v : Byte)
  | coastMax (v : Byte)
  | stretchSmooth (v : Byte)
  | strikeMinSpeed (v : BitVec 16)
  | columnsUsed (v : Four Bool)
  | splBefore (v : BitVec 16)
  | splAfter (v : BitVec 16)
  | unknownFeed (set : Bool)
  | coastPolicy (predict : Bool)
  | unlisted
deriving DecidableEq, Repr

/-- The type of a present station (R180). -/
inductive StationType where
  | foil | emboss | foilEmboss
deriving DecidableEq, Repr

/-- The values of a STATION item (R180), each as received. -/
structure StationItem where
  type : Option StationType
  d : BitVec 32
  a : BitVec 16
  lead : BitVec 32
  reportSpan : BitVec 16
  stepMax : BitVec 16
  tol : BitVec 16
  trimLim : BitVec 16
  gain : Byte
  slew : Byte
  liftOnReject : Option Bool
deriving DecidableEq, Repr

/-- The request mode of a heater zone (R103, R109). -/
inductive ZoneMode where
  | level | latched
deriving DecidableEq, Repr

/-- The values of a ZONE item (R180), each as received. -/
structure ZoneItem where
  enabled : Option Bool
  setpoint : BitVec 16
  band : Byte
  reqOffset : Byte
  mode : Option ZoneMode
deriving DecidableEq, Repr

/-- The code of a lane descriptor (R87). -/
inductive LaneCode where
  | off | dry | firstOff | on | onReport
deriving DecidableEq, Repr

/-- The heat arbitration mode (R185). -/
inductive ArbMode where
  | queued | preempt
deriving DecidableEq, Repr

/-- One line setting with its value as received (R185). `unlisted` stands for a setting name, or an ARB_MODE value, that is
not among those listed. -/
inductive SettingItem where
  | nSlot (v : Byte)
  | minHold (v : BitVec 16)
  | maxHold (v : BitVec 16)
  | arbMode (v : ArbMode)
  | overLimit (v : BitVec 16)
  | spliceDist (v : BitVec 32)
  | reverseLimit (v : BitVec 32)
  | lowThreshold (station column : Byte) (v : BitVec 32)
  | unlisted
deriving DecidableEq, Repr

/-- The verdicts POST VERDICT may name (R123). -/
inductive PostedVerdict where
  | good | reject
deriving DecidableEq, Repr

/-- The condition ARM WATCH names, with its parameters as received (R168, R169). -/
inductive WatchSpec where
  | atPosition (x : Pos)
  | repeatAtStation (seq : SeqNo) (station : Byte)
  | foilBelow (station column : Byte) (x : BitVec 32)
  | trimBeyond (station : Byte) (x : BitVec 16)
  | unlisted
deriving DecidableEq, Repr

/-- The action of a watch unit (R168). -/
inductive WatchAction where
  | notice | mark | stop
deriving DecidableEq, Repr

/-- The scope of a watch unit (R168). -/
inductive WatchScope where
  | job | line
deriving DecidableEq, Repr

/-- The class a routing table gives a notice kind (R164). -/
inductive RouteClass where
  | off | routine | urgent
deriving DecidableEq, Repr

/-- The commands of the part, one for each row of the table of operations and events, in the table's order. A station index
of an event is the station whose sequencer, link or drive the event belongs to. -/
inductive Instr where
  /-- R135: PORN releases the part with the E-stop input at the level given. -/
  | powerOn (estop : Bool)
  /-- R4: one change of quadrature state. -/
  | encoderStep (change : EncoderChange)
  /-- R8: a 1 ms speed interval ends. -/
  | speedIntervalEnd
  /-- R11: a mark edge with its captured count; `reversed` says the reverse distance was not 0 at capture. -/
  | markEdge (c : Pos) (reversed : Bool)
  /-- R13: H has reached the window close. -/
  | windowClose
  /-- R18: H has reached pred in SEARCH. -/
  | searchSynthesis
  /-- R62: H has reached K[s] of the record of that seq. -/
  | commit (s : Idx) (seq : SeqNo)
  /-- R69: an ORDER ACK frame. -/
  | orderAck (s : Idx) (seq : SeqNo) (result : AckResult)
  /-- R71: the ack timer expires with a strike order awaited. -/
  | ackTimeout (s : Idx)
  /-- R73: a STRIKE REPORT frame. -/
  | strikeReport (s : Idx) (frame : StrikeReportFrame)
  /-- R76: H has reached the report deadline of the order of that seq. -/
  | reportDeadline (s : Idx) (seq : SeqNo)
  /-- R30: H has reached the head record's Z. -/
  | retire
  /-- R132: H has reached the zone end `x` of a Splice List entry. -/
  | spliceZoneEnd (x : Pos)
  /-- R172: H has reached the x of an armed AT_POSITION watch. -/
  | positionWatch (w : Idx)
  /-- R81: an ABORT REPORT frame. -/
  | abortReport (s : Idx) (seq : SeqNo) (found : AbortFound) (advanced : Four (BitVec 16))
  /-- R82: the ack timer expires with awaited ABORT. -/
  | abortTimeout (s : Idx)
  /-- R79: the station link's carrier is lost. -/
  | stationLinkLoss (s : Idx)
  /-- R192: the station link's carrier returns. -/
  | stationCarrierReturn (s : Idx)
  /-- R192: the station link's transmitter finishes a frame. -/
  | stationFrameSent (s : Idx)
  /-- R192: a drive frame is dropped. -/
  | stationFrameDropped (s : Idx)
  /-- R105: a HEAT READING frame with its four zone values as sent. -/
  | heatReading (s : Idx) (values : Four (BitVec 16))
  /-- R117: a tick of the millisecond timer. -/
  | millisecondTick
  /-- R117: an enabled zone of the station is stale. -/
  | staleHeat (s : Idx)
  /-- R112: the zone's slot timer has reached MIN_HOLD. -/
  | minHoldReached (s z : Idx)
  /-- R112: the zone's slot timer has reached MAX_HOLD. -/
  | maxHoldExpiry (s z : Idx)
  /-- R138: the E-stop input changes to asserted. -/
  | estopAsserted
  /-- R138: the E-stop input changes to clear. -/
  | estopCleared
  /-- R191: a master port's carrier is lost. -/
  | portLinkLoss (p : Port)
  /-- R191: a master port's carrier returns. -/
  | portCarrierReturn (p : Port)
  /-- R187: a master frame is dropped. -/
  | portFrameDropped (p : Port)
  /-- R187: a good frame whose code, or whose form byte, names no request. -/
  | unknownRequest (hdr : ReqHdr) (code : Byte)
  /-- R188: the port's transmitter finishes a frame. -/
  | portReplySent (p : Port)
  | start (hdr : ReqHdr)
  | hold (hdr : ReqHdr)
  | resume (hdr : ReqHdr)
  | stop (hdr : ReqHdr)
  | lineReset (hdr : ReqHdr)
  | stationReset (hdr : ReqHdr) (station : Byte)
  | editHoldContextTrim (hdr : ReqHdr) (station : Byte) (trim : BitVec 16)
  | editHoldContextAction (hdr : ReqHdr) (station : Byte) (seq : SeqNo) (action : Option ResumeAction)
  | clearFlags (hdr : ReqHdr) (unit : Byte) (flags : FlagSet)
  | setFlags (hdr : ReqHdr) (unit : Byte) (toSet toClear : FlagSet)
  | clearFaultRecord (hdr : ReqHdr) (unit : Byte)
  | setZoneMask (hdr : ReqHdr) (station zone : Byte) (value : Option Bool)
  | finishZone (hdr : ReqHdr) (station zone : Byte) (rotate : Option Bool)
  | setLowest (hdr : ReqHdr) (station zone : Byte)
  | beginJob (hdr : ReqHdr) (slot : Byte) (source : Option JobSource)
  | jobItemGlobal (hdr : ReqHdr) (slot : Byte) (item : GlobalItem)
  | jobItemStation (hdr : ReqHdr) (slot station : Byte) (item : StationItem)
  | jobItemZone (hdr : ReqHdr) (slot station zone : Byte) (item : ZoneItem)
  | jobItemLane (hdr : ReqHdr) (slot station column : Byte) (code : Option LaneCode) (lf gf : BitVec 16)
  | jobItemRemoveStation (hdr : ReqHdr) (slot station : Byte)
  | checkJob (hdr : ReqHdr) (slot : Byte)
  | switchJob (hdr : ReqHdr) (slot : Byte)
  | writeLineSettings (hdr : ReqHdr) (items : List SettingItem)
  | postVerdict (hdr : ReqHdr) (seq : SeqNo) (columns : Four Bool) (verdict : Option PostedVerdict)
  | approveFirstOff (hdr : ReqHdr) (station column : Byte)
  | reportSplice (hdr : ReqHdr) (c : Pos)
  | reportFoilRoll (hdr : ReqHdr) (station column : Byte) (length : BitVec 32)
  | armWatch (hdr : ReqHdr) (unit : Byte) (spec : WatchSpec) (action : Option WatchAction) (scope : Option WatchScope) (enabled : Option Bool)
  | enableWatch (hdr : ReqHdr) (unit : Byte) (value : Option Bool)
  | clearWatchHit (hdr : ReqHdr) (unit : Byte)
  | releaseWatch (hdr : ReqHdr) (unit : Byte)
  | readTrack (hdr : ReqHdr) (seq : SeqNo)
  | readStation (hdr : ReqHdr) (station : Byte)
  | readLane (hdr : ReqHdr) (station column : Byte)
  | readZone (hdr : ReqHdr) (station zone : Byte)
  | readLine (hdr : ReqHdr)
  | readFaultRecord (hdr : ReqHdr) (unit : Byte)
  | readWatch (hdr : ReqHdr) (unit : Byte)
  | takeNotices (hdr : ReqHdr)
  | setRouting (hdr : ReqHdr) (kinds : BitVec 16) (cls : Option RouteClass)
  | subscribeOutcomes (hdr : ReqHdr)
  | takeOutcomes (hdr : ReqHdr)
  /-- R188: a good request frame arrives at a port whose request in service is not yet answered. -/
  | busyAnswer (p : Port) (tag : Tag) (code : Byte)
deriving DecidableEq, Repr

end Sys2Proof
end

