-- ==== Sys2Proof/Decode.lean ====
section
/-! DEFINITION. The command that a word spells by the table's bits. The table gives bits to none of its rows: this part decodes
no instruction words, and its commands come as frames (Machine/Frames.lean) and as events at its pins. -/

namespace Sys2Proof

/-- No row of the table has bits, so no word spells a command (log entry 5). -/
def decodeTableWord (_nbits _w : Nat) : Option Instr := none

end Sys2Proof
end

