-- ==== Sys2Proof/Machine/State.lean ====
section
/-! DEFINITION. The state of the part, block by block in the order of the introduction's section 4, as plain data, and its
value after power-on. Positional events are not stored a second time: each is read off the item of its owner that schedules
it (log entry 4). -/

namespace Sys2Proof.Machine

/-- Why the machine would stop with a fault. No command of this part stops it: every fault of the manual is an event that the
Fault Unit records and escalates (R153) in a next state, so nothing raises this constructor (safe). -/
inductive Fault where
  /-- Raised by no meaning: the manual describes no command that stops the part (safe). -/
  | partStopped
deriving DecidableEq, Repr

/-- Why a command is refused by the model itself. -/
inductive Refusal where
  /-- The command has no meaning in the model yet; raised by exec's arm of that command only (safe). -/
  | notModelled (mnemonic : String)
deriving DecidableEq, Repr

/-- The outcome of a command of this part. -/
abbrev Outcome (σ : Type) := Host.Outcome σ Fault Refusal

/-- The line state (R135). -/
inductive LineState where
  | stopped | run | hold
deriving DecidableEq, Repr

/-! ### Web Position Unit (R4 to R9) -/

/-- The Web Position Unit. The reverse distance is (H - W) mod 2^32 (R7) and is computed, not stored. -/
structure Web where
  /-- raw web position W (R4) -/
  w : Pos
  /-- high-water position H (R5) -/
  h : Pos
  /-- web speed V, 0..4,095 counts per ms (R8) -/
  v : Nat
  /-- WEB_REVERSAL raised for the excursion in progress (R7) -/
  reversalRaised : Bool
  /-- H at the start of the running 1 ms interval (R8) -/
  intervalStart : Pos
deriving DecidableEq, Repr

/-! ### Mark Reader (R10) -/

inductive ReaderState where
  | idle | acquire | locked | coast | search
deriving DecidableEq, Repr

inductive Origin where
  | real | coasted | lost
deriving DecidableEq, Repr

/-- The single positional event the reader has scheduled, with its position (R10). -/
inductive ReaderEvent where
  | windowClose (x : Pos)
  | synthesis (x : Pos)
deriving DecidableEq, Repr

/-- Last mark, last origin and pred, present or absent together (R10). -/
structure LastMark where
  mark : Pos
  origin : Origin
  pred : Pos
deriving DecidableEq, Repr

structure Reader where
  state : ReaderState
  last : Option LastMark
  /-- lock count, 0..8 -/
  lock : Nat
  /-- coast count, 0..9 -/
  coast : Nat
  /-- stretch estimate E, -32,768..32,768 -/
  e : Int
  event : Option ReaderEvent
deriving DecidableEq, Repr

/-! ### Repeat Track (R23, R24) -/

inductive Decision where
  | none | pass | lift | dry | strike
deriving DecidableEq, Repr

inductive Status where
  | pending | committed | acked | done | missed | faulted | unconfirmed | passed
deriving DecidableEq, Repr

inductive Verdict where
  | unknown | good | reject
deriving DecidableEq, Repr

/-- The drive's report or abort report of one order (R24). -/
structure Report where
  outcome : ReportOutcome
  /-- measured error, -32,767..32,767 -/
  e : Option Int
  advanced : Four Nat
deriving DecidableEq, Repr

/-- The fields of a record for one station (R24). -/
structure StationField where
  /-- commit position K[s]; absent when the station is OFF in the slot -/
  k : Option Pos
  decision : Decision
  status : Status
  /-- T'[s], target as issued -/
  target : Option Pos
  /-- feed[s][c] per column -/
  feed : Option (Four Nat)
  report : Option Report
deriving DecidableEq, Repr

/-- A repeat record (R24). -/
structure TrackRecord where
  seq : SeqNo
  /-- mark position M -/
  mark : Pos
  origin : Origin
  /-- lock: LOCKED or UNLOCKED -/
  locked : Bool
  pitch : Option Nat
  eSnap : Int
  slot : Slot
  /-- splice: FLAGGED or none -/
  flagged : Bool
  watchMark : Four Bool
  /-- first_off: the lanes, by station and column -/
  firstOff : Four (Four Bool)
  /-- verdict[c]; absent for a column not used in the slot -/
  verdict : Four (Option Verdict)
  st : Four StationField
  /-- retire position Z -/
  z : Pos
deriving DecidableEq, Repr

/-! ### Outcome List (R34 to R36) -/

/-- The reasons of R35. -/
structure Reasons where
  verdict : Bool
  splice : Bool
  lost : Bool
  unlocked : Bool
  station : Bool
  embossLift : Bool
  foilMissing : Bool
deriving DecidableEq, Repr

/-- The fields of an outcome record for one station (R34). -/
structure OutcomeStation where
  decision : Decision
  status : Status
  target : Option Pos
  e : Option Int
deriving DecidableEq, Repr

/-- The fields of an outcome record for one used column (R34). -/
structure OutcomeColumn where
  verdict : Verdict
  fedAt : Four Bool
  /-- reject advice: yes or no -/
  advice : Bool
  reasons : Reasons
deriving DecidableEq, Repr

/-- An outcome record as stored, that is without GAP (R34). -/
structure OutcomeRecord where
  seq : SeqNo
  mark : Pos
  origin : Origin
  locked : Bool
  flagged : Bool
  slot : Slot
  st : Four OutcomeStation
  col : Four (Option OutcomeColumn)
deriving DecidableEq, Repr

/-- A subscribed cursor: `pos` is the place in the list of the next record it returns, the list's length when it stands just
past the newest (R36). -/
structure Cursor where
  pos : Nat
  gap : Bool
deriving DecidableEq, Repr

/-- The Outcome List and its three cursors, each detached (`none`) or subscribed (R36). -/
structure OutcomeList where
  records : List OutcomeRecord
  cursors : Three (Option Cursor)
deriving DecidableEq, Repr

/-! ### Register Calculator (R44) -/

/-- T_last, q and q slot, present or absent together (R44). -/
structure LastOrder where
  target : Pos
  seq : SeqNo
  slot : Slot
deriving DecidableEq, Repr

structure Calc where
  /-- trim_s, -2,000..2,000 -/
  trim : Int
  /-- phase state: PHASED or UNPHASED -/
  phased : Bool
  last : Option LastOrder
  /-- missed count, 0..8 -/
  missed : Nat
deriving DecidableEq, Repr

/-! ### Station Sequencers (R60, R139) -/

/-- An entry of the in-flight list: the record by its seq. `phasing` is the order's phasing flag, which R68 sends and R74
reads when the report comes. `restrike` tells an order that RESUME issued (R147) from one that a commit issued, of which R52 speaks. -/
structure InFlight where
  seq : SeqNo
  phasing : Bool
  restrike : Bool := false
deriving DecidableEq, Repr

inductive Awaited where
  | none
  | order (seq : SeqNo)
  | abort
deriving DecidableEq, Repr

/-- A copy of an order closed by deadline or leaving (R60). -/
structure OverdueEntry where
  seq : SeqNo
  slot : Slot
  decision : Decision
  target : Pos
  feed : Four Nat
deriving DecidableEq, Repr

/-- What the abort found for a hold-context entry (R139). -/
inductive AbortOutcome where
  | pending | contactMade | notMade | unknown
deriving DecidableEq, Repr

structure ContextEntry where
  seq : SeqNo
  slot : Slot
  decision : Decision
  target : Pos
  feed : Four Nat
  outcome : AbortOutcome
  action : ResumeAction
deriving DecidableEq, Repr

structure HoldContext where
  trim : Int
  /-- T_last and q at entry -/
  last : Option (Pos × SeqNo)
  phased : Bool
  entries : List ContextEntry
deriving DecidableEq, Repr

/-- What a hold context would have taken from a station had hold entry come before its trip (R141): the phase state, the entry of the
queued order that the trip's abort withdrew, and, where nothing was in flight, the web as the trip found it. -/
structure BeforeTrip where
  phased : Bool
  withdrawn : Option ContextEntry
  idleAt : Option Web
deriving DecidableEq, Repr

structure Sequencer where
  /-- station state: TRIPPED or READY (R61) -/
  tripped : Bool
  /-- in-flight list, oldest first -/
  inFlight : List InFlight
  awaited : Awaited
  /-- link queue: the seq of an issued order not yet transmitted -/
  queue : Option SeqNo
  /-- ack timer: stopped, or running with the microseconds it was started with -/
  timer : Option Nat
  abortSet : List SeqNo
  /-- overdue list, oldest first -/
  overdue : List OverdueEntry
  lastTimedOut : Option SeqNo
  context : Option HoldContext
  /-- what the station's trip found in RUN, until hold entry (R141; the model's own field) -/
  beforeTrip : Option BeforeTrip
deriving DecidableEq, Repr

/-! ### Foil Lane Table (R86, R87) -/

inductive LaneState where
  | noRoll | ready | low | out | broken
deriving DecidableEq, Repr

/-- A physical lane (R86). Its low threshold stands in the line settings. -/
structure Lane where
  state : LaneState
  /-- remaining, 0..4,294,967,295 counts -/
  remaining : Nat
  /-- reserved, 0..131,070 counts -/
  reserved : Nat
deriving DecidableEq, Repr

/-- First-off stage and first-off seq (R87): the seq is present exactly in AWAITING_APPROVAL. -/
inductive FirstOffStage where
  | vacant
  | awaiting (seq : SeqNo)
deriving DecidableEq, Repr

/-- A job lane descriptor (R87). Its F is L_f + G_f. `vacant` is the stage OPEN. -/
structure Descriptor where
  code : LaneCode
  lf : Nat
  gf : Nat
  /-- STRUCK -/
  struck : Bool
  /-- ATTN -/
  attn : Bool
  stage : FirstOffStage
deriving DecidableEq, Repr

/-! ### Heat Arbiter (R102) -/

inductive Reading where
  | temp (t : Nat)
  | openCircuit
deriving DecidableEq, Repr

inductive Block where
  | none | overheat | openCircuit
deriving DecidableEq, Repr

/-- A heater zone (R102). In service is `slotTimer.isSome`, since the timer runs exactly while the zone holds a slot. -/
structure Zone where
  reading : Option Reading
  /-- milliseconds since the last reading -/
  age : Option Nat
  /-- request: pending or clear -/
  request : Bool
  mask : Bool
  block : Block
  slotTimer : Option Nat
deriving DecidableEq, Repr

/-- The Heat Arbiter: zones by station and zone number, the stale flag of each station, the priority order from rank 1 to
rank 16, and the on-set last handed to each link (R102). -/
structure Heat where
  zones : Four (Four Zone)
  stale : Four Bool
  order : List (Idx × Idx)
  onSet : Four (Four Bool)
deriving DecidableEq, Repr

/-! ### Splice List (R128) -/

structure SpliceEntry where
  start : Pos
  stop : Pos
  reports : Nat
deriving DecidableEq, Repr

/-! ### Fault Unit (R151, R152, R160, R162) -/

inductive FaultKind where
  | registerClamp | offRegister | coldCommit | noReport | orderOverrun | staleHeat | spliceLate | registerLost
  | noAck | orderRefused | driveMismatch | linkDown | overheat | sensorOpen | foilOut | foilBreak | trackFull | webReversal
  | clampInTol | lateVerdict | lateReport | foilLow | heatSlow | strayMark
deriving DecidableEq, Repr

inductive FaultClass where
  | soft | hard | warning
deriving DecidableEq, Repr

/-- The kind detail of R152. -/
inductive FaultDetail where
  | order
  | abort
  | refusedBusy
  | refusedRange
  | reported (o : ReportOutcome)
  | abortReported (f : AbortFound)
  /-- a heater zone, station first (R195) -/
  | zone (s z : Idx)
  | reverseDistance (n : Nat)
  | captured (c : Pos)
deriving DecidableEq, Repr

inductive Effect where
  | setSoft | setHard | trip | noChange | warning
deriving DecidableEq, Repr

structure FaultRecord where
  kind : FaultKind
  effect : Effect
  detail : Option FaultDetail
  h : Pos
  seq : Option SeqNo
  column : Option Idx
  target : Option Pos
  /-- present for station units -/
  trim : Option Int
  line : LineState
deriving DecidableEq, Repr

/-- A fault unit (R151). -/
structure FaultUnit where
  soft : Bool
  hard : Bool
  tripped : Bool
  first : Option FaultRecord
  latest : Option FaultRecord
deriving DecidableEq, Repr

/-- STOP REQUEST and its cause set (R162). -/
structure StopRequest where
  asserted : Bool
  trip : Bool
  trackFull : Bool
  watch : Bool
deriving DecidableEq, Repr

/-! ### Notices (R163 to R165) -/

/-- The twelve notice kinds of R163, in its table's order. -/
inductive NoticeKind where
  | unitSoft | unitHard | unitTrip | firstOffStruck | laneAttn | foilLow | foilOut | watchHit | outcomeReady | holdEntered
  | stopAsserted | jobSwitched
deriving DecidableEq, Repr

/-- A notice: a kind with its index (R163). -/
inductive Notice where
  | unitSoft (u : UnitId)
  | unitHard (u : UnitId)
  | unitTrip (u : UnitId)
  | firstOffStruck (s c : Idx)
  | laneAttn (s c : Idx)
  | foilLow (s c : Idx)
  | foilOut (s c : Idx)
  | watchHit (w : Idx)
  | outcomeReady
  | holdEntered
  | stopAsserted
  | jobSwitched
deriving DecidableEq, Repr

/-- A port's routing table: the class of each kind (R164). -/
structure Routing where
  unitSoft : RouteClass
  unitHard : RouteClass
  unitTrip : RouteClass
  firstOffStruck : RouteClass
  laneAttn : RouteClass
  foilLow : RouteClass
  foilOut : RouteClass
  watchHit : RouteClass
  outcomeReady : RouteClass
  holdEntered : RouteClass
  stopAsserted : RouteClass
  jobSwitched : RouteClass
deriving DecidableEq, Repr

/-- A pending pair with the class it joined or was raised to (R165). -/
structure PendingNotice where
  notice : Notice
  /-- URGENT or ROUTINE -/
  urgent : Bool
deriving DecidableEq, Repr

/-! ### Watch Units (R168) -/

/-- Type and parameters of a watch (R168). -/
inductive WatchCondition where
  | atPosition (x : Pos)
  | repeatAtStation (seq : SeqNo) (s : Idx)
  | foilBelow (s c : Idx) (x : Nat)
  | trimBeyond (s : Idx) (x : Nat)
deriving DecidableEq, Repr

structure LastHit where
  h : Pos
  line : LineState
  seq : Option SeqNo
deriving DecidableEq, Repr

structure Watch where
  owner : Option Port
  condition : Option WatchCondition
  action : Option WatchAction
  scope : Option WatchScope
  enabled : Bool
  armed : Bool
  inside : Bool
  hit : Bool
  lastHit : Option LastHit
deriving DecidableEq, Repr

/-! ### Job Store (R177, R180, R185) -/

inductive SlotState where
  | empty | loading | ready | invalid | active | retiring
deriving DecidableEq, Repr

/-- One heater zone of a station entry (R103, R180). -/
structure ZoneParams where
  enabled : Bool
  setpoint : Nat
  band : Nat
  reqOffset : Nat
  mode : ZoneMode
deriving DecidableEq, Repr

/-- A present station's entry (R180). `lanes` holds its four descriptors and is present exactly for a foil type (R87). -/
structure StationEntry where
  type : StationType
  d : Nat
  a : Nat
  lead : Nat
  reportSpan : Nat
  stepMax : Nat
  tol : Nat
  trimLim : Nat
  gain : Nat
  slew : Nat
  liftOnReject : Bool
  zones : Four ZoneParams
  lanes : Option (Four Descriptor)
deriving DecidableEq, Repr

/-- The global parameters of a job (R180). -/
structure JobGlobals where
  /-- P -/
  pitch : Option Nat
  /-- W_win -/
  window : Option Nat
  lockN : Nat
  coastMax : Nat
  stretchSmooth : Nat
  strikeMinSpeed : Nat
  columns : Option (Four Bool)
  splBefore : Nat
  splAfter : Nat
  unknownFeed : Bool
  /-- COAST_POLICY: PREDICT or LIFT -/
  coastPredict : Bool
deriving DecidableEq, Repr

structure JobRecord where
  globals : JobGlobals
  stations : Four (Option StationEntry)
deriving DecidableEq, Repr

/-- The seven checks of R181. -/
inductive CheckName where
  | ranges | window | anchor | lead | feed | noStation | tooDeep
deriving DecidableEq, Repr

/-- The global parameters by their names (R180), SPL_BEFORE before SPL_AFTER. -/
inductive GlobalName where
  | pitch | window | lockN | coastMax | stretchSmooth | strikeMinSpeed | columnsUsed | splBefore | splAfter | unknownFeed
  | coastPolicy
deriving DecidableEq, Repr, Inhabited

/-- The item a failing check concerns (R181). -/
inductive CheckItem where
  | parameter (g : GlobalName)
  | station (s : Idx)
  | zone (s z : Idx)
  | lane (s c : Idx)
deriving DecidableEq, Repr, Inhabited

end Sys2Proof.Machine

namespace Sys2Proof.Config

/-- FREE VALUE (DESIGN CHOICE, safe, log entry 18): the parameter that a failing WINDOW check concerns is P where this holds of
the record and W_win otherwise. R181 compares the two and does not say which of them is the item concerned. -/
opaque windowNamesPitch : Machine.JobRecord → Bool

/-- FREE VALUE (DESIGN CHOICE, safe, log entry 18): the item that a failing NO_STATION or TOO_DEEP check concerns. R181 states
no item for these two checks of the record as a whole. -/
opaque recordItem : Machine.CheckName → Machine.JobRecord → Machine.CheckItem

end Sys2Proof.Config

namespace Sys2Proof.Machine

structure FailingCheck where
  check : CheckName
  item : CheckItem
deriving DecidableEq, Repr

structure JobSlot where
  state : SlotState
  job : Option JobRecord
  /-- reference count, 0..48 (R178) -/
  refs : Nat
  failing : Option FailingCheck
  retireDist : Option Nat
deriving DecidableEq, Repr

structure LineSettings where
  nSlot : Nat
  minHold : Nat
  maxHold : Nat
  arbMode : ArbMode
  overLimit : Nat
  spliceDist : Nat
  reverseLimit : Nat
  /-- low threshold per lane (R86) -/
  low : Four (Four Nat)
deriving DecidableEq, Repr

/-! ### Replies (R188, R190) -/

/-- The result codes of R188. -/
inductive ResultCode where
  | ok | busy | denied | state | range | noRepeat | full | owned | inUse | invalid | notStruck | kept | estop | context
deriving DecidableEq, Repr

/-- Why a RESTRIKE entry is invalid (R145). -/
inductive RestrikeCause where
  | unitTripped | lineTripped | unphased
deriving DecidableEq, Repr

/-- What RESUME did with a station's RESTRIKE entries (R146). -/
structure Restruck where
  ordered : List SeqNo
  passed : List SeqNo
deriving DecidableEq, Repr

/-- A slot as READ LINE shows it, in the order of R177, the global items standing for its job record (R190). -/
structure SlotView where
  state : SlotState
  globals : Option JobGlobals
  refs : Nat
  failing : Option FailingCheck
  retireDist : Option Nat
deriving DecidableEq, Repr

/-- A hold-context entry as READ LINE summarises it (R190). -/
structure ContextSummary where
  seq : SeqNo
  outcome : AbortOutcome
  action : ResumeAction
deriving DecidableEq, Repr

/-- The three flags of a fault unit (R151). -/
structure UnitFlags where
  soft : Bool
  hard : Bool
  tripped : Bool
deriving DecidableEq, Repr

/-- The contents of READ LINE (R190), in its order. -/
structure LineView where
  w : Pos
  h : Pos
  v : Nat
  reverse : Nat
  reader : ReaderState
  lastMark : Option Pos
  pred : Option Pos
  lock : Nat
  coast : Nat
  e : Int
  count : Nat
  headSeq : Option SeqNo
  tailSeq : Option SeqNo
  nextSeq : SeqNo
  line : LineState
  estop : Bool
  contexts : Four (Option (List ContextSummary))
  slots : Two SlotView
  splices : List SpliceEntry
  inService : Nat
  units : Four UnitFlags
  lineUnit : UnitFlags
  stop : StopRequest
  settings : LineSettings
deriving DecidableEq, Repr

/-- The contents of READ STATION (R190), in its order. -/
structure StationView where
  tripped : Bool
  inFlight : List (SeqNo × Status)
  awaited : Awaited
  abortSet : List SeqNo
  overdue : List OverdueEntry
  trim : Int
  phased : Bool
  last : Option LastOrder
  context : Option HoldContext
  params : Two (Option StationEntry)
deriving DecidableEq, Repr

/-- A descriptor as READ LANE shows it (R86): its F in place of L_f and G_f. -/
structure DescriptorView where
  code : LaneCode
  feed : Nat
  struck : Bool
  attn : Bool
  stage : FirstOffStage
deriving DecidableEq, Repr

/-- The contents of READ LANE (R86), the descriptors of slot 0 and slot 1 each where the slot holds one (log entry 54). -/
structure LaneView where
  state : LaneState
  remaining : Nat
  reserved : Nat
  low : Nat
  descriptors : Two (Option DescriptorView)
deriving DecidableEq, Repr

/-- The contents of READ ZONE (R102): every item of the zone, its station's stale flag and the on-set last handed to its
station's link, its rank, its parameters when it is enabled in the ACTIVE slot, and the HOT state of its station. That "every item above"
takes in these two of the station, and not the whole priority order beside the rank, is DESIGN CHOICE (unsafe, log entry 55). -/
structure ZoneView where
  zone : Zone
  stale : Bool
  onSet : Four Bool
  rank : Nat
  params : Option ZoneParams
  hot : Bool
deriving DecidableEq, Repr

/-- An item of a job record as stored, by its form (R180). -/
inductive StoredItem where
  | global (item : GlobalItem)
  | station (s : Idx) (item : StationItem)
  | zone (s z : Idx) (item : ZoneItem)
  | lane (s c : Idx) (code : LaneCode) (lf gf : BitVec 16)
  | removed (s : Idx)
deriving DecidableEq, Repr

/-- What a reply carries behind its result, as the owning rule says. -/
inductive ReplyBody where
  | empty
  /-- the line state and the E-stop level (R135) -/
  | level (line : LineState) (estop : Bool)
  /-- START refused STATE (R136) -/
  | startRefused (line : LineState) (estop : Bool) (slots : Two SlotState) (u4 : UnitFlags)
  /-- RESUME refused CONTEXT (R145) -/
  | resumeInvalid (line : LineState) (estop : Bool) (s : Idx) (seq : SeqNo) (cause : RestrikeCause)
  /-- RESUME accepted (R146) -/
  | resumed (line : LineState) (estop : Bool) (restruck : Four Restruck)
  | trim (t : Int)
  | flags (f : UnitFlags)
  /-- JOB ITEM accepted: the item as stored (R180) -/
  | stored (item : StoredItem)
  | checkPassed (retireDist depth : Nat)
  | checkFailed (f : FailingCheck)
  | slotStates (slots : Two SlotState)
  | settings (l : LineSettings)
  | verdicts (seq : SeqNo) (v : Four (Option Verdict))
  | splice (start stop : Pos) (flagged : Nat)
  | watch (w : Watch)
  | track (records : List TrackRecord)
  | station (v : StationView)
  | lane (v : LaneView)
  | zone (v : ZoneView)
  | lineView (v : LineView)
  | faultUnit (u : FaultUnit)
  | notices (n : List PendingNotice)
  | routing (r : Routing)
  /-- each record with its GAP (R40) -/
  | outcomes (records : List (OutcomeRecord × Bool))
deriving DecidableEq, Repr

/-- A reply or a BUSY answer (R188, R194): the tag and code of the request it answers, its result and its body. -/
structure Reply where
  tag : Tag
  code : Byte
  result : ResultCode
  body : ReplyBody
deriving DecidableEq, Repr

/-! ### Port Controllers (R188, R191) -/

structure PortState where
  /-- the carrier of the port's link (R191) -/
  carrier : Bool
  /-- request in service: none, or the request that has arrived and is not yet taken (R188) -/
  inService : Option Instr
  routing : Routing
  /-- pending notice set, kept in the order of R166 -/
  pending : List PendingNotice
  /-- frames in the transmitter: the one being sent first, then those that wait, in the order formed (R188) -/
  tx : List Reply
deriving DecidableEq, Repr

/-! ### Station Link Controllers (R192, R194) -/

/-- A frame to a drive (R194). -/
inductive LinkFrame where
  | strikeOrder (seq : SeqNo) (decision : Decision) (phasing : Bool) (target : Pos) (feed : Four Nat)
  | abortOrder (seqs : List SeqNo)
  | heatOrder (on : Four Bool)
deriving DecidableEq, Repr

structure Link where
  carrier : Bool
  /-- the frame being transmitted -/
  sending : Option LinkFrame
  /-- frames handed over and not yet started, in the order handed; at most one of them is a HEAT ORDER -/
  waiting : List LinkFrame
deriving DecidableEq, Repr

/-- The state of the part, and the queue of the commands that wait (first in, first out). -/
structure State where
  web : Web
  reader : Reader
  /-- the Repeat Track, head first (R23) -/
  track : List TrackRecord
  /-- next seq (R23) -/
  nextSeq : SeqNo
  outcomes : OutcomeList
  calcs : Four Calc
  seqr : Four Sequencer
  /-- physical lanes by station and column (R86) -/
  lanes : Four (Four Lane)
  heat : Heat
  /-- Splice List, nearest first (R128) -/
  splices : List SpliceEntry
  /-- fault units U0..U3 (R151) -/
  units : Four FaultUnit
  /-- fault unit U4 (R151) -/
  lineUnit : FaultUnit
  stopReq : StopRequest
  watches : Four Watch
  slots : Two JobSlot
  settings : LineSettings
  /-- line state (R135) -/
  line : LineState
  /-- E-stop level (R135) -/
  estop : Bool
  ports : Three PortState
  links : Four Link
  /-- the commands that wait, first in, first out (the model's own queue) -/
  pending : List Instr
deriving DecidableEq, Repr

/-! ### Power-on (R9, R22, R42, R43, R59, R85, R101, R121, R134, R135, R167, R176, R186, R191, R192) -/

def Web.reset : Web := { w := 0, h := 0, v := 0, reversalRaised := false, intervalStart := 0 }

/-- R22: IDLE, marks absent, counts 0, E 0, no event. -/
def Reader.reset : Reader := { state := .idle, last := none, lock := 0, coast := 0, e := 0, event := none }

/-- R59: trim 0, UNPHASED, T_last, q and q slot absent, missed count 0. -/
def Calc.reset : Calc := { trim := 0, phased := false, last := none, missed := 0 }

/-- R85. -/
def Sequencer.reset : Sequencer :=
  { tripped := false, inFlight := [], awaited := .none, queue := none, timer := none, abortSet := [], overdue := [],
    lastTimedOut := none, context := none, beforeTrip := none }

/-- R101: NO_ROLL, remaining 0, reserved 0. -/
def Lane.reset : Lane := { state := .noRoll, remaining := 0, reserved := 0 }

/-- R121. -/
def Zone.reset : Zone :=
  { reading := none, age := none, request := false, mask := false, block := .none, slotTimer := none }

/-- R104: the default priority order, (0,0) at rank 1 to (3,3) at rank 16. -/
def Heat.defaultOrder : List (Idx × Idx) :=
  [(.i0, .i0), (.i0, .i1), (.i0, .i2), (.i0, .i3), (.i1, .i0), (.i1, .i1), (.i1, .i2), (.i1, .i3),
   (.i2, .i0), (.i2, .i1), (.i2, .i2), (.i2, .i3), (.i3, .i0), (.i3, .i1), (.i3, .i2), (.i3, .i3)]

def Heat.reset : Heat :=
  { zones := .all (.all .reset), stale := .all false, order := Heat.defaultOrder, onSet := .all (.all false) }

/-- R167. -/
def FaultUnit.reset : FaultUnit := { soft := false, hard := false, tripped := false, first := none, latest := none }

def StopRequest.reset : StopRequest := { asserted := false, trip := false, trackFull := false, watch := false }

/-- R164: UNIT_TRIP is URGENT and every other kind OFF. -/
def Routing.reset : Routing :=
  { unitSoft := .off, unitHard := .off, unitTrip := .urgent, firstOffStruck := .off, laneAttn := .off, foilLow := .off,
    foilOut := .off, watchHit := .off, outcomeReady := .off, holdEntered := .off, stopAsserted := .off, jobSwitched := .off }

/-- R176: no owner, nothing configured. Action and scope are absent with the rest. -/
def Watch.reset : Watch :=
  { owner := none, condition := none, action := none, scope := none, enabled := false, armed := false, inside := false,
    hit := false, lastHit := none }

/-- R186: EMPTY. -/
def JobSlot.reset : JobSlot := { state := .empty, job := none, refs := 0, failing := none, retireDist := none }

/-- R185: the power-on values. -/
def LineSettings.reset : LineSettings :=
  { nSlot := 4, minHold := 200, maxHold := 4000, arbMode := .queued, overLimit := 150, spliceDist := 0,
    reverseLimit := 50000, low := .all (.all 5000000) }

/-- R167, R191. The carrier at power-on is DESIGN CHOICE (unsafe): the manual names no value (log entry 2). -/
def PortState.reset : PortState :=
  { carrier := true, inService := none, routing := .reset, pending := [], tx := [] }

/-- R192: the carrier is lost until the first line transition, nothing waits and nothing is sent. -/
def Link.reset : Link := { carrier := false, sending := none, waiting := [] }

/-- The part after power-on, with an empty queue of commands. The E-stop level is the input's (R135); that the input is clear
here is DESIGN CHOICE (unsafe, log entry 1). -/
def State.reset : State :=
  { web := .reset, reader := .reset, track := [], nextSeq := 0,
    outcomes := { records := [], cursors := .all none },
    calcs := .all .reset, seqr := .all .reset, lanes := .all (.all .reset), heat := .reset, splices := [],
    units := .all .reset, lineUnit := .reset, stopReq := .reset, watches := .all .reset, slots := ⟨.reset, .reset⟩,
    settings := .reset, line := .stopped, estop := false, ports := .all .reset, links := .all .reset, pending := [] }

end Sys2Proof.Machine
end

