-- ==== Sys2Proof/Machine/Operands.lean ====
section
/-! DEFINITION. The arithmetic every block uses: modular distance and "reached" (R1), the two roundings (R2), clamps, and the
decoding of drive fields and request indices (R193, R195). -/

namespace Sys2Proof.Machine

/-! ### Positions (R1, R6) -/

/-- The distance from `b` to `a`, read as signed (R1). -/
def signedDist (a b : Pos) : Int := (a - b).toInt

/-- H has reached `x` (R1, R6): (H - x) mod 2^32 is below 2^31. -/
def reached (h x : Pos) : Bool := decide ((h - x).toNat < 2 ^ 31)

/-- W is ahead of H (R1): (W - H) mod 2^32 lies in 1..2^31 - 1. -/
def ahead (w h : Pos) : Bool := decide (1 ≤ (w - h).toNat ∧ (w - h).toNat < 2 ^ 31)

/-- A whole number of counts added to a position, modulo 2^32 (R1). -/
def plus (x : Pos) (n : Int) : Pos := x + BitVec.ofInt 32 n

/-- `x` lies in the inclusive span from `start` to `stop` (R13, R128). -/
def inSpan (start stop x : Pos) : Bool := decide ((x - start).toNat ≤ (stop - start).toNat)

/-- The gap from seq `q` to seq `r` (R3). -/
def seqGap (q r : SeqNo) : Nat := (r - q).toNat

/-! ### Rounding and clamps (R2) -/

/-- RHA(n / d): to the nearest integer, halves away from zero, the quotient exact before rounding (R2). -/
def rha (n : Int) (d : Nat) : Int :=
  if 0 ≤ n then (2 * n + d) / (2 * d) else -((2 * -n + d) / (2 * d))

/-- floor(n / d), toward minus infinity (R2). -/
def floorDiv (n : Int) (d : Nat) : Int := Int.fdiv n d

/-- `x` held within -l..l. -/
def clampAbs (l : Nat) (x : Int) : Int := max (-(l : Int)) (min (l : Int) x)

/-- The sign of a number: -1, 0 or 1 (R49, R54). -/
def signOf (x : Int) : Int := if 0 < x then 1 else if x < 0 then -1 else 0

/-! ### Fields of drive frames and of requests (R193, R195) -/

/-- The measured error of a STRIKE REPORT: none when the flag is clear or the field is -32,768 (R193). -/
def decodeError (present : Bool) (e : BitVec 16) : Option Int :=
  if present ∧ e.toInt ≠ -32768 then some e.toInt else none

/-- A heater value: 65,535 is OPEN, and a temperature above 3,000 is taken as 3,000 (R105, R193). -/
def decodeReading (v : BitVec 16) : Reading :=
  if v.toNat = 65535 then .openCircuit else .temp (min v.toNat Config.readingTop)

/-- Four counts of two bytes each, as whole numbers. -/
def counts (f : Four (BitVec 16)) : Four Nat := .tab fun i => (f.get i).toNat

/-- The index a byte of a request names (R195). -/
def idxOf (b : Byte) : Option Idx := Idx.ofNat? b.toNat

/-- The station and column, or station and zone, that two bytes name. -/
def pairOf (a b : Byte) : Option (Idx × Idx) :=
  match idxOf a, idxOf b with
  | some s, some c => some (s, c)
  | _, _ => none

/-- The fault unit a byte names (R157). -/
def unitOf (b : Byte) : Option UnitId := UnitId.ofNat? b.toNat

/-- The job slot a byte names (R179). -/
def slotOf (b : Byte) : Option Slot := Slot.ofNat? b.toNat

end Sys2Proof.Machine

namespace Sys2Proof

/-- A table changed at one index. -/
def Four.upd {α : Type} (f : Four α) (i : Idx) (g : α → α) : Four α := f.set i (g (f.get i))

/-- A port table changed at one port. -/
def Three.upd {α : Type} (t : Three α) (p : Port) (g : α → α) : Three α := t.set p (g (t.get p))

/-- A slot table changed at one slot. -/
def Two.upd {α : Type} (t : Two α) (i : Slot) (g : α → α) : Two α := t.set i (g (t.get i))

/-- Whether some entry of a table satisfies `p`. -/
def Four.any {α : Type} (f : Four α) (p : α → Bool) : Bool := p f.a0 || p f.a1 || p f.a2 || p f.a3

/-- Whether every entry of a table satisfies `p`. -/
def Four.every {α : Type} (f : Four α) (p : α → Bool) : Bool := p f.a0 && p f.a1 && p f.a2 && p f.a3

end Sys2Proof
end

