-- ==== Sys2Proof/Machine/Flags.lean ====
section
/-! DEFINITION. The Fault Unit's flags, records and STOP REQUEST, and the notice sets of the ports: raising a fault or a
warning and its escalation (R153 to R156, R160 to R162), and offering a notice (R163 to R165). -/

namespace Sys2Proof.Machine

/-! ### Notices (R163 to R165) -/

def Notice.kind : Notice → NoticeKind
  | .unitSoft _ => .unitSoft
  | .unitHard _ => .unitHard
  | .unitTrip _ => .unitTrip
  | .firstOffStruck _ _ => .firstOffStruck
  | .laneAttn _ _ => .laneAttn
  | .foilLow _ _ => .foilLow
  | .foilOut _ _ => .foilOut
  | .watchHit _ => .watchHit
  | .outcomeReady => .outcomeReady
  | .holdEntered => .holdEntered
  | .stopAsserted => .stopAsserted
  | .jobSwitched => .jobSwitched

def unitIndex : UnitId → Nat
  | .station s => s.toNat
  | .line => 4

def laneIndex (s c : Idx) : Nat := 4 * s.toNat + c.toNat

/-- The place of a notice in the order of R166: by kind as in the table of R163, then by index. -/
def Notice.rank : Notice → Nat
  | .unitSoft u => unitIndex u
  | .unitHard u => 16 + unitIndex u
  | .unitTrip u => 32 + unitIndex u
  | .firstOffStruck s c => 48 + laneIndex s c
  | .laneAttn s c => 64 + laneIndex s c
  | .foilLow s c => 80 + laneIndex s c
  | .foilOut s c => 96 + laneIndex s c
  | .watchHit w => 112 + w.toNat
  | .outcomeReady => 128
  | .holdEntered => 144
  | .stopAsserted => 160
  | .jobSwitched => 176

/-- The class a routing table gives a kind (R164). -/
def Routing.cls (r : Routing) : NoticeKind → RouteClass
  | .unitSoft => r.unitSoft
  | .unitHard => r.unitHard
  | .unitTrip => r.unitTrip
  | .firstOffStruck => r.firstOffStruck
  | .laneAttn => r.laneAttn
  | .foilLow => r.foilLow
  | .foilOut => r.foilOut
  | .watchHit => r.watchHit
  | .outcomeReady => r.outcomeReady
  | .holdEntered => r.holdEntered
  | .stopAsserted => r.stopAsserted
  | .jobSwitched => r.jobSwitched

/-- A routing table with class `c` at every kind that `named` names, and the old class elsewhere (R164). -/
def Routing.assign (r : Routing) (named : NoticeKind → Bool) (c : RouteClass) : Routing :=
  { unitSoft := if named .unitSoft then c else r.unitSoft
    unitHard := if named .unitHard then c else r.unitHard
    unitTrip := if named .unitTrip then c else r.unitTrip
    firstOffStruck := if named .firstOffStruck then c else r.firstOffStruck
    laneAttn := if named .laneAttn then c else r.laneAttn
    foilLow := if named .foilLow then c else r.foilLow
    foilOut := if named .foilOut then c else r.foilOut
    watchHit := if named .watchHit then c else r.watchHit
    outcomeReady := if named .outcomeReady then c else r.outcomeReady
    holdEntered := if named .holdEntered then c else r.holdEntered
    stopAsserted := if named .stopAsserted then c else r.stopAsserted
    jobSwitched := if named .jobSwitched then c else r.jobSwitched }

/-- A notice joins a pending set, or coalesces with its pair there (R165). The set is kept in the order of R166. -/
def joinNotice (n : Notice) (urgent : Bool) : List PendingNotice → List PendingNotice
  | [] => [⟨n, urgent⟩]
  | x :: xs =>
    if x.notice = n then ⟨n, x.urgent || urgent⟩ :: xs
    else if n.rank < x.notice.rank then ⟨n, urgent⟩ :: x :: xs
    else x :: joinNotice n urgent xs

/-- A notice judged by one port's routing table (R163, R164). -/
def PortState.offer (p : PortState) (n : Notice) : PortState :=
  match p.routing.cls n.kind with
  | .off => p
  | .routine => { p with pending := joinNotice n false p.pending }
  | .urgent => { p with pending := joinNotice n true p.pending }

/-- A notice offered to one port (R163). -/
def State.offerTo (s : State) (p : Port) (n : Notice) : State :=
  { s with ports := s.ports.set p ((s.ports.get p).offer n) }

/-- A notice offered to every port (R163). -/
def State.offer (s : State) (n : Notice) : State :=
  { s with ports := .tab fun p => (s.ports.get p).offer n }

/-- The URGENT line of a port: asserted while its set holds an URGENT pair (R165). -/
def PortState.urgentLine (p : PortState) : Bool := p.pending.any (·.urgent)

/-- The ROUTINE line of a port: asserted while its set holds a ROUTINE pair (R165). -/
def PortState.routineLine (p : PortState) : Bool := p.pending.any (fun x => !x.urgent)

/-! ### STOP REQUEST (R162) -/

inductive StopCause where
  | trip | trackFull | watch
deriving DecidableEq, Repr

def StopRequest.add (r : StopRequest) : StopCause → StopRequest
  | .trip => { r with asserted := true, trip := true }
  | .trackFull => { r with asserted := true, trackFull := true }
  | .watch => { r with asserted := true, watch := true }

/-- STOP REQUEST is asserted with a cause, and STOP_ASSERTED is raised (R162). -/
def State.assertStop (s : State) (c : StopCause) : State :=
  ({ s with stopReq := s.stopReq.add c }).offer .stopAsserted

/-- STOP REQUEST is deasserted and its cause set emptied (R162). -/
def State.deassertStop (s : State) : State := { s with stopReq := .reset }

/-! ### Faults and warnings (R152 to R156, R160, R161) -/

/-- The class of each kind (R152). -/
def FaultKind.cls : FaultKind → FaultClass
  | .registerClamp | .offRegister | .coldCommit | .noReport | .orderOverrun | .staleHeat | .spliceLate | .registerLost => .soft
  | .noAck | .orderRefused | .driveMismatch | .linkDown | .overheat | .sensorOpen | .foilOut | .foilBreak | .trackFull
  | .webReversal => .hard
  | .clampInTol | .lateVerdict | .lateReport | .foilLow | .heatSlow | .strayMark => .warning

/-- What a block hands the Fault Unit (R153). -/
structure FaultEvent where
  kind : FaultKind
  unit : UnitId
  detail : Option FaultDetail := none
  seq : Option SeqNo := none
  column : Option Idx := none
  target : Option Pos := none
deriving DecidableEq, Repr

def State.unit (s : State) : UnitId → FaultUnit
  | .station i => s.units.get i
  | .line => s.lineUnit

def State.setUnit (s : State) (u : UnitId) (f : FaultUnit) : State :=
  match u with
  | .station i => { s with units := s.units.set i f }
  | .line => { s with lineUnit := f }

/-- The fault record of an event as it would be written now (R160). -/
def State.faultRecord (s : State) (ev : FaultEvent) (eff : Effect) : FaultRecord :=
  { kind := ev.kind, effect := eff, detail := ev.detail, h := s.web.h, seq := ev.seq, column := ev.column,
    target := ev.target,
    trim := match ev.unit with
      | .station i => some (s.calcs.get i).trim
      | .line => none
    line := s.line }

/-- A first-fault record that is empty is filled, and a filled one stays (R160). -/
def FaultUnit.fillFirst (u : FaultUnit) (r : FaultRecord) : FaultUnit :=
  { u with first := u.first.or (some r) }

/-- The effect a hard fault, or a soft one handled as hard, has at a unit (R155). -/
def FaultUnit.hardEffect (u : FaultUnit) : Effect :=
  if u.hard = false then .setHard else if u.tripped = false then .trip else .noChange

/-- A hard fault, or a soft fault handled as hard, judged against HARD and TRIPPED (R155, R156). The hand-over of a trip to
the sequencer follows the raising event (R153), see `State.settleTrips`. -/
def State.raiseHard (s : State) (ev : FaultEvent) : State :=
  let u := s.unit ev.unit
  let r := s.faultRecord ev u.hardEffect
  match u.hardEffect with
  | .setHard => (s.setUnit ev.unit ({ u with hard := true }.fillFirst r)).offer (.unitHard ev.unit)
  | .trip =>
    ((s.setUnit ev.unit ({ u with tripped := true }.fillFirst r)).assertStop .trip).offer (.unitTrip ev.unit)
  | _ => s.setUnit ev.unit (u.fillFirst r)

/-- The latest-event record takes an event with the effect it had (R161). -/
def State.writeLatest (s : State) (ev : FaultEvent) (eff : Effect) : State :=
  s.setUnit ev.unit { s.unit ev.unit with latest := some (s.faultRecord ev eff) }

/-- A fault or a warning reaches its unit (R153, R154, R155, R161). -/
def State.raise (s : State) (ev : FaultEvent) : State :=
  match ev.kind.cls with
  | .warning => s.writeLatest ev .warning
  | .soft =>
    if (s.unit ev.unit).soft = false then
      ((s.setUnit ev.unit { s.unit ev.unit with soft := true }).writeLatest ev .setSoft).offer (.unitSoft ev.unit)
    else (s.raiseHard ev).writeLatest ev (s.unit ev.unit).hardEffect
  | .hard => s.raiseHard ev

end Sys2Proof.Machine
end

