-- ==== Sys2Proof/Machine/Ops.lean ====
section
/-! DEFINITION. The shared operations over State: reading the job slots, records and lanes; the watch units' test and hit
(R171, R174); the foil lanes' reservation, consumption and settling (R90 to R96); the station links (R192); and serving a
master request (R188). -/

namespace Sys2Proof.Machine

/-! ### Job slots (R177, R180) -/

/-- The blank record's global parameters (R180). -/
def JobGlobals.blank : JobGlobals :=
  { pitch := none, window := none, lockN := 3, coastMax := 2, stretchSmooth := 2, strikeMinSpeed := 0, columns := none,
    splBefore := 0, splAfter := 0, unknownFeed := false, coastPredict := false }

/-- The blank record (R180): no station present. -/
def JobRecord.blank : JobRecord := { globals := .blank, stations := .all none }

/-- The slot that is ACTIVE, if any (R177). -/
def State.active (s : State) : Option Slot :=
  if s.slots.s0.state = .active then some .slot0
  else if s.slots.s1.state = .active then some .slot1
  else none

/-- The global parameters of a slot's record. A slot without a record reads as the blank record; no rule reads one. -/
def State.globals (s : State) (j : Slot) : JobGlobals :=
  match (s.slots.get j).job with
  | some r => r.globals
  | none => .blank

/-- The global parameters of the ACTIVE slot, the blank ones when no slot is ACTIVE. -/
def State.activeGlobals (s : State) : JobGlobals :=
  match s.active with
  | some j => s.globals j
  | none => .blank

/-- P of a set of global parameters (R180). -/
def JobGlobals.p (g : JobGlobals) : Nat := g.pitch.getD 0

/-- W_win of a set of global parameters (R180). -/
def JobGlobals.wWin (g : JobGlobals) : Nat := g.window.getD 0

/-- Whether a column is used in the slot (R180). -/
def JobGlobals.uses (g : JobGlobals) (c : Idx) : Bool :=
  match g.columns with
  | some u => u.get c
  | none => false

/-- The entry of a station in a slot, absent when the station is OFF there (R180). -/
def State.entry (s : State) (j : Slot) (st : Idx) : Option StationEntry :=
  match (s.slots.get j).job with
  | some r => r.stations.get st
  | none => none

/-- The entry of a station in the ACTIVE slot. -/
def State.activeEntry (s : State) (st : Idx) : Option StationEntry :=
  match s.active with
  | some j => s.entry j st
  | none => none

/-- FOIL or FOIL_EMBOSS (introduction, 5.8). -/
def isFoil : StationType → Bool
  | .foil | .foilEmboss => true
  | .emboss => false

/-- The descriptor of lane (st, c) in a slot, if it holds one (R87). -/
def State.descriptor (s : State) (j : Slot) (st c : Idx) : Option Descriptor :=
  match s.entry j st with
  | some e => e.lanes.map (·.get c)
  | none => none

/-- The record of a slot with the entry of one station changed. -/
def State.setEntry (s : State) (j : Slot) (st : Idx) (e : StationEntry) : State :=
  { s with slots := s.slots.upd j fun sl =>
      { sl with job := sl.job.map fun r => { r with stations := r.stations.set st (some e) } } }

/-- The descriptor of lane (st, c) in a slot, replaced where there is one. -/
def State.setDescriptor (s : State) (j : Slot) (st c : Idx) (d : Descriptor) : State :=
  match s.entry j st with
  | some e => s.setEntry j st { e with lanes := e.lanes.map (·.set c d) }
  | none => s

/-- F of a descriptor (R87). -/
def Descriptor.feed (d : Descriptor) : Nat := d.lf + d.gf

/-- L of R54: TRIM_LIM of the station in the ACTIVE slot, 2,000 when it has no entry there or no slot is ACTIVE. -/
def State.trimLimit (s : State) (st : Idx) : Nat :=
  match s.activeEntry st with
  | some e => e.trimLim
  | none => Config.trimTop

/-! ### The track (R24) -/

def findRecord (q : SeqNo) : List TrackRecord → Option TrackRecord
  | [] => none
  | r :: rs => if r.seq = q then some r else findRecord q rs

/-- The record of a seq in the track. -/
def State.record (s : State) (q : SeqNo) : Option TrackRecord := findRecord q s.track

/-- The record of a seq, changed. -/
def State.updRecord (s : State) (q : SeqNo) (f : TrackRecord → TrackRecord) : State :=
  { s with track := s.track.map fun r => if r.seq = q then f r else r }

/-- The fields of one station of a record, changed. -/
def TrackRecord.updStation (r : TrackRecord) (st : Idx) (f : StationField → StationField) : TrackRecord :=
  { r with st := r.st.upd st f }

/-- The fields of one station of the record of a seq, changed. -/
def State.updField (s : State) (q : SeqNo) (st : Idx) (f : StationField → StationField) : State :=
  s.updRecord q fun r => r.updStation st f

/-- The tail of the track (R23). -/
def State.tail (s : State) : Option TrackRecord := s.track.getLast?

/-- The statuses that are final (R24). -/
def Status.final : Status → Bool
  | .done | .missed | .faulted | .unconfirmed | .passed => true
  | .pending | .committed | .acked => false

/-! ### Watch units (R171, R174) -/

def State.updWatch (s : State) (w : Idx) (f : Watch → Watch) : State := { s with watches := s.watches.upd w f }

/-- A one-shot condition (R168). -/
def WatchCondition.oneShot : WatchCondition → Bool
  | .atPosition _ | .repeatAtStation _ _ => true
  | .foilBelow _ _ _ | .trimBeyond _ _ => false

/-- Watch unit `w` is met, the record concerned being the one of that seq (R171). -/
def State.meetWatch (s : State) (w : Idx) (concerned : Option SeqNo) : State :=
  let u := s.watches.get w
  let oneShot := match u.condition with
    | some c => c.oneShot
    | none => false
  let s1 := s.updWatch w fun u =>
    { u with hit := true, lastHit := some { h := s.web.h, line := s.line, seq := concerned },
             armed := if oneShot then false else u.armed, inside := if oneShot then u.inside else true }
  if u.enabled then
    match u.action with
    | some .notice =>
      match u.owner with
      | some p => s1.offerTo p (.watchHit w)
      | none => s1
    | some .mark =>
      match concerned with
      | some q => s1.updRecord q fun r => { r with watchMark := r.watchMark.set w true }
      | none => s1
    | some .stop => s1.assertStop .watch
    | none => s1
  else s1

/-- The seq of the track's tail, absent when the track is empty: the record concerned of every type but REPEAT_AT_STATION
(R171). -/
def State.tailSeq (s : State) : Option SeqNo := s.tail.map (·.seq)

/-- A level unit is tested with the condition's value as it now stands (R174). -/
def State.testLevel (s : State) (w : Idx) (holds : Bool) : State :=
  if holds then
    if (s.watches.get w).inside then s else s.meetWatch w s.tailSeq
  else s.updWatch w fun u => { u with inside := false }

/-- A change of a lane's remaining is handed to the watch units (R93, R174). -/
def State.laneChanged (s : State) (st c : Idx) : State :=
  Idx.all.foldl (fun s w =>
    match (s.watches.get w).condition with
    | some (.foilBelow ws wc x) =>
      if ws = st ∧ wc = c then s.testLevel w (decide (((s.lanes.get st).get c).remaining < x)) else s
    | _ => s) s

/-- A change of a station's trim is handed to the watch units (R56, R174). -/
def State.trimChanged (s : State) (st : Idx) : State :=
  Idx.all.foldl (fun s w =>
    match (s.watches.get w).condition with
    | some (.trimBeyond ws x) =>
      if ws = st then s.testLevel w (decide (x < (s.calcs.get st).trim.natAbs)) else s
    | _ => s) s

/-- A commit of a record at a station is handed to the watch units (R67 step 8, R173). -/
def State.commitWatched (s : State) (st : Idx) (q : SeqNo) : State :=
  Idx.all.foldl (fun s w =>
    let u := s.watches.get w
    if u.armed ∧ u.condition = some (.repeatAtStation q st) then s.meetWatch w (some q) else s) s

/-- A record leaves the track: units still armed for it disarm (R173). -/
def State.disarmFor (s : State) (q : SeqNo) : State :=
  { s with watches := .tab fun w =>
      let u := s.watches.get w
      match u.condition with
      | some (.repeatAtStation q' _) => if q' = q then { u with armed := false } else u
      | _ => u }

/-! ### Foil lanes (R86 to R96) -/

def State.lane (s : State) (st c : Idx) : Lane := (s.lanes.get st).get c

def State.updLane (s : State) (st c : Idx) (f : Lane → Lane) : State :=
  { s with lanes := s.lanes.upd st fun row => row.upd c f }

/-- Every lane of a station, changed column by column. -/
def State.updLanes (s : State) (st : Idx) (f : Idx → Lane → Lane) : State :=
  { s with lanes := s.lanes.upd st fun row => .tab fun c => f c (row.get c) }

/-- An order's feeds join the reserved foil of the station's lanes (R91). -/
def State.reserve (s : State) (st : Idx) (feed : Four Nat) : State :=
  s.updLanes st fun c l => { l with reserved := l.reserved + feed.get c }

/-- An order's feeds leave the reserved foil again (R91). -/
def State.release (s : State) (st : Idx) (feed : Four Nat) : State :=
  s.updLanes st fun c l => { l with reserved := l.reserved - feed.get c }

/-- A lane that cannot feed runs out: OUT, the hard fault and the notice FOIL_OUT (R90). -/
def State.runOut (s : State) (st c : Idx) (q : SeqNo) : State :=
  ((s.updLane st c fun l => { l with state := .out }).raise
    { kind := .foilOut, unit := .station st, seq := some q, column := some c }).offer (.foilOut st c)

/-- The low test of R95. -/
def State.lowTest (s : State) (st c : Idx) : State :=
  let l := s.lane st c
  if l.state = .ready ∧ l.remaining < (s.settings.low.get st).get c then
    ((s.updLane st c fun l => { l with state := .low }).raise
      { kind := .foilLow, unit := .station st, column := some c }).offer (.foilLow st c)
  else s

/-- A break flag judged by the lane's state (R96). -/
def State.breakLane (s : State) (st c : Idx) (q : SeqNo) : State :=
  match (s.lane st c).state with
  | .ready | .low | .out =>
    (s.updLane st c fun l => { l with state := .broken }).raise
      { kind := .foilBreak, unit := .station st, seq := some q, column := some c }
  | .broken | .noRoll => s

/-- The descriptor is AWAITING_APPROVAL with first-off seq `q` (R87). -/
def Descriptor.awaits (d : Descriptor) (q : SeqNo) : Bool := decide (d.stage = .awaiting q)

/-- The stage of a descriptor that awaits approval of `q` returns to OPEN (R94). -/
def Descriptor.giveUp (d : Descriptor) (q : SeqNo) : Descriptor :=
  if d.awaits q then { d with stage := .vacant } else d

/-- First-off lanes of a station whose first-off seq is `q` return to OPEN in the slot of the order (R94). -/
def State.giveUpFirstOff (s : State) (j : Slot) (st : Idx) (q : SeqNo) : State :=
  match s.entry j st with
  | some e => s.setEntry j st { e with lanes := e.lanes.map fun ls => .tab fun c => (ls.get c).giveUp q }
  | none => s

/-- Steps 2 and 3 of R93 on one descriptor: STRUCK, and the first-off stage. -/
def Descriptor.settle (d : Descriptor) (q : SeqNo) (fed advanced : Nat) : Descriptor :=
  let d1 := if 0 < advanced ∧ 0 < fed then { d with struck := true } else d
  if advanced = 0 then d1.giveUp q else d1

/-- Foil pulled on one lane: remaining falls, and the change is handed to the watch units (R93 step 1). -/
def State.consume (s : State) (st c : Idx) (advanced : Nat) : State :=
  (s.updLane st c fun l => { l with remaining := l.remaining - advanced }).laneChanged st c

/-- How an order's foil is applied to the lanes of its station (R93, R94). `whole` is false for a late report whose record
has left the track: steps 2 and 3 are then taken only for a lane that awaits approval of the report's seq. -/
structure FoilReport where
  slot : Slot
  seq : SeqNo
  fed : Four Nat
  advanced : Four Nat
  breaks : Four Bool
  whole : Bool
deriving DecidableEq, Repr

/-- Steps 1 to 5 of R93 for one column. -/
def State.applyFoil (s : State) (st : Idx) (r : FoilReport) (c : Idx) : State :=
  let s1 := s.consume st c (r.advanced.get c)
  let s2 := match s1.descriptor r.slot st c with
    | some d =>
      if r.whole || d.awaits r.seq then
        s1.setDescriptor r.slot st c (d.settle r.seq (r.fed.get c) (r.advanced.get c))
      else s1
    | none => s1
  let s3 := s2.lowTest st c
  if r.breaks.get c then s3.breakLane st c r.seq else s3

/-- A report or an abort report is applied to the lanes of a station, column by column (R93, R94). -/
def State.applyFoilAll (s : State) (st : Idx) (r : FoilReport) : State :=
  Idx.all.foldl (fun s c => s.applyFoil st r c) s

/-- What an order of seq `q` that ends without a report leaves of itself at its lanes: its feeds are released and its first-off lanes
return to OPEN (R91, R94). -/
def State.settleUnreported (s : State) (st : Idx) (j : Slot) (q : SeqNo) (feed : Four Nat) : State :=
  (s.release st feed).giveUpFirstOff j st q

/-- An order of seq `q` ends by refusal, ack or abort timer expiry or link loss: its lanes are settled and take the low test (R94, R95).
The low test at an end that applies no consumption is DEDUCED (unsafe, log entry 13). R94 and R95 give no order in which the lanes of one
end take the test, where R93 has columns 0..3 for a report: the model takes C0 to C3, which shows in the column of the latest-event
record where several become LOW. DESIGN CHOICE (unsafe, log entry 41). -/
def State.endUnreported (s : State) (st : Idx) (j : Slot) (q : SeqNo) (feed : Four Nat) : State :=
  Idx.all.foldl (fun s c => s.lowTest st c) (s.settleUnreported st j q feed)

/-! ### Station links (R68, R111, R192) -/

def LinkFrame.isHeat : LinkFrame → Bool
  | .heatOrder _ => true
  | .strikeOrder _ _ _ _ _ | .abortOrder _ => false

/-- A HEAT ORDER replaces the one that still waits, in its place, or joins behind the frames that wait (R192). -/
def placeHeat (on : Four Bool) : List LinkFrame → List LinkFrame
  | [] => [.heatOrder on]
  | f :: fs => if f.isHeat then .heatOrder on :: fs else f :: placeHeat on fs

/-- The transmitter, when it is free and the carrier is up, starts the next frame handed to it (R192). -/
def Link.pump (l : Link) : Link :=
  match l.carrier, l.sending, l.waiting with
  | true, none, f :: fs => { l with sending := some f, waiting := fs }
  | _, _, _ => l

/-- A frame is handed to the Station Link Controller (R192). -/
def Link.hand (l : Link) (f : LinkFrame) : Link :=
  match f with
  | .heatOrder on => { l with waiting := placeHeat on l.waiting }.pump
  | _ => { l with waiting := l.waiting ++ [f] }.pump

/-- Strike and abort orders handed over and not yet started are withdrawn (log entry 9). -/
def Link.withdraw (l : Link) : Link := { l with waiting := l.waiting.filter LinkFrame.isHeat }

def State.updLink (s : State) (st : Idx) (f : Link → Link) : State := { s with links := s.links.upd st f }

/-! ### Serving a request (R188, R189, R191) -/

/-- A result with its body. -/
structure Answer where
  result : ResultCode
  body : ReplyBody
deriving DecidableEq, Repr

/-- An answer without a body. -/
def Answer.bare (r : ResultCode) : Answer := ⟨r, .empty⟩

def State.updPort (s : State) (p : Port) (f : PortState → PortState) : State := { s with ports := s.ports.upd p f }

/-- A reply or BUSY answer is handed to the port's transmitter (R188). -/
def State.reply (s : State) (p : Port) (tag : Tag) (code : Byte) (a : Answer) : State :=
  s.updPort p fun ps => { ps with tx := ps.tx ++ [{ tag := tag, code := code, result := a.result, body := a.body }] }

/-- The owning block takes the request: its effects are made, its reply is formed and handed to the transmitter, and the port
has no request in service (R188). -/
def State.answer (s : State) (hdr : ReqHdr) (code : Byte) (take : State → State × Answer) : State :=
  let r := take (s.updPort hdr.port fun ps => { ps with inService := none })
  r.1.reply hdr.port hdr.tag code r.2

/-- A master request at its port (R188, R191). `make` is the command as a function of its header, by which the request that
stands in service is known again when it is taken. While the port's carrier is down no frame arrives. -/
def State.serve (s : State) (hdr : ReqHdr) (make : ReqHdr → Instr) (code : Byte) (take : State → State × Answer) : State :=
  let p := s.ports.get hdr.port
  let waiting := make { hdr with stage := .arrives }
  if p.carrier = false then s
  else
    match hdr.stage with
    | .arrives =>
      match p.inService with
      | none => s.updPort hdr.port fun ps => { ps with inService := some waiting }
      | some _ => s.reply hdr.port hdr.tag code (.bare .busy)
    | .whole =>
      match p.inService with
      | none => s.answer hdr code take
      | some _ => s.reply hdr.port hdr.tag code (.bare .busy)
    | .taken => if p.inService = some waiting then s.answer hdr code take else s

/-- A request of the Line Port alone: DENIED elsewhere (R189). -/
def lineOnly (hdr : ReqHdr) (take : State → State × Answer) (s : State) : State × Answer :=
  if hdr.port = .line then take s else (s, .bare .denied)

/-- A read: the state is not changed (R190). -/
def readOnly (look : State → Answer) (s : State) : State × Answer := (s, look s)

end Sys2Proof.Machine
end

