-- ==== Sys2Proof/Machine/Sequencer.lean ====
section
/-! DEFINITION. The Station Sequencers after the commit: transmitting orders (R68), acknowledgements (R69 to R72), reports and
deadlines (R73 to R78), link loss (R79), aborts (R80 to R83, R140), the effects of a trip (R84), and what a report teaches the
Register Calculator (R51 to R56). -/

namespace Sys2Proof.Machine

/-! ### Register Calculator state (R44, R51, R54, R56) -/

def State.updCalc (s : State) (st : Idx) (f : Calc → Calc) : State := { s with calcs := s.calcs.upd st f }

def State.unphase (s : State) (st : Idx) : State := s.updCalc st fun c => { c with phased := false }

/-- A trim of a station takes a value; a change is handed to the watch units (R56). -/
def State.setTrim (s : State) (st : Idx) (t : Int) : State :=
  if t = (s.calcs.get st).trim then s else (s.updCalc st fun c => { c with trim := t }).trimChanged st

/-- The trim after a report that carries `e` (R54): gain, then slew, then range. -/
def learnedTrim (trim e : Int) (gain slew limit : Nat) : Int :=
  let d := -(rha (e * gain) 16)
  let d1 := if slew < d.natAbs then signOf d * slew else d
  clampAbs limit (trim + d1)

/-! ### Orders on the link (R68) -/

def State.updSeqr (s : State) (st : Idx) (f : Sequencer → Sequencer) : State := { s with seqr := s.seqr.upd st f }

/-- The in-flight list holds the seq (R60). -/
def Sequencer.holds (sq : Sequencer) (q : SeqNo) : Bool := sq.inFlight.any fun e => e.seq = q

/-- The phasing flag of an order in flight (R68). -/
def Sequencer.phasing (sq : Sequencer) (q : SeqNo) : Bool := sq.inFlight.any fun e => e.seq = q && e.phasing

/-- The order in flight is a restrike (R147). -/
def Sequencer.restruck (sq : Sequencer) (q : SeqNo) : Bool := sq.inFlight.any fun e => e.seq = q && e.restrike

/-- The feeds a record's order carried at a station; no feeds before an order (R24). -/
def StationField.feeds (f : StationField) : Four Nat := f.feed.getD (.all 0)

/-- The issued target of a record at a station (R24). -/
def StationField.issued (f : StationField) : Pos := f.target.getD 0

/-- The STRIKE ORDER of a record at a station (R68, R194). -/
def TrackRecord.strikeOrder (r : TrackRecord) (st : Idx) (phasing : Bool) : LinkFrame :=
  let f := r.st.get st
  .strikeOrder r.seq f.decision phasing f.issued f.feeds

/-- The order of seq `q` is handed to the Station Link Controller: awaited becomes its seq and the ack timer starts (R68,
R192). -/
def State.transmit (s : State) (st : Idx) (q : SeqNo) : State :=
  match s.record q with
  | some r =>
    (s.updLink st fun l => l.hand (r.strikeOrder st ((s.seqr.get st).phasing q))).updSeqr st fun sq =>
      { sq with awaited := .order q, queue := none, timer := some Config.ackTimeout }
  | none => s

/-- An issued order is transmitted when nothing is awaited, and waits in the link queue otherwise (R68). -/
def State.issue (s : State) (st : Idx) (q : SeqNo) : State :=
  if (s.seqr.get st).awaited = .none then s.transmit st q
  else s.updSeqr st fun sq => { sq with queue := some q }

/-- The queued order, if any, is transmitted once nothing is awaited (R68). -/
def State.releaseQueue (s : State) (st : Idx) : State :=
  match (s.seqr.get st).awaited, (s.seqr.get st).queue with
  | .none, some q => s.transmit st q
  | _, _ => s

/-- Nothing is awaited any more and the ack timer is stopped. A frame of the order that was not yet started is withdrawn
(DEDUCED, log entry 9). -/
def State.clearAwaited (s : State) (st : Idx) : State :=
  (s.updSeqr st fun sq => { sq with awaited := .none, timer := none }).updLink st Link.withdraw

/-! ### Closing an order (R60, R91, R94) -/

def State.leaveInFlight (s : State) (st : Idx) (q : SeqNo) : State :=
  s.updSeqr st fun sq => { sq with inFlight := sq.inFlight.filter fun e => decide (e.seq ≠ q) }

/-- The order of `q` is closed without a report: status, in-flight list, foil (R70, R71, R79, R82). -/
def State.closeUnreported (s : State) (st : Idx) (q : SeqNo) (status : Status) : State :=
  match s.record q with
  | some r =>
    ((s.updField q st fun f => { f with status := status }).leaveInFlight st q).endUnreported st r.slot q (r.st.get st).feeds
  | none => s.leaveInFlight st q

/-- The order of `q` is closed MISSED by STATION RESET or LINE RESET: status, in-flight list, foil (R85, R94). No low test is made here:
DEDUCED (unsafe, log entry 13), R101 keeps the lane state at a reset, and R150, R161 and R167 the latest-event record and the pending
sets. -/
def State.closeAtReset (s : State) (st : Idx) (q : SeqNo) : State :=
  match s.record q with
  | some r =>
    ((s.updField q st fun f => { f with status := .missed }).leaveInFlight st q).settleUnreported st r.slot q (r.st.get st).feeds
  | none => s.leaveInFlight st q

/-- The hold context's entry of `q`, if it is still PENDING, takes the abort outcome (R140). -/
def State.settleContext (s : State) (st : Idx) (q : SeqNo) (o : AbortOutcome) : State :=
  s.updSeqr st fun sq =>
    { sq with context := sq.context.map fun c =>
        { c with entries := c.entries.map fun e => if e.seq = q ∧ e.outcome = .pending then { e with outcome := o } else e } }

/-- The overdue copy of a record's order (R60, R76). -/
def TrackRecord.overdueCopy (r : TrackRecord) (st : Idx) : OverdueEntry :=
  let f := r.st.get st
  { seq := r.seq, slot := r.slot, decision := f.decision, target := f.issued, feed := f.feeds }

/-- An order joins the tail of the overdue list; the oldest entry of a full list is dropped first, and its first-off lanes
return to OPEN (R76, R94). No low test is made here: DESIGN CHOICE (unsafe, log entry 30), R95 leaves open whether R94's
overdue case counts among the applications it tests at. -/
def State.pushOverdue (s : State) (st : Idx) (e : OverdueEntry) : State :=
  let s1 := match (s.seqr.get st).overdue with
    | x :: xs =>
      if Config.overdueLimit ≤ xs.length + 1 then
        (s.updSeqr st fun sq => { sq with overdue := xs }).giveUpFirstOff x.slot st x.seq
      else s
    | [] => s
  s1.updSeqr st fun sq => { sq with overdue := sq.overdue ++ [e] }

/-- The overdue list is emptied: the first-off lanes of its entries return to OPEN (R79, R85, R94), without a low test (DESIGN
CHOICE, unsafe, log entry 30). -/
def State.emptyOverdue (s : State) (st : Idx) : State :=
  ((s.seqr.get st).overdue.foldl (fun s x => s.giveUpFirstOff x.slot st x.seq) s).updSeqr st fun sq => { sq with overdue := [] }

/-! ### Deadlines (R76) -/

/-- REPORT_SPAN of the station in the record's slot (R69). -/
def State.reportSpan (s : State) (j : Slot) (st : Idx) : Nat :=
  match s.entry j st with
  | some e => e.reportSpan
  | none => 0

/-- The position of the report deadline of a record at a station (R69). -/
def State.deadline (s : State) (st : Idx) (r : TrackRecord) : Pos :=
  plus (r.st.get st).issued (s.reportSpan r.slot st)

/-- A report deadline is scheduled for the order of `q`: it is in flight and ACKED, and no abort has withdrawn it (R69, R75,
R80). -/
def State.deadlineScheduled (s : State) (st : Idx) (r : TrackRecord) : Bool :=
  (s.seqr.get st).holds r.seq && decide ((r.st.get st).status = .acked) && !(s.seqr.get st).abortSet.contains r.seq

/-- The report deadline of a record at a station is scheduled and H has reached it (R6, R76). -/
def State.deadlineDue (s : State) (st : Idx) (r : TrackRecord) : Bool :=
  s.deadlineScheduled st r && reached s.web.h (s.deadline st r)

/-- The report deadline of an order is taken (R76). -/
def State.takeDeadline (s : State) (st : Idx) (r : TrackRecord) : State :=
  ((((s.updField r.seq st fun f => { f with status := .unconfirmed }).leaveInFlight st r.seq).release st
    (r.st.get st).feeds).pushOverdue st (r.overdueCopy st)).raise
      { kind := .noReport, unit := .station st, seq := some r.seq, target := (r.st.get st).target }

/-! ### Acknowledgements (R69 to R72) -/

/-- The detail a refusal enters the fault record with (R70). -/
def ackDetail : AckResult → Option FaultDetail
  | .accepted => none
  | .refusedBusy => some .refusedBusy
  | .refusedRange => some .refusedRange

/-- The awaited ack accepts: ACKED, the deadline is scheduled (and taken at once where H has reached it), the queued order goes
out (R69). -/
def State.ackAccepted (s : State) (st : Idx) (q : SeqNo) : State :=
  let s1 := (s.clearAwaited st).updField q st fun f => { f with status := .acked }
  let s2 := match s1.record q with
    | some r => if s1.deadlineDue st r then s1.takeDeadline st r else s1
    | none => s1
  s2.releaseQueue st

/-- The issued target of the record of a seq at a station, where it is in the track. -/
def State.targetOf (s : State) (st : Idx) (q : SeqNo) : Option Pos := (s.record q).bind fun r => (r.st.get st).target

/-- The awaited ack refuses (R70). -/
def State.ackRefused (s : State) (st : Idx) (q : SeqNo) (res : AckResult) : State :=
  (((s.clearAwaited st).closeUnreported st q .faulted).releaseQueue st).raise
    { kind := .orderRefused, unit := .station st, detail := ackDetail res, seq := some q, target := s.targetOf st q }

/-- An ORDER ACK: taken when its seq is awaited, discarded otherwise (R69, R70, R72). -/
def State.orderAck (s : State) (st : Idx) (q : SeqNo) (res : AckResult) : State :=
  if (s.seqr.get st).awaited = .order q then
    match res with
    | .accepted => s.ackAccepted st q
    | _ => s.ackRefused st q res
  else s

/-- The ack timer expires with an order awaited (R71). -/
def State.ackTimeout (s : State) (st : Idx) : State :=
  match (s.seqr.get st).awaited with
  | .order q =>
    (((((s.closeUnreported st q .faulted).unphase st).clearAwaited st).updSeqr st fun sq =>
      { sq with lastTimedOut := some q }).releaseQueue st).raise
        { kind := .noAck, unit := .station st, detail := some .order, seq := some q, target := s.targetOf st q }
  | _ => s

/-! ### Aborts (R80 to R83) -/

/-- When the abort set is empty the abort is complete: the timer stops, nothing is awaited, and the queued order goes out
(R81). -/
def State.completeAbort (s : State) (st : Idx) : State :=
  if (s.seqr.get st).awaited = .abort ∧ (s.seqr.get st).abortSet = [] then (s.clearAwaited st).releaseQueue st else s

/-- The seq leaves the abort set (R81, R83). -/
def State.leaveAbortSet (s : State) (st : Idx) (q : SeqNo) : State :=
  s.updSeqr st fun sq => { sq with abortSet := sq.abortSet.filter fun x => decide (x ≠ q) }

/-- The status an abort report gives (R81). -/
def abortStatus : Decision → AbortFound → Status
  | .lift, .contactMade => .faulted
  | _, .contactMade => .done
  | _, .notMade => .missed

def foundOutcome : AbortFound → AbortOutcome
  | .contactMade => .contactMade
  | .notMade => .notMade

/-- The outcome a record's report takes from an abort report (R81). -/
def foundReported : AbortFound → ReportOutcome
  | .contactMade => .contact
  | .notMade => .noContact

/-- An order is closed by an abort report: record, foil, fault (R81), and the hold context's entry (R140). -/
def State.closeByAbort (s : State) (st : Idx) (q : SeqNo) (found : AbortFound) (advanced : Four Nat) : State :=
  match s.record q with
  | some r =>
    let f := r.st.get st
    let status := abortStatus f.decision found
    let s1 := ((s.updField q st fun f =>
      { f with report := some { outcome := foundReported found, e := none, advanced := advanced }, status := status }).leaveInFlight
        st q).settleContext st q (foundOutcome found)
    let s2 := (s1.release st f.feeds).applyFoilAll st
      { slot := r.slot, seq := q, fed := f.feeds, advanced := advanced, breaks := .all false, whole := true }
    if status = .faulted then
      s2.raise { kind := .driveMismatch, unit := .station st, detail := some (.abortReported found), seq := some q,
                 target := f.target }
    else s2
  | none => s.leaveInFlight st q

/-- An ABORT REPORT: taken when its seq is in the abort set, discarded otherwise (R81). -/
def State.abortReport (s : State) (st : Idx) (q : SeqNo) (found : AbortFound) (advanced : Four Nat) : State :=
  if (s.seqr.get st).abortSet.contains q then
    ((s.leaveAbortSet st q).closeByAbort st q found advanced).completeAbort st
  else s

/-- Every seq still in the abort set is closed MISSED with outcome UNKNOWN, without a report, and the set empties (R79, R82). -/
def State.closeAbortSet (s : State) (st : Idx) : State :=
  ((s.seqr.get st).abortSet.foldl (fun s q => (s.closeUnreported st q .missed).settleContext st q .unknown) s).updSeqr st
    fun sq => { sq with abortSet := [] }

/-- The ack timer expires with awaited ABORT (R82). -/
def State.abortTimeout (s : State) (st : Idx) : State :=
  match (s.seqr.get st).awaited with
  | .abort =>
    (((((s.closeAbortSet st).raise { kind := .noAck, unit := .station st, detail := some .abort }).unphase st).clearAwaited
      st).releaseQueue st)
  | _ => s

/-- The queued order, never transmitted, is withdrawn and closed as NOT_MADE with advanced 0 (R80). -/
def State.withdrawQueued (s : State) (st : Idx) : State :=
  match (s.seqr.get st).queue with
  | some q => (s.updSeqr st fun sq => { sq with queue := none }).closeByAbort st q .notMade (.all 0)
  | none => s

/-- ABORT ORDER names the orders left in flight (R80). The frame lists their seqs in the order of the in-flight list, oldest
first: DESIGN CHOICE (unsafe, log entry 28), R80 names a set and R194 gives its seqs no order. -/
def State.sendAbort (s : State) (st : Idx) : State :=
  let named := (s.seqr.get st).inFlight.map (·.seq)
  if named = [] then s
  else
    (s.updLink st fun l => l.hand (.abortOrder named)).updSeqr st fun sq =>
      { sq with awaited := .abort, abortSet := named, timer := some Config.ackTimeout }

/-- An abort is requested (R80). One requested while another is outstanding joins it. -/
def State.requestAbort (s : State) (st : Idx) : State :=
  if (s.seqr.get st).inFlight = [] ∨ (s.seqr.get st).awaited = .abort then s
  else (s.withdrawQueued st).sendAbort st

/-! ### Trips (R61, R84, R153) -/

/-- The entry of an order in flight in a hold context (R139). -/
def TrackRecord.contextEntry (r : TrackRecord) (st : Idx) : ContextEntry :=
  let f := r.st.get st
  { seq := r.seq, slot := r.slot, decision := f.decision, target := f.issued, feed := f.feeds, outcome := .pending,
    action := .skip }

/-- The order that an abort requested now withdraws from the link queue: none where the abort is complete at once or joins one that is
outstanding (R80). -/
def Sequencer.toWithdraw (sq : Sequencer) : Option SeqNo :=
  if sq.inFlight = [] ∨ sq.awaited = .abort then none else sq.queue

/-- What a trip taken in RUN finds at the station (R141): the phase state, the entry that the order it withdraws from the link queue
would have in a hold context, already NOT_MADE (R140), and the web where nothing is in flight. Elsewhere no hold entry can follow. -/
def State.tripFinds (s : State) (st : Idx) : Option BeforeTrip :=
  let sq := s.seqr.get st
  if s.line = .run then
    some { phased := (s.calcs.get st).phased
           withdrawn := (sq.toWithdraw.bind s.record).map fun r => { r.contextEntry st with outcome := .notMade }
           idleAt := if sq.inFlight = [] then some s.web else none }
  else none

/-- The effects of a trip on its sequencer (R84), which keeps what the trip found for a hold entry that comes with it (R141). -/
def State.tripEffects (s : State) (st : Idx) : State :=
  ((s.updSeqr st fun sq => { sq with tripped := true, beforeTrip := s.tripFinds st }).unphase st).requestAbort st

/-- Trips raised within an event are handed to their sequencers when the event has been carried out (R153, R156). A trip not
yet handed over is a TRIPPED unit whose station state is still READY (R61). -/
def State.settleTrips (s : State) : State :=
  Idx.all.foldl (fun s st =>
    if (s.units.get st).tripped ∧ (s.seqr.get st).tripped = false then s.tripEffects st else s) s

/-- An event has been carried out: trips raised within it are handed over (R153). -/
def State.done (s : State) : Outcome State := .next s.settleTrips

/-! ### Reports (R72 to R78, R83) -/

/-- The status a report in time gives (R74). -/
def reportStatus : Decision → ReportOutcome → Status
  | .lift, .contact => .faulted
  | .lift, _ => .done
  | _, .contact => .done
  | _, _ => .faulted

/-- What a report in time says of a hold-context entry (R140). -/
def reportedOutcome : ReportOutcome → AbortOutcome
  | .contact => .contactMade
  | .lifted | .noContact => .notMade

/-- The report is for an order in flight that is ACKED, or awaited (R72), or named in an abort (R83). -/
def State.reportsInTime (s : State) (st : Idx) (q : SeqNo) : Bool :=
  let sq := s.seqr.get st
  sq.holds q && (decide (sq.awaited = .order q) || sq.abortSet.contains q ||
    match s.record q with
    | some r => decide ((r.st.get st).status = .acked)
    | none => false)

/-- Step 3 of R74: trim (R53, R54), OFF_REGISTER (R55) and phase (R51), for an order completed DONE. -/
def State.learn (s : State) (st : Idx) (r : TrackRecord) (phasing : Bool) (o : ReportOutcome) (e : Option Int) : State :=
  let f := r.st.get st
  match f.decision, o with
  | .lift, _ =>
    if phasing ∧ (s.seqr.get st).tripped = false then s.updCalc st fun c => { c with phased := true } else s
  | d, _ =>
    match e, s.entry r.slot st with
    | some e, some p =>
      let s1 :=
        if d = .strike ∧ r.origin ≠ .coasted then
          s.setTrim st (learnedTrim (s.calcs.get st).trim e p.gain p.slew (s.trimLimit st))
        else s
      if p.tol < e.natAbs then
        s1.raise { kind := .offRegister, unit := .station st, seq := some r.seq, target := f.target }
      else s1
    | _, _ => s

/-- A report for the awaited seq before its ack is taken as the ack too (R72). -/
def State.reportAsAck (s : State) (st : Idx) (q : SeqNo) : State :=
  if (s.seqr.get st).awaited = .order q then (s.clearAwaited st).releaseQueue st else s

/-- A seq of the abort set is settled by a report in time: it leaves the set, and an empty set completes the abort (R83,
R140). -/
def State.reportSettlesAbort (s : State) (st : Idx) (q : SeqNo) (o : ReportOutcome) : State :=
  if (s.seqr.get st).abortSet.contains q then
    ((s.leaveAbortSet st q).settleContext st q (reportedOutcome o)).completeAbort st
  else s

/-- A report in time completes its record at the station (R74). -/
def State.reportInTime (s : State) (st : Idx) (fr : StrikeReportFrame) (r : TrackRecord) : State :=
  let f := r.st.get st
  let e := decodeError fr.ePresent fr.e
  let phasing := (s.seqr.get st).phasing r.seq
  let status := reportStatus f.decision fr.outcome
  let s1 := ((s.reportAsAck st r.seq).updField r.seq st fun f =>
    { f with report := some { outcome := fr.outcome, e := e, advanced := counts fr.advanced },
             status := status }).leaveInFlight st r.seq
  let s2 := (s1.release st f.feeds).applyFoilAll st
    { slot := r.slot, seq := r.seq, fed := f.feeds, advanced := counts fr.advanced, breaks := fr.breakMask, whole := true }
  let s3 := if status = .done then s2.learn st r phasing fr.outcome e
    else s2.raise { kind := .driveMismatch, unit := .station st, detail := some (.reported fr.outcome), seq := some r.seq,
                    target := f.target }
  s3.reportSettlesAbort st r.seq fr.outcome

/-- A late report: foil, the record's report field, and the warning (R77). -/
def State.reportLate (s : State) (st : Idx) (fr : StrikeReportFrame) (x : OverdueEntry) : State :=
  let s1 := s.updSeqr st fun sq => { sq with overdue := sq.overdue.erase x }
  let s2 := s1.applyFoilAll st
    { slot := x.slot, seq := x.seq, fed := x.feed, advanced := counts fr.advanced, breaks := fr.breakMask,
      whole := (s.record x.seq).isSome }
  (s2.updField x.seq st fun f =>
    { f with report := some { outcome := fr.outcome, e := decodeError fr.ePresent fr.e, advanced := counts fr.advanced } }).raise
      { kind := .lateReport, unit := .station st, seq := some x.seq }

/-- A STRIKE REPORT: in time, late, or unknown (R73, R78). -/
def State.strikeReport (s : State) (st : Idx) (fr : StrikeReportFrame) : State :=
  match s.reportsInTime st fr.seq, s.record fr.seq, (s.seqr.get st).overdue.find? (fun x => decide (x.seq = fr.seq)) with
  | true, some r, _ => s.reportInTime st fr r
  | _, _, some x => s.reportLate st fr x
  | _, _, none => s

/-! ### Link loss (R79) -/

/-- The queued order that a commit measured as PHASED, so that it has no phasing flag (R52). A restrike has none either (R147), and no
commit measured it. -/
def Sequencer.queuedInPhase (sq : Sequencer) : Option SeqNo := sq.queue.filter fun q => !sq.phasing q && !sq.restruck q

/-- The STRIKE ORDER that the link still holds after the carrier is lost: that of the order which a commit measured as PHASED and queued,
as computed, where the part sends it (R52). -/
def State.framesAfterLoss (s : State) (st : Idx) (sendsQueued : Bool) : List LinkFrame :=
  match (s.seqr.get st).queuedInPhase.bind s.record with
  | some r => if sendsQueued then [r.strikeOrder st false] else []
  | none => []

/-- The orders of a station that are not named in an abort, transmitted or queued, end FAULTED (R79 steps 1 and 2). -/
def State.faultInFlight (s : State) (st : Idx) : State :=
  let sq := s.seqr.get st
  (sq.inFlight.filter fun e => !sq.abortSet.contains e.seq).foldl (fun s e => s.closeUnreported st e.seq .faulted) s

/-- The carrier of a station link is lost (R79, R192): all orders are closed, the queued one among them. With `sendsQueued` the frame of
a queued order that a commit measured as PHASED is left with the link and goes out when the carrier returns (R52). -/
def State.loseStationLink (s : State) (st : Idx) (sendsQueued : Bool) : State :=
  if (s.links.get st).carrier then
    let s1 := s.updLink st fun _ => { carrier := false, sending := none, waiting := s.framesAfterLoss st sendsQueued }
    let s2 := (s1.faultInFlight st).updSeqr st fun sq => { sq with awaited := .none, queue := none, timer := none }
    (((s2.closeAbortSet st).emptyOverdue st).unphase st).raise { kind := .linkDown, unit := .station st }
  else s

/-- A station link loss (R52, R79, R192). R79 closes a queued order as FAULTED and withdraws it, R52 has it go out as computed: the model
closes it, and a free value of Config says whether its frame goes out all the same (DESIGN CHOICE, safe, log entry 49). -/
def State.stationLinkLoss (s : State) (st : Idx) : State := s.loseStationLink st Config.linkLossSendsQueued

/-! ### The commands -/

/-- ORDER_ACK (R69 to R72). -/
def execOrderAck (st : Idx) (q : SeqNo) (res : AckResult) (s : State) : Outcome State := (s.orderAck st q res).done

/-- ACK_TIMEOUT (R71): the expiry with a strike order awaited; with none awaited no timer runs and nothing expires. -/
def execAckTimeout (st : Idx) (s : State) : Outcome State := (s.ackTimeout st).done

/-- STRIKE_REPORT (R73 to R78, R83). -/
def execStrikeReport (st : Idx) (fr : StrikeReportFrame) (s : State) : Outcome State := (s.strikeReport st fr).done

/-- ABORT_REPORT (R81). -/
def execAbortReport (st : Idx) (q : SeqNo) (found : AbortFound) (advanced : Four (BitVec 16)) (s : State) : Outcome State :=
  (s.abortReport st q found (counts advanced)).done

/-- ABORT_TIMEOUT (R82). -/
def execAbortTimeout (st : Idx) (s : State) : Outcome State := (s.abortTimeout st).done

/-- STATION_LINK_LOSS (R52, R79): a loss is the change of a carrier that was up. -/
def execStationLinkLoss (st : Idx) (s : State) : Outcome State := (s.stationLinkLoss st).done

end Sys2Proof.Machine
end

