-- ==== Sys2Proof/Machine/Heat.lean ====
section
/-! DEFINITION. The Heat Arbiter (chapter 6): readings, finishes and requests (R105 to R109), the grant pass and preemption
(R110, R113), on-sets (R111), slot time and staleness (R112, R117), HOT (R118), and the Line Port's control of zones (R114,
R115). -/

namespace Sys2Proof.Machine

/-! ### Reading zones -/

def State.zone (s : State) (st z : Idx) : Zone := (s.heat.zones.get st).get z

def State.updZone (s : State) (st z : Idx) (f : Zone → Zone) : State :=
  { s with heat := { s.heat with zones := s.heat.zones.upd st fun row => row.upd z f } }

/-- The zone's parameters when it is enabled in the ACTIVE slot (R103). -/
def State.zoneParams (s : State) (st z : Idx) : Option ZoneParams :=
  match s.activeEntry st with
  | some e => if (e.zones.get z).enabled then some (e.zones.get z) else none
  | none => none

/-- The zone holds a power slot (R102). -/
def Zone.inService (z : Zone) : Bool := z.slotTimer.isSome

/-- A zone that may be granted (R102). -/
def State.eligible (s : State) (p : Idx × Idx) : Bool :=
  let z := s.zone p.1 p.2
  (s.zoneParams p.1 p.2).isSome && z.request && !z.mask && decide (z.block = .none) && !z.inService

/-- The zones in service, by rank (R102, R110). -/
def State.served (s : State) : List (Idx × Idx) := s.heat.order.filter fun p => (s.zone p.1 p.2).inService

/-- The on-set of a station as its zones stand (R111). -/
def State.onSetOf (s : State) (st : Idx) : Four Bool := .tab fun z => (s.zone st z).inService

/-! ### The priority order (R104) -/

/-- A zone rotated to lowest: it goes to rank 16 and those below it move up one (R104). -/
def rotateToLowest (p : Idx × Idx) (order : List (Idx × Idx)) : List (Idx × Idx) :=
  order.filter (fun x => decide (x ≠ p)) ++ [p]

/-- The order turned as a ring until the zone stands at rank 16 (R104). -/
def turnToLowest (p : Idx × Idx) (order : List (Idx × Idx)) : List (Idx × Idx) :=
  (order.dropWhile fun x => decide (x ≠ p)).tail ++ order.takeWhile (fun x => decide (x ≠ p)) ++ [p]

def State.setOrder (s : State) (f : List (Idx × Idx) → List (Idx × Idx)) : State :=
  { s with heat := { s.heat with order := f s.heat.order } }

/-- A slot ends and the zone keeps its rank; its request takes the value given. -/
def State.endSlot (s : State) (st z : Idx) (request : Bool) : State :=
  s.updZone st z fun q => { q with slotTimer := none, request := request }

/-- A normal finish (R108): the slot ends, the request stays clear, the zone is rotated to lowest. -/
def State.finishSlot (s : State) (st z : Idx) : State :=
  (s.updZone st z fun q => { q with slotTimer := none }).setOrder (rotateToLowest (st, z))

/-! ### Grants (R110, R111, R113) -/

/-- A zone is granted a slot: in service with its timer at 0 and its request clear (R110). -/
def State.grant (s : State) (p : Idx × Idx) : State :=
  s.updZone p.1 p.2 fun q => { q with slotTimer := some 0, request := false }

/-- The zones a challenger may displace: in service, ranked below it, their timer at or above MIN_HOLD (R113). With MIN_HOLD at or above
MAX_HOLD there are none: a slot expires before it could be preempted, and preemption never takes place (R112). That this holds of a
timer that a settings write leaves above both too, where R120 has the zone expire at the next tick, is DEDUCED (unsafe, log entry 53). -/
def State.displaceable (s : State) (challenger : Idx × Idx) : List (Idx × Idx) :=
  (s.heat.order.dropWhile fun x => decide (x ≠ challenger)).filter fun p =>
    match (s.zone p.1 p.2).slotTimer with
    | some t => decide (s.settings.minHold < s.settings.maxHold ∧ s.settings.minHold ≤ t)
    | none => false

/-- One grant of the pass, into a free slot or by preemption; none when the pass ends (R110, R113). -/
def State.grantStep (s : State) : Option State :=
  match s.heat.order.find? s.eligible with
  | none => none
  | some ch =>
    if s.served.length < s.settings.nSlot then some (s.grant ch)
    else
      match s.settings.arbMode with
      | .queued => none
      | .preempt =>
        match (s.displaceable ch).getLast? with
        | some v => some ((s.endSlot v.1 v.2 true).grant ch)
        | none => none

/-- The pass repeats its step. Each zone is granted at most once in a pass, so 16 repeats reach its end (R110, R113). -/
def grantLoop : Nat → State → State
  | 0, s => s
  | n + 1, s =>
    match s.grantStep with
    | some s' => grantLoop n s'
    | none => s

/-- A station whose on-set has changed is handed to its link (R110, R111). -/
def State.handOnSet (s : State) (st : Idx) : State :=
  if s.onSetOf st = s.heat.onSet.get st then s
  else
    ({ s with heat := { s.heat with onSet := s.heat.onSet.set st (s.onSetOf st) } }).updLink st fun l =>
      l.hand (.heatOrder (s.onSetOf st))

/-- The grant pass, and the on-sets it and the event before it have changed (R110, R111). -/
def State.grantPass (s : State) : State := Idx.all.foldl (fun s st => s.handOnSet st) (grantLoop 16 s)

/-! ### Readings (R105 to R109) -/

/-- An enabled zone reads OPEN (R106). -/
def State.readOpen (s : State) (st z : Idx) : State :=
  if (s.zone st z).block = .openCircuit then s
  else
    (s.updZone st z fun q => { q with block := .openCircuit, request := false, slotTimer := none }).raise
      { kind := .sensorOpen, unit := .station st, detail := some (.zone st z) }

/-- The request of a zone not in service and not blocked, judged against its threshold (R109). -/
def judgeRequest (p : ZoneParams) (t : Nat) (request : Bool) : Bool :=
  if (t : Int) ≤ (p.setpoint : Int) - p.reqOffset then true
  else match p.mode with
    | .level => false
    | .latched => request

/-- An enabled zone reads a temperature and passes R107 with block NONE: finish (R108) or request (R109). -/
def State.judgeHeat (s : State) (st z : Idx) (p : ZoneParams) (t : Nat) : State :=
  if (s.zone st z).inService then
    if p.setpoint ≤ t then s.finishSlot st z else s
  else s.updZone st z fun q => { q with request := judgeRequest p t q.request }

/-- An enabled zone reads a temperature (R107, then R108 and R109). -/
def State.readTemp (s : State) (st z : Idx) (p : ZoneParams) (t : Nat) : State :=
  let s1 := if (s.zone st z).block = .openCircuit then s.updZone st z fun q => { q with block := .none } else s
  if p.setpoint + s.settings.overLimit < t then
    if (s1.zone st z).block = .overheat then s1
    else
      (s1.updZone st z fun q => { q with block := .overheat, request := false, slotTimer := none }).raise
        { kind := .overheat, unit := .station st, detail := some (.zone st z) }
  else if (s1.zone st z).block = .overheat ∧ p.setpoint < t then s1
  else (s1.updZone st z fun q => { q with block := .none }).judgeHeat st z p t

/-- One zone of a HEAT READING frame (R105). -/
def State.takeReading (s : State) (st z : Idx) (v : BitVec 16) : State :=
  let s1 := s.updZone st z fun q => { q with reading := some (decodeReading v), age := some 0 }
  match s.zoneParams st z, decodeReading v with
  | none, _ => s1
  | some _, .openCircuit => s1.readOpen st z
  | some p, .temp t => s1.readTemp st z p t

def State.setStale (s : State) (st : Idx) (b : Bool) : State :=
  { s with heat := { s.heat with stale := s.heat.stale.set st b } }

/-- A HEAT READING frame: the four zones in zone order, the stale flag, the grant pass (R105). -/
def State.heatReading (s : State) (st : Idx) (v : Four (BitVec 16)) : State :=
  ((Idx.all.foldl (fun s z => s.takeReading st z (v.get z)) s).setStale st false).grantPass

/-! ### Time (R112, R117) -/

/-- One millisecond on an age or a slot timer, holding at 65,535 (R112, R117). -/
def tickUp (t : Nat) : Nat := min (t + 1) Config.timerTop

def Zone.tick (z : Zone) : Zone := { z with age := z.age.map tickUp, slotTimer := z.slotTimer.map tickUp }

/-- A zone that is enabled and whose age is above 500 ms (R117). -/
def State.zoneStale (s : State) (st z : Idx) : Bool :=
  (s.zoneParams st z).isSome &&
    match (s.zone st z).age with
    | some a => decide (Config.staleAge < a)
    | none => false

/-- STALE_HEAT of a station: some enabled zone is stale and the flag is clear (R117). -/
def State.staleHeat (s : State) (st : Idx) : State :=
  if (s.heat.stale.get st) = false ∧ Idx.all.any (s.zoneStale st) then
    (s.setStale st true).raise { kind := .staleHeat, unit := .station st }
  else s

/-- MAX_HOLD expiry of a zone: a normal finish, HEAT_SLOW and the grant pass (R112). -/
def State.maxHold (s : State) (st z : Idx) : State :=
  match (s.zone st z).slotTimer with
  | some t =>
    if s.settings.maxHold ≤ t then
      ((s.finishSlot st z).raise { kind := .heatSlow, unit := .station st, detail := some (.zone st z) }).grantPass
    else s
  | none => s

/-- MIN_HOLD of a zone: an event in PREEMPT mode, which the grant pass follows (R112). -/
def State.minHold (s : State) (st z : Idx) : State :=
  match (s.zone st z).slotTimer with
  | some t => if s.settings.arbMode = .preempt ∧ s.settings.minHold ≤ t then s.grantPass else s
  | none => s

/-! ### HOT (R118) -/

/-- What R118 asks of an enabled zone. -/
def Zone.inBand (z : Zone) (p : ZoneParams) : Bool :=
  decide (z.block = .none) &&
    (match z.age with
      | some a => decide (a ≤ Config.staleAge)
      | none => false) &&
    match z.reading with
    | some (.temp t) => decide ((p.setpoint : Int) - p.band ≤ t ∧ t ≤ p.setpoint + p.band)
    | _ => false

/-- A station is HOT when every zone of it that is enabled in the ACTIVE slot is in its band (R118). -/
def State.hot (s : State) (st : Idx) : Bool :=
  Idx.all.all fun z =>
    match s.zoneParams st z with
    | some p => (s.zone st z).inBand p
    | none => true

/-! ### Job switch and line settings (R119, R120) -/

/-- SWITCH JOB at the arbiter: zones no longer enabled lose request and slot, then the grant pass (R119). -/
def State.heatSwitch (s : State) : State :=
  (({ s with heat := { s.heat with zones := .tab fun st => .tab fun z =>
      if (s.zoneParams st z).isSome then s.zone st z else { s.zone st z with request := false, slotTimer := none } } })).grantPass

/-- An accepted write of the line settings at the arbiter: slots above N_SLOT end from the lowest rank up, then the grant pass
(R120). -/
def State.heatSettings (s : State) : State :=
  ((s.served.drop s.settings.nSlot).foldl (fun s p => s.endSlot p.1 p.2 true) s).grantPass

/-! ### The Line Port's control of zones (R114, R115) -/

/-- SET ZONE MASK (R114). -/
def State.takeSetZoneMask (sb zb : Byte) (value : Option Bool) (s : State) : State × Answer :=
  match pairOf sb zb, value with
  | some (st, z), some v =>
    let s1 :=
      if v = (s.zone st z).mask then s
      else if v then
        let s1 := s.updZone st z fun q => { q with mask := true }
        if (s.zone st z).inService then s1.endSlot st z true else s1
      else s.updZone st z fun q => { q with mask := false }
    (s1.grantPass, .bare .ok)
  | _, _ => (s, .bare .range)

/-- FINISH ZONE (R115). -/
def State.takeFinishZone (sb zb : Byte) (rotate : Option Bool) (s : State) : State × Answer :=
  match pairOf sb zb, rotate with
  | some (st, z), some r =>
    if (s.zone st z).inService then
      ((if r then s.finishSlot st z else s.endSlot st z (s.zone st z).request).grantPass, .bare .ok)
    else (s, .bare .state)
  | _, _ => (s, .bare .range)

/-- SET LOWEST (R115). -/
def State.takeSetLowest (sb zb : Byte) (s : State) : State × Answer :=
  match pairOf sb zb with
  | some p => ((s.setOrder (turnToLowest p)).grantPass, .bare .ok)
  | none => (s, .bare .range)

/-! ### The commands -/

/-- HEAT_READING (R105). -/
def execHeatReading (st : Idx) (v : Four (BitVec 16)) (s : State) : Outcome State := (s.heatReading st v).done

/-- MILLISECOND_TICK (R112, R117). -/
def execMillisecondTick (s : State) : Outcome State :=
  .next { s with heat := { s.heat with zones := .tab fun st => .tab fun z => (s.zone st z).tick } }

/-- STALE_HEAT (R117). -/
def execStaleHeat (st : Idx) (s : State) : Outcome State := (s.staleHeat st).done

/-- MIN_HOLD_REACHED (R112). -/
def execMinHoldReached (st z : Idx) (s : State) : Outcome State := .next (s.minHold st z)

/-- MAX_HOLD_EXPIRY (R112). -/
def execMaxHoldExpiry (st z : Idx) (s : State) : Outcome State := (s.maxHold st z).done

/-- SET_ZONE_MASK (R114). -/
def execSetZoneMask (hdr : ReqHdr) (sb zb : Byte) (value : Option Bool) (s : State) : Outcome State :=
  .next (s.serve hdr (.setZoneMask · sb zb value) 11 (lineOnly hdr (State.takeSetZoneMask sb zb value)))

/-- FINISH_ZONE (R115). -/
def execFinishZone (hdr : ReqHdr) (sb zb : Byte) (rotate : Option Bool) (s : State) : Outcome State :=
  .next (s.serve hdr (.finishZone · sb zb rotate) 12 (lineOnly hdr (State.takeFinishZone sb zb rotate)))

/-- SET_LOWEST (R115). -/
def execSetLowest (hdr : ReqHdr) (sb zb : Byte) (s : State) : Outcome State :=
  .next (s.serve hdr (.setLowest · sb zb) 13 (lineOnly hdr (State.takeSetLowest sb zb)))

end Sys2Proof.Machine
end

