-- ==== Sys2Proof/Machine/Commit.lean ====
section
/-! DEFINITION. The commit: the target and the phase-step check (R45 to R50), the decision table (R63 to R66), the feed rule
(R89, R90, R92), and what a commit hands on (R67). -/

namespace Sys2Proof.Machine

/-! ### The target (R46 to R49) -/

/-- The residual class of R49. -/
inductive Residual where
  | withinStep | clamped | beyondTol
deriving DecidableEq, Repr

/-- What the calculator hands the sequencer (R45 step 5). -/
structure Aim where
  target : Pos
  phasing : Bool
  residual : Residual
deriving DecidableEq, Repr

/-- T of R46: M + D + A + RHA(A x E_snap / 2^20) + trim, modulo 2^32. -/
def rawTarget (r : TrackRecord) (e : StationEntry) (trim : Int) : Pos :=
  plus r.mark ((e.d : Int) + e.a + rha (e.a * r.eSnap) (2 ^ 20) + trim)

/-- The gap and slot test fails (R47). -/
def gapTestFails (missed : Nat) (l : LastOrder) (r : TrackRecord) : Bool :=
  decide (Config.gapLimit < seqGap l.seq r.seq) || decide (Config.gapLimit ≤ missed) || decide (r.slot ≠ l.slot)

/-- The expected target of R48. -/
def expectedTarget (l : LastOrder) (r : TrackRecord) (p : Nat) : Pos :=
  plus l.target ((seqGap l.seq r.seq : Int) * p)

/-- The phase-step check of a PHASED station (R48, R49). -/
def phaseStep (t expected : Pos) (stepMax tol : Nat) : Aim :=
  let d := signedDist t expected
  if d.natAbs ≤ stepMax then { target := t, phasing := false, residual := .withinStep }
  else
    let t' := plus expected (signOf d * stepMax)
    let rho := signedDist t t'
    { target := t', phasing := false, residual := if rho.natAbs ≤ tol then .clamped else .beyondTol }

/-- A phasing order's aim (R47). -/
def phasingAim (t : Pos) : Aim := { target := t, phasing := true, residual := .withinStep }

/-- The calculator's answer for a record at a station (R45, R47 to R49). -/
def Calc.aim (c : Calc) (r : TrackRecord) (e : StationEntry) (p : Nat) : Aim :=
  let t := rawTarget r e c.trim
  match c.phased, c.last with
  | true, some l =>
    if gapTestFails c.missed l r then phasingAim t else phaseStep t (expectedTarget l r p) e.stepMax e.tol
  | _, _ => phasingAim t

/-! ### The decision table (R63, R65) -/

/-- Every used column of a record is REJECT (case 10). -/
def TrackRecord.allReject (r : TrackRecord) : Bool :=
  Idx.all.all fun c => decide (r.verdict.get c = none ∨ r.verdict.get c = some .reject)

/-- Cases 5 to 10 of the decision table: `some f` for a LIFT with its fault, `none` when the table goes on to case 11 (R63,
R65). -/
def State.liftCase (s : State) (st : Idx) (r : TrackRecord) (e : StationEntry) (a : Aim) : Option (Option FaultKind) :=
  let g := s.globals r.slot
  if a.phasing then some none
  else if r.flagged ∨ r.origin = .lost ∨ r.locked = false ∨ (r.origin = .coasted ∧ g.coastPredict = false) then some none
  else if s.web.v < g.strikeMinSpeed then some none
  else if s.hot st = false then some (some .coldCommit)
  else if a.residual = .beyondTol then some (some .registerClamp)
  else if r.allReject ∧ e.liftOnReject then some none
  else none

/-! ### The feed rule (R89, R90, R92) -/

/-- Step 1 of R89: the code allows a feed. -/
def Descriptor.allows (d : Descriptor) : Bool :=
  match d.code with
  | .on | .onReport => true
  | .firstOff => decide (d.stage = .vacant)
  | .off | .dry => false

/-- Step 2 of R89: the verdict allows a feed. -/
def verdictAllows (v : Option Verdict) (unknownFeed : Bool) : Bool :=
  match v with
  | some .good => true
  | some .unknown => unknownFeed
  | some .reject | none => false

/-- The lane can be fed by its state (R89 step 3). -/
def LaneState.usable : LaneState → Bool
  | .ready | .low => true
  | .noRoll | .out | .broken => false

/-- The feed of lane (st, c) for a record, and the state after it, in which a lane that came short has run out (R89, R90). -/
def State.laneFeed (s : State) (st : Idx) (r : TrackRecord) (c : Idx) : State × Nat :=
  match s.descriptor r.slot st c with
  | some d =>
    let l := s.lane st c
    if (s.globals r.slot).uses c ∧ d.allows ∧ verdictAllows (r.verdict.get c) (s.globals r.slot).unknownFeed ∧
        l.state.usable then
      if l.reserved + d.feed ≤ l.remaining then (s, d.feed) else (s.runOut st c r.seq, 0)
    else (s, 0)
  | none => (s, 0)

/-- The four feeds of a station for a record (R66, R89). R89 computes the lanes each for itself, and R90 gives no order in which several
lanes that run out at one commit raise FOIL_OUT: the model takes C0 to C3, which shows in the column that the first-fault record
holds and in which of them trips the unit. DESIGN CHOICE (unsafe, log entry 37). -/
def State.laneFeeds (s : State) (st : Idx) (r : TrackRecord) : State × Four Nat :=
  let f0 := s.laneFeed st r .i0
  let f1 := f0.1.laneFeed st r .i1
  let f2 := f1.1.laneFeed st r .i2
  let f3 := f2.1.laneFeed st r .i3
  (f3.1, ⟨f0.2, f1.2, f2.2, f3.2⟩)

/-- The effects of one lane's code when a feed is ordered on it (R92, R100 step 4). -/
def State.feedEffect (s : State) (st : Idx) (j : Slot) (q : SeqNo) (c : Idx) : State :=
  match s.descriptor j st c with
  | some d =>
    match d.code, d.stage with
    | .firstOff, .vacant =>
      (((s.setDescriptor j st c { d with stage := .awaiting q, attn := true }).updRecord q fun r =>
        { r with firstOff := r.firstOff.upd st fun row => row.set c true })).offer (.firstOffStruck st c)
    | .onReport, _ => (s.setDescriptor j st c { d with attn := true }).offer (.laneAttn st c)
    | _, _ => s
  | none => s

/-- An order's feeds are taken as ordered: reserved, then the effects of their lanes' codes (R67 step 4, R91, R92). -/
def State.orderFoil (s : State) (st : Idx) (j : Slot) (q : SeqNo) (feed : Four Nat) : State :=
  Idx.all.foldl (fun s c => if 0 < feed.get c then s.feedEffect st j q c else s) (s.reserve st feed)

/-! ### The commit (R63, R64, R67) -/

/-- The decision of cases 5 to 13 with its feeds, and the state after the feed rule (R63, R66). -/
structure Decided where
  after : State
  decision : Decision
  feed : Four Nat
  fault : Option FaultKind

def State.decide5 (s : State) (st : Idx) (r : TrackRecord) (e : StationEntry) (a : Aim) : Decided :=
  match s.liftCase st r e a with
  | some f => { after := s, decision := .lift, feed := .all 0, fault := f }
  | none =>
    if isFoil e.type then
      let fs := s.laneFeeds st r
      { after := fs.1, decision := if fs.2.any (fun n => decide (0 < n)) then .strike else .dry, feed := fs.2, fault := none }
    else { after := s, decision := .strike, feed := .all 0, fault := none }

/-- The order joins the in-flight list and goes to the station link (R67 step 6, R147). -/
def State.launch (s : State) (st : Idx) (q : SeqNo) (phasing : Bool) (restrike : Bool := false) : State :=
  (s.updSeqr st fun sq => { sq with inFlight := sq.inFlight ++ [{ seq := q, phasing, restrike }] }).issue st q

/-- The fault of the case taken, and CLAMP_IN_TOL for a STRIKE or DRY of class CLAMPED (R49, R67 step 7). -/
def State.commitFaults (s : State) (st : Idx) (q : SeqNo) (a : Aim) (d : Decision) (f : Option FaultKind) : State :=
  let s1 := match f with
    | some k =>
      s.raise { kind := k, unit := .station st, seq := some q,
                target := if k = .registerClamp then some a.target else none }
    | none => s
  if a.residual = .clamped ∧ (d = .strike ∨ d = .dry) then
    s1.raise { kind := .clampInTol, unit := .station st, seq := some q, target := some a.target }
  else s1

/-- A commit from case 5 on (R45, R67). -/
def State.commitOrder (s : State) (st : Idx) (r : TrackRecord) (e : StationEntry) : State :=
  let c := s.calcs.get st
  let a := c.aim r e (s.globals r.slot).p
  let s0 := if a.phasing then s.unphase st else s
  let x := s0.decide5 st r e a
  let s1 := x.after.updField r.seq st fun f =>
    { f with decision := x.decision, status := .committed, target := some a.target, feed := some x.feed }
  let s2 := s1.orderFoil st r.slot r.seq x.feed
  let s3 := s2.updCalc st fun c =>
    { c with last := some { target := a.target, seq := r.seq, slot := r.slot }, missed := 0 }
  let s4 := s3.launch st r.seq a.phasing
  let s5 := s4.commitFaults st r.seq a x.decision x.fault
  s5.commitWatched st r.seq

/-- A commit settled by cases 2 to 4: MISSED without an order (R64). `overrun` is case 4. -/
def State.commitMissed (s : State) (st : Idx) (q : SeqNo) (overrun : Bool) : State :=
  let s1 := (s.updField q st fun f => { f with status := .missed }).updCalc st fun c =>
    { c with missed := min (c.missed + 1) Config.gapLimit }
  let s2 := if overrun then s1.raise { kind := .orderOverrun, unit := .station st, seq := some q } else s1
  s2.commitWatched st q

/-- The commit of a record at a station (R63). Case 1 is taken at the join (R25); a record whose station has no entry in its
slot has no commit. -/
def State.commitRecord (s : State) (st : Idx) (r : TrackRecord) : State :=
  if s.line ≠ .run then s.commitMissed st r.seq false
  else if (s.seqr.get st).tripped ∨ s.lineUnit.tripped then s.commitMissed st r.seq false
  else if Config.inFlightLimit ≤ (s.seqr.get st).inFlight.length then s.commitMissed st r.seq true
  else
    match s.entry r.slot st with
    | some e => s.commitOrder st r e
    | none => s

/-- A record's commit event at a station is scheduled and H has reached K[s] (R6, R62). -/
def State.commitDue (s : State) (st : Idx) (r : TrackRecord) : Bool :=
  match (r.st.get st).k, (r.st.get st).status with
  | some k, .pending => reached s.web.h k
  | _, _ => false

/-- The report deadline whose turn it is at a station: the first reached, in track order (R62). -/
def State.deadlineTurn (s : State) (st : Idx) : Option TrackRecord := s.track.find? (s.deadlineDue st)

/-- The commit whose turn it is at a station: deadlines go before commits, and commits in track order (R62). -/
def State.commitTurn (s : State) (st : Idx) : Option TrackRecord :=
  match s.deadlineTurn st with
  | some _ => none
  | none => s.track.find? (s.commitDue st)

/-- The commit of a record whose K[s] H has already reached is taken at once (R6, R26, R28, R62), and a trip it raised is handed
over when it has been carried out (R90, R153). -/
def State.commitIfReached (s : State) (st : Idx) (q : SeqNo) : State :=
  match s.record q with
  | some r => if s.commitDue st r then (s.commitRecord st r).settleTrips else s
  | none => s

/-! ### The commands -/

/-- COMMIT (R62, R63): taken when it is this record's turn at the station. -/
def execCommit (st : Idx) (q : SeqNo) (s : State) : Outcome State :=
  match s.commitTurn st with
  | some r => if r.seq = q then (s.commitRecord st r).done else .next s
  | none => .next s

/-- REPORT_DEADLINE (R62, R76): taken when it is this order's turn at the station. -/
def execReportDeadline (st : Idx) (q : SeqNo) (s : State) : Outcome State :=
  match s.deadlineTurn st with
  | some r => if r.seq = q then (s.takeDeadline st r).done else .next s
  | none => .next s

end Sys2Proof.Machine
end

