-- ==== Sys2Proof/Machine/Track.lean ====
section
/-! DEFINITION. The Repeat Track and the Outcome List (chapter 2): outcome records and reasons (R34, R35), appending and the
cursors (R36 to R41), leaving and emptying (R30 to R32), and joining and conversion (R25 to R28). -/

namespace Sys2Proof.Machine

/-! ### Outcome records (R34, R35) -/

/-- Some station of a foil type has lane (s, c) coded ON or ON_REPORT and gave the record no feed there (R35). -/
def State.foilMissing (s : State) (r : TrackRecord) (c : Idx) : Bool :=
  Idx.all.any fun st =>
    match s.descriptor r.slot st c with
    | some d => decide (d.code = .on ∨ d.code = .onReport) && decide ((r.st.get st).feeds.get c = 0)
    | none => false

/-- Some station present in the record's slot has a status other than DONE and PASSED (R35). -/
def State.stationReason (s : State) (r : TrackRecord) : Bool :=
  Idx.all.any fun st =>
    (s.entry r.slot st).isSome && !decide ((r.st.get st).status = .done ∨ (r.st.get st).status = .passed)

/-- Some station of type EMBOSS or FOIL_EMBOSS decided LIFT (R35). -/
def State.embossLift (s : State) (r : TrackRecord) : Bool :=
  Idx.all.any fun st =>
    match s.entry r.slot st with
    | some e => decide (e.type = .emboss ∨ e.type = .foilEmboss) && decide ((r.st.get st).decision = .lift)
    | none => false

/-- The reasons set of a used column (R35). -/
def State.reasons (s : State) (r : TrackRecord) (c : Idx) (v : Verdict) : Reasons :=
  { verdict := decide (v = .reject), splice := r.flagged, lost := decide (r.origin = .lost), unlocked := !r.locked,
    station := s.stationReason r, embossLift := s.embossLift r, foilMissing := s.foilMissing r c }

/-- The reject advice: yes when the set is not empty (R35). -/
def Reasons.advice (x : Reasons) : Bool :=
  x.verdict || x.splice || x.lost || x.unlocked || x.station || x.embossLift || x.foilMissing

/-- The outcome record of a track record as it stands (R34). -/
def State.outcomeOf (s : State) (r : TrackRecord) : OutcomeRecord :=
  { seq := r.seq, mark := r.mark, origin := r.origin, locked := r.locked, flagged := r.flagged, slot := r.slot
    st := .tab fun st =>
      let f := r.st.get st
      { decision := f.decision, status := f.status, target := f.target, e := f.report.bind (·.e) }
    col := .tab fun c =>
      match r.verdict.get c with
      | none => none
      | some v =>
        some { verdict := v, fedAt := .tab fun st => decide (0 < (r.st.get st).feeds.get c)
               advice := (s.reasons r c v).advice, reasons := s.reasons r c v } }

/-! ### The list and its cursors (R36 to R41) -/

/-- The number of records every subscribed cursor has passed; all of them when no cursor is subscribed (R37). -/
def OutcomeList.passed (o : OutcomeList) : Nat :=
  Port.all.foldl (fun n p =>
    match o.cursors.get p with
    | some c => min n c.pos
    | none => n) o.records.length

/-- The oldest `n` records leave the list, and the cursors keep their records. -/
def OutcomeList.dropOldest (o : OutcomeList) (n : Nat) : OutcomeList :=
  { records := o.records.drop n
    cursors := .tab fun p => (o.cursors.get p).map fun c => { c with pos := c.pos - n } }

/-- Every record that all subscribed cursors have passed leaves (R37). -/
def OutcomeList.prune (o : OutcomeList) : OutcomeList := o.dropOldest o.passed

/-- A full list drops its oldest record: a cursor that stood at it moves on and sets GAP (R38). -/
def OutcomeList.makeRoom (o : OutcomeList) : OutcomeList :=
  if Config.outcomeCapacity ≤ o.records.length then
    let marked : Three (Option Cursor) :=
      .tab fun p => (o.cursors.get p).map fun c => { c with gap := c.gap || decide (c.pos = 0) }
    ({ o with cursors := marked } : OutcomeList).dropOldest 1
  else o

/-- An outcome record is appended (R37, R38). -/
def OutcomeList.append (o : OutcomeList) (r : OutcomeRecord) : OutcomeList :=
  let o1 := o.makeRoom
  ({ o1 with records := o1.records ++ [r] } : OutcomeList).prune

/-- The append with its OUTCOME_READY at each subscribed port (R37, R41). -/
def State.appendOutcome (s : State) (r : OutcomeRecord) : State :=
  Port.all.foldl (fun s p =>
    match s.outcomes.cursors.get p with
    | some _ => s.offerTo p .outcomeReady
    | none => s) { s with outcomes := s.outcomes.append r }

/-- SUBSCRIBE OUTCOMES at a port (R39). -/
def OutcomeList.subscribe (o : OutcomeList) (p : Port) : OutcomeList :=
  ({ o with cursors := o.cursors.set p (some { pos := o.records.length, gap := false }) } : OutcomeList).prune

/-- The records TAKE OUTCOMES returns from a cursor, each with its GAP (R40). -/
def OutcomeList.batch (o : OutcomeList) (c : Cursor) : List (OutcomeRecord × Bool) :=
  match (o.records.drop c.pos).take Config.readBatch with
  | [] => []
  | r :: rs => (r, c.gap) :: rs.map fun x => (x, false)

/-- TAKE OUTCOMES at a subscribed port: the cursor moves past what it returned, and GAP clears when anything was returned
(R40). -/
def OutcomeList.take (o : OutcomeList) (p : Port) (c : Cursor) : OutcomeList :=
  let n := (o.batch c).length
  ({ o with cursors := o.cursors.set p (some { pos := c.pos + n, gap := if n = 0 then c.gap else false }) } : OutcomeList).prune

/-! ### Leaving and emptying (R30 to R32) -/

/-- Every non-final station status takes the value given (R31, R32). -/
def TrackRecord.finalize (r : TrackRecord) (final : Status) : TrackRecord :=
  { r with st := .tab fun st => let f := r.st.get st; if f.status.final then f else { f with status := final } }

/-- A leaving record is handed to the sequencer and the lanes of one station (R31 step 1, R76, R140). `r` is the record as it
stood. -/
def State.leaveStation (s : State) (r : TrackRecord) (st : Idx) : State :=
  let f := r.st.get st
  match f.status with
  | .committed | .acked =>
    let s1 := ((s.leaveInFlight st r.seq).release st f.feeds).pushOverdue st (r.overdueCopy st)
    let s2 :=
      if (s1.seqr.get st).queue = some r.seq then s1.updSeqr st fun sq => { sq with queue := none }
      else if (s1.seqr.get st).awaited = .order r.seq then (s1.clearAwaited st).releaseQueue st
      else s1
    if (s2.seqr.get st).abortSet.contains r.seq then
      ((s2.leaveAbortSet st r.seq).settleContext st r.seq .unknown).completeAbort st
    else s2
  | _ => s

/-- A record's reference to its slot is dropped; a RETIRING slot that none now references becomes READY (R178). -/
def State.dropRef (s : State) (j : Slot) : State :=
  { s with slots := s.slots.upd j fun sl =>
      let n := sl.refs - 1
      { sl with refs := n, state := if n = 0 ∧ sl.state = .retiring then .ready else sl.state } }

/-- The head record leaves, its non-final statuses taking the value given (R31, R32). -/
def State.leaveHead (s : State) (final : Status) : State :=
  match s.track with
  | [] => s
  | r :: rs =>
    let r' := r.finalize final
    let s1 := Idx.all.foldl (fun s st => s.leaveStation r st) { s with track := r' :: rs }
    let s2 := { s1 with track := rs }
    ((s2.appendOutcome (s2.outcomeOf r')).dropRef r.slot).disarmFor r.seq

/-- H has reached the head record's Z (R30). -/
def State.retireDue (s : State) : Bool :=
  match s.track with
  | r :: _ => reached s.web.h r.z
  | [] => false

/-- Heads leave while H has reached their Z, head first (R30). -/
def retireLoop : Nat → State → State
  | 0, s => s
  | n + 1, s => if s.retireDue then retireLoop n (s.leaveHead .unconfirmed) else s

/-- The retire event and the run it starts (R30). -/
def State.retireRun (s : State) : State := retireLoop s.track.length s

def emptyLoop : Nat → State → State
  | 0, s => s
  | n + 1, s => emptyLoop n (s.leaveHead .missed)

/-- The track is emptied, head to tail, to the Outcome List (R32). -/
def State.emptyTrack (s : State) : State := emptyLoop s.track.length s

/-! ### Joining and conversion (R25 to R28) -/

/-- What the reader hands over (R12 step 2). -/
structure Handed where
  mark : Pos
  origin : Origin
  locked : Bool
  pitch : Option Nat
  eSnap : Int
deriving DecidableEq, Repr

/-- A mark lies in the zone of an entry (R128). -/
def SpliceEntry.covers (x : SpliceEntry) (m : Pos) : Bool := inSpan x.start x.stop m

/-- A mark lies in the zone of some entry of the Splice List (R25, R132). -/
def State.spliced (s : State) (m : Pos) : Bool := s.splices.any (·.covers m)

/-- K of a station for a mark (R25, R28). -/
def commitPosition (e : StationEntry) (m : Pos) : Pos := plus m ((e.d : Int) - e.lead)

/-- RETIRE_DIST of a slot (R182). -/
def State.retireDist (s : State) (j : Slot) : Nat := (s.slots.get j).retireDist.getD 0

/-- A station's fields at the join (R25). -/
def joinField (e : Option StationEntry) (m : Pos) : StationField :=
  match e with
  | some e =>
    { k := some (commitPosition e m), decision := .none, status := .pending, target := none, feed := none, report := none }
  | none => { k := none, decision := .pass, status := .passed, target := none, feed := none, report := none }

/-- The record a hand-over makes under a slot (R25). -/
def State.newRecord (s : State) (j : Slot) (x : Handed) : TrackRecord :=
  { seq := s.nextSeq, mark := x.mark, origin := x.origin, locked := x.locked, pitch := x.pitch, eSnap := x.eSnap, slot := j
    flagged := s.spliced x.mark, watchMark := .all false, firstOff := .all (.all false)
    verdict := .tab fun c => if (s.globals j).uses c then some .unknown else none
    st := .tab fun st => joinField (s.entry j st) x.mark
    z := plus x.mark (s.retireDist j) }

/-- The record stands at the tail, and its slot is referenced once more (R23, R25, R178). -/
def State.appendRecord (s : State) (r : TrackRecord) : State :=
  { s with track := s.track ++ [r], nextSeq := s.nextSeq + 1
           slots := s.slots.upd r.slot fun sl => { sl with refs := sl.refs + 1 } }

/-- The events of a record that H has already reached are handed over at once: its commits, and the retire event when it is the
head (R6, R26, R28, R30). -/
def State.takeReached (s : State) (q : SeqNo) : State :=
  let s1 := Idx.all.foldl (fun s st => s.commitIfReached st q) s
  match s1.track with
  | r :: _ => if r.seq = q then s1.retireRun else s1
  | [] => s1

/-- The reader hands a record over: it joins, or the full track refuses it (R25 to R27). No record is handed over while no slot
is ACTIVE. -/
def State.join (s : State) (x : Handed) : State :=
  match s.active with
  | none => s
  | some j =>
    if Config.trackCapacity ≤ s.track.length then
      (s.raise { kind := .trackFull, unit := .line }).assertStop .trackFull
    else
      let r := s.newRecord j x
      (s.appendRecord r).takeReached r.seq

/-- A station's commit position moved to a new mark (R28). -/
def StationField.rekey (f : StationField) (e : Option StationEntry) (m : Pos) : StationField :=
  match e with
  | some e => { f with k := some (commitPosition e m) }
  | none => f

/-- The tail record is converted to REAL at `c` in place (R28). -/
def State.convert (s : State) (q : SeqNo) (c : Pos) : State :=
  (s.updRecord q fun r =>
    { r with origin := .real, mark := c, flagged := r.flagged || s.spliced c
             st := .tab fun st => (r.st.get st).rekey (s.entry r.slot st) c
             z := plus c (s.retireDist r.slot) }).takeReached q

/-! ### The commands -/

/-- RETIRE (R30): the head leaves when H has reached its Z, followed by the run behind it. -/
def execRetire (s : State) : Outcome State := .next s.retireRun

end Sys2Proof.Machine
end

