-- ==== Sys2Proof/Machine/Reader.lean ====
section
/-! DEFINITION. The Web Position Unit and the Mark Reader (chapter 1): the counts W and H and the reversal test (R4, R5, R7), speed
(R8), windows (R13), producing a record (R12, R21), and the reader's states (R11, R14 to R19). -/

namespace Sys2Proof.Machine

/-! ### Web Position Unit (R4 to R8) -/

/-- The reverse distance (R7). -/
def Web.reverse (w : Web) : Nat := (w.h - w.w).toNat

/-- H follows W forward (R5). -/
def Web.follow (w : Web) : Web := if ahead w.w w.h then { w with h := w.w } else w

/-- The WEB_REVERSAL flag is cleared when an excursion begins and when it ends (R7): `old` is the reverse distance before the
step. -/
def Web.excursion (w : Web) (old : Nat) : Web :=
  if w.reverse = 0 ∨ (old = 0 ∧ w.reverse = 1) then { w with reversalRaised := false } else w

/-- One counted step of the encoder takes W to `x` (R4, R5, R7). -/
def Web.moved (w : Web) (x : Pos) : Web := ({ w with w := x } : Web).follow.excursion w.reverse

/-- A test point for WEB_REVERSAL (R7). -/
def State.reversalTest (s : State) : State :=
  if s.line = .run ∧ s.settings.reverseLimit < s.web.reverse ∧ s.web.reversalRaised = false then
    ({ s with web := { s.web with reversalRaised := true } }).raise
      { kind := .webReversal, unit := .line, detail := some (.reverseDistance s.web.reverse) }
  else s

/-- V at the end of an interval (R8). -/
def Web.endInterval (w : Web) : Web :=
  { w with v := min (w.h - w.intervalStart).toNat Config.speedTop, intervalStart := w.h }

/-! ### Prediction and stretch (R13, R21) -/

/-- P_pred (R21): P + RHA(P x E / 2^20). -/
def predictedPitch (p : Nat) (e : Int) : Int := p + rha (p * e) (2 ^ 20)

/-- The new E from a record's pitch (R21). -/
def stretchUpdate (p k : Nat) (pitch : Nat) (e : Int) : Int :=
  let d : Int := (pitch : Int) - p
  let inst := max (-Config.stretchTop) (min Config.stretchTop (rha (d * 2 ^ 20) p))
  e + floorDiv (inst - e) (2 ^ k)

/-- `c` lies in the window round pred (R13). -/
def inWindow (c pred : Pos) (wWin : Nat) : Bool := decide ((plus (c - pred) wWin).toNat ≤ 2 * wWin)

/-! ### Producing a record (R12) -/

/-- What an event of the reader produces. `inLocked` says that an edge was taken in LOCKED (R12 step 1); `state` is the state the
reader holds after the event (R12 step 5). -/
structure Made where
  mark : Pos
  origin : Origin
  locked : Bool
  inLocked : Bool
  state : ReaderState
  lock : Nat
  coast : Nat
  lost : Bool
deriving DecidableEq, Repr

/-- The last origin is REAL (R12). -/
def Reader.lastReal (r : Reader) : Bool :=
  match r.last with
  | some l => decide (l.origin = .real)
  | none => false

/-- The pitch of a record: present when it and the last are REAL (R12 step 2). -/
def Reader.pitchTo (r : Reader) (mark : Pos) (origin : Origin) : Option Nat :=
  match r.last with
  | some l => if origin = .real ∧ l.origin = .real then some (mark - l.mark).toNat else none
  | none => none

/-- The next reader event for a state (R12 step 5). -/
def nextEvent (st : ReaderState) (pred : Pos) (wWin : Nat) : Option ReaderEvent :=
  match st with
  | .acquire | .locked | .coast => some (.windowClose (plus pred (wWin + 1)))
  | .search => some (.synthesis pred)
  | .idle => none

/-- Steps 3 to 5 of R12: last mark and origin, prediction, next event. -/
def State.setReader (s : State) (mark : Pos) (origin : Origin) (st : ReaderState) (lock coast : Nat) : State :=
  let g := s.activeGlobals
  let pred := plus mark (predictedPitch g.p s.reader.e)
  { s with reader := { s.reader with state := st, lock := lock, coast := coast
                                     last := some { mark := mark, origin := origin, pred := pred }
                                     event := nextEvent st pred g.wWin } }

/-- A record is produced (R12): stretch update, hand-over, last mark, prediction, next event; REGISTER_LOST follows where the
event takes the reader into SEARCH from lock (R16, R17). -/
def State.produce (s : State) (m : Made) : State :=
  let g := s.activeGlobals
  let pitch := s.reader.pitchTo m.mark m.origin
  let e := match pitch with
    | some p => if m.inLocked then stretchUpdate g.p g.stretchSmooth p s.reader.e else s.reader.e
    | none => s.reader.e
  let s1 := { s with reader := { s.reader with e := e } }
  let s2 := s1.join { mark := m.mark, origin := m.origin, locked := m.locked, pitch := pitch, eSnap := e }
  let s3 := s2.setReader m.mark m.origin m.state m.lock m.coast
  if m.lost then s3.raise { kind := .registerLost, unit := .line } else s3

/-! ### The reader's own events (R15 to R18) -/

/-- A window close with the reader's counts as they stand (R15, R16, R17). -/
def closeMade (r : Reader) (pred : Pos) (coastMax : Nat) : Made :=
  let made (locked : Bool) (lock coast : Nat) (stay : ReaderState) : Made :=
    { mark := pred, origin := .coasted, locked := locked, inLocked := false
      state := if coastMax < coast then .search else stay
      lock := lock, coast := coast, lost := locked && decide (coastMax < coast) }
  match r.state with
  | .locked => made true r.lock 1 .coast
  | .coast => made true r.lock (r.coast + 1) .coast
  | _ => made false 0 (r.coast + 1) .acquire

/-- A SEARCH synthesis (R18). -/
def synthesisMade (r : Reader) (pred : Pos) : Made :=
  { mark := pred, origin := .lost, locked := false, inLocked := false, state := .search, lock := r.lock, coast := r.coast
    lost := false }

/-- The reader's scheduled event is taken. -/
def State.takeReaderEvent (s : State) : State :=
  match s.reader.event, s.reader.last with
  | some (.windowClose _), some l => s.produce (closeMade s.reader l.pred s.activeGlobals.coastMax)
  | some (.synthesis _), some l => s.produce (synthesisMade s.reader l.pred)
  | _, _ => s

/-- H has reached the reader's scheduled event (R6). -/
def State.readerDue (s : State) : Bool :=
  match s.reader.event with
  | some (.windowClose x) => reached s.web.h x
  | some (.synthesis x) => reached s.web.h x
  | none => false

/-- The events the reader schedules at a position H has already reached are handed over at once, one after the other (R6). -/
def readerLoop : Nat → State → State
  | 0, s => s
  | n + 1, s => if s.readerDue then readerLoop n s.takeReaderEvent else s

/-- How many events in a row the reader can find already reached: each moves pred on by at least P - P/32, at least 7,750 counts
in a checked job, and a reached position lies less than 2^31 behind H. -/
def readerFuel : Nat := 277102

def State.takeReadyReader (s : State) : State := readerLoop readerFuel s

/-! ### Edges (R11, R13, R14, R16, R17, R19) -/

/-- A stray edge (R13). -/
def State.strayMark (s : State) (c : Pos) : State :=
  s.raise { kind := .strayMark, unit := .line, detail := some (.captured c) }

/-- A REAL record at an accepted edge. -/
def edgeMade (c : Pos) (locked inLocked : Bool) (st : ReaderState) (lock : Nat) : Made :=
  { mark := c, origin := .real, locked := locked, inLocked := inLocked, state := st, lock := lock, coast := 0, lost := false }

/-- An edge in ACQUIRE inside the window: one more toward lock (R14). -/
def acquireMade (c : Pos) (lock lockN : Nat) : Made :=
  if lockN ≤ lock + 1 then edgeMade c true false .locked (lock + 1) else edgeMade c false false .acquire (lock + 1)

/-- The tail record can be converted by an edge at `c` (R19). -/
def State.convertible (s : State) (r : TrackRecord) (c : Pos) : Bool :=
  decide (r.origin = .lost) && decide (2 * (signedDist c r.mark).natAbs ≤ s.activeGlobals.p) &&
    Idx.all.all fun st => (r.st.get st).k.isNone || decide ((r.st.get st).status = .pending)

/-- An edge in SEARCH restarts acquisition: conversion, or a new record (R19). -/
def State.restartAt (s : State) (c : Pos) : State :=
  match s.tail with
  | some r =>
    if s.convertible r c then ((s.convert r.seq c).setReader c .real .acquire 0 0)
    else s.produce (edgeMade c false false .acquire 0)
  | none => s.produce (edgeMade c false false .acquire 0)

/-- An edge that is not discarded, by the reader's state (R13, R14, R16, R17, R19). -/
def State.takeEdge (s : State) (c : Pos) : State :=
  let g := s.activeGlobals
  match s.reader.state, s.reader.last with
  | .idle, _ => s
  | .search, _ => (s.restartAt c).takeReadyReader
  | .acquire, none => (s.produce (edgeMade c false false .acquire s.reader.lock)).takeReadyReader
  | .acquire, some l =>
    if inWindow c l.pred g.wWin then (s.produce (acquireMade c s.reader.lock g.lockN)).takeReadyReader else s.strayMark c
  | .locked, some l =>
    if inWindow c l.pred g.wWin then (s.produce (edgeMade c true true .locked s.reader.lock)).takeReadyReader
    else s.strayMark c
  | .coast, some l =>
    if inWindow c l.pred g.wWin then (s.produce (edgeMade c true false .locked s.reader.lock)).takeReadyReader
    else s.strayMark c
  | .locked, none | .coast, none => s

/-! ### Line events at the reader (R22) -/

/-- The reader emptied, in the state given (R22). -/
def Reader.cleared (st : ReaderState) : Reader := { Reader.reset with state := st }

/-! ### The commands -/

/-- SPEED_INTERVAL_END (R8). -/
def execSpeedIntervalEnd (s : State) : Outcome State := .next { s with web := s.web.endInterval }

/-- MARK_EDGE (R11). -/
def execMarkEdge (c : Pos) (wasReversed : Bool) (s : State) : Outcome State :=
  if wasReversed then .next s else (s.takeEdge c).done

/-- WINDOW_CLOSE (R15 to R17): taken when a window close is scheduled and H has reached it. -/
def execWindowClose (s : State) : Outcome State :=
  match s.reader.event with
  | some (.windowClose x) => if reached s.web.h x then s.takeReaderEvent.takeReadyReader.done else .next s
  | _ => .next s

/-- SEARCH_SYNTHESIS (R18): taken when a synthesis is scheduled and H has reached it. -/
def execSearchSynthesis (s : State) : Outcome State :=
  match s.reader.event with
  | some (.synthesis x) => if reached s.web.h x then s.takeReaderEvent.takeReadyReader.done else .next s
  | _ => .next s

end Sys2Proof.Machine
end

