-- ==== Sys2Proof/Machine/News.lean ====
section
/-! DEFINITION. What the masters tell the part about repeats and foil: verdicts (R122 to R126), splices and the Splice List
(R128 to R132), first-off approval (R97) and foil rolls (R99). -/

namespace Sys2Proof.Machine

/-! ### Verdicts (R123, R124, R126) -/

/-- A posted verdict applied to one column (R124). -/
def postedTo (v : Verdict) (p : PostedVerdict) : Verdict :=
  match v, p with
  | .reject, _ => .reject
  | _, .good => .good
  | _, .reject => .reject

/-- The verdicts of a record after a posting: columns named and used take it, the others are kept (R124). -/
def TrackRecord.posted (r : TrackRecord) (cols : Four Bool) (p : PostedVerdict) : Four (Option Verdict) :=
  .tab fun c =>
    match r.verdict.get c with
    | some v => if cols.get c then some (postedTo v p) else some v
    | none => none

/-- A GOOD posting meets a REJECT column (R124). -/
def TrackRecord.keepsReject (r : TrackRecord) (cols : Four Bool) (p : PostedVerdict) : Bool :=
  decide (p = .good) && Idx.all.any fun c => cols.get c && decide (r.verdict.get c = some .reject)

/-- The feed at a station that a column's change came too late for: conditions 1 and 2 of R126. `old` is the record before the
posting and `new` the verdict after it. -/
def State.feedTooLate (s : State) (st : Idx) (old : TrackRecord) (new : Four (Option Verdict)) (c : Idx) : Bool :=
  let f := old.st.get st
  match s.descriptor old.slot st c with
  | some d =>
    (decide (old.verdict.get c ≠ some .reject ∧ new.get c = some .reject) && decide (0 < f.feeds.get c)) ||
    (decide (f.decision = .strike ∨ f.decision = .dry) &&
      decide (old.verdict.get c = some .unknown ∧ new.get c = some .good) &&
      !(s.globals old.slot).unknownFeed && decide (f.feeds.get c = 0) &&
      decide (d.code = .on ∨ d.code = .onReport ∨ d.code = .firstOff))
  | none => false

/-- Condition 3 of R126: case 10 would have lifted. -/
def State.decisionTooLate (s : State) (st : Idx) (old : TrackRecord) (new : Four (Option Verdict)) : Bool :=
  let f := old.st.get st
  decide (f.decision = .strike ∨ f.decision = .dry) &&
    (match s.entry old.slot st with
      | some e => e.liftOnReject
      | none => false) &&
    ({ old with verdict := new } : TrackRecord).allReject && !old.allReject

/-- The columns concerned at a station, in order (R126). Under condition 3 these are the columns the posting changed (DEDUCED,
log entry 12). -/
def State.lateColumns (s : State) (st : Idx) (old : TrackRecord) (new : Four (Option Verdict)) : List Idx :=
  Idx.all.filter fun c =>
    s.feedTooLate st old new c ||
      (s.decisionTooLate st old new && decide (old.verdict.get c ≠ new.get c))

/-- The late test of one station (R126). -/
def State.lateTest (s : State) (st : Idx) (old : TrackRecord) (new : Four (Option Verdict)) : State :=
  let f := old.st.get st
  if f.status ≠ .pending ∧ f.status ≠ .passed ∧ f.feed.isSome then
    match s.lateColumns st old new with
    | c :: _ =>
      s.raise { kind := .lateVerdict, unit := .station st, seq := some old.seq, column := some c, target := f.target }
    | [] => s
  else s

/-- POST VERDICT (R123, R124, R126). -/
def State.takePostVerdict (port : Port) (q : SeqNo) (cols : Four Bool) (v : Option PostedVerdict) (s : State) :
    State × Answer :=
  if port = .roll ∨ (port = .line ∧ v = some .good) then (s, .bare .denied)
  else
    match v with
    | none => (s, .bare .range)
    | some p =>
      match s.record q with
      | none => (s, .bare .noRepeat)
      | some r =>
        let new := r.posted cols p
        let s1 := s.updRecord q fun r => { r with verdict := new }
        let s2 := if new = r.verdict then s else Idx.all.foldl (fun s st => s.lateTest st r new) s1
        (s2, ⟨if r.keepsReject cols p then .kept else .ok, .verdicts q new⟩)

/-! ### Splices (R129 to R132) -/

/-- Two zones merge: each begins no more than 100 counts after the other ends (R130). -/
def SpliceEntry.merges (a b : SpliceEntry) : Bool :=
  decide (signedDist b.start a.stop ≤ Config.spliceGap) && decide (signedDist a.start b.stop ≤ Config.spliceGap)

/-- The nearer of two positions to H, by signed distance (R130). -/
def nearest (h a b : Pos) : Pos := if signedDist a h ≤ signedDist b h then a else b

/-- The further of two positions from H, by signed distance (R130). -/
def furthest (h a b : Pos) : Pos := if signedDist a h ≤ signedDist b h then b else a

/-- A new zone merged with the entries it meets (R130). -/
def mergeAll (h : Pos) (new : SpliceEntry) (old : List SpliceEntry) : SpliceEntry :=
  old.foldl (fun x y => { start := nearest h x.start y.start, stop := furthest h x.stop y.stop,
                          reports := min (x.reports + y.reports) 255 }) new

/-- An entry placed by its start, nearest first (R128). -/
def placeSplice (h : Pos) (x : SpliceEntry) : List SpliceEntry → List SpliceEntry
  | [] => [x]
  | y :: ys => if signedDist x.start h ≤ signedDist y.start h then x :: y :: ys else y :: placeSplice h x ys

/-- The zone of a report (R129). -/
def State.spliceZone (s : State) (c : Pos) : SpliceEntry :=
  { start := plus c ((s.settings.spliceDist : Int) - s.activeGlobals.splBefore)
    stop := plus c ((s.settings.spliceDist : Int) + s.activeGlobals.splAfter)
    reports := 1 }

/-- A record that the report of an entry newly flags (R131). -/
def TrackRecord.newlyFlagged (r : TrackRecord) (x : SpliceEntry) : Bool := !r.flagged && x.covers r.mark

/-- SPLICE_LATE at a station, for the oldest newly flagged record whose commit there has passed (R131). -/
def State.spliceLate (s : State) (st : Idx) (newly : List TrackRecord) : State :=
  match newly.find? (fun r => decide ((r.st.get st).status ≠ .pending ∧ (r.st.get st).status ≠ .passed)) with
  | some r =>
    s.raise { kind := .spliceLate, unit := .station st, seq := some r.seq, target := (r.st.get st).target }
  | none => s

/-- An accepted entry flags the track (R131). -/
def State.flagTrack (s : State) (x : SpliceEntry) : State :=
  let newly := s.track.filter (·.newlyFlagged x)
  Idx.all.foldl (fun s st => s.spliceLate st newly)
    { s with track := s.track.map fun r => if r.newlyFlagged x then { r with flagged := true } else r }

/-- The entry whose zone ends at `x` leaves the list (R132). -/
def State.removeSplice (s : State) (x : Pos) : State :=
  { s with splices := s.splices.filter fun y => decide (y.stop ≠ x) }

/-- REPORT SPLICE (R129 to R132). -/
def State.takeReportSplice (port : Port) (c : Pos) (s : State) : State × Answer :=
  if port ≠ .roll then (s, .bare .denied)
  else
    match s.active with
    | none => (s, .bare .state)
    | some _ =>
      let z := s.spliceZone c
      let d := signedDist z.stop s.web.h
      if d < -Config.horizon ∨ Config.horizon < d then (s, .bare .range)
      else
        let met := s.splices.filter (·.merges z)
        if met = [] ∧ Config.spliceCapacity ≤ s.splices.length then (s, .bare .full)
        else
          let x := mergeAll s.web.h z met
          let s1 := { s with splices := placeSplice s.web.h x (s.splices.filter fun y => !y.merges z) }
          let s2 := s1.flagTrack x
          let s3 := if reached s.web.h x.stop then s2.removeSplice x.stop else s2
          (s3, ⟨.ok, .splice x.start x.stop (s.track.filter (·.newlyFlagged x)).length⟩)

/-! ### First-off approval and foil rolls (R97, R99) -/

/-- The descriptor of lane (st, c) in the ACTIVE slot. -/
def State.activeDescriptor (s : State) (st c : Idx) : Option (Slot × Descriptor) :=
  match s.active with
  | some j => (s.descriptor j st c).map fun d => (j, d)
  | none => none

/-- APPROVE FIRST-OFF (R97). -/
def State.takeApprove (port : Port) (sb cb : Byte) (s : State) : State × Answer :=
  if port = .roll then (s, .bare .denied)
  else
    match pairOf sb cb with
    | none => (s, .bare .range)
    | some (st, c) =>
      match s.activeDescriptor st c with
      | none => (s, .bare .state)
      | some (j, d) =>
        if d.code ≠ .firstOff then (s, .bare .state)
        else if d.struck then (s.setDescriptor j st c { d with code := .on, stage := .vacant }, .bare .ok)
        else (s, .bare .notStruck)

/-- REPORT FOIL ROLL (R99). -/
def State.takeFoilRoll (port : Port) (sb cb : Byte) (length : BitVec 32) (s : State) : State × Answer :=
  if port ≠ .roll then (s, .bare .denied)
  else
    match pairOf sb cb with
    | none => (s, .bare .range)
    | some (st, c) =>
      if s.line = .run ∧ 0 < (s.lane st c).reserved then (s, .bare .busy)
      else
        let n := length.toNat
        let state := if n < (s.settings.low.get st).get c then LaneState.low else .ready
        ((s.updLane st c fun l => { l with remaining := n, state := state }).laneChanged st c, .bare .ok)

/-! ### The commands -/

/-- POST_VERDICT (R123): the raise is a warning, so nothing trips. -/
def execPostVerdict (hdr : ReqHdr) (q : SeqNo) (cols : Four Bool) (v : Option PostedVerdict) (s : State) : Outcome State :=
  .next (s.serve hdr (.postVerdict · q cols v) 19 (State.takePostVerdict hdr.port q cols v))

/-- APPROVE_FIRST_OFF (R97). -/
def execApproveFirstOff (hdr : ReqHdr) (sb cb : Byte) (s : State) : Outcome State :=
  .next (s.serve hdr (.approveFirstOff · sb cb) 20 (State.takeApprove hdr.port sb cb))

/-- REPORT_SPLICE (R129). -/
def execReportSplice (hdr : ReqHdr) (c : Pos) (s : State) : Outcome State :=
  (s.serve hdr (.reportSplice · c) 21 (State.takeReportSplice hdr.port c)).done

/-- REPORT_FOIL_ROLL (R99). -/
def execReportFoilRoll (hdr : ReqHdr) (sb cb : Byte) (length : BitVec 32) (s : State) : Outcome State :=
  .next (s.serve hdr (.reportFoilRoll · sb cb length) 22 (State.takeFoilRoll hdr.port sb cb length))

/-- SPLICE_ZONE_END (R132): taken when an entry's zone ends there and H has reached it. -/
def execSpliceZoneEnd (x : Pos) (s : State) : Outcome State :=
  if s.splices.any (fun y => decide (y.stop = x)) ∧ reached s.web.h x then .next (s.removeSplice x) else .next s

end Sys2Proof.Machine
end

