-- ==== Sys2Proof/Machine/Line.lean ====
section
/-! DEFINITION. The line state (chapter 8): START (R136, R137), hold entry and the hold contexts (R138, R139), their edits (R143,
R144), RESUME with its restrikes (R100, R145 to R147), STOP (R148), LINE RESET (R149), STATION RESET (R150), and power-on
(R135). -/

namespace Sys2Proof.Machine

/-- The answer of a line request: it carries the line state and the E-stop level as they stand after it (R135). -/
def State.levelAnswer (s : State) (r : ResultCode) : Answer := ⟨r, .level s.line s.estop⟩

/-- A line request of the Line Port: DENIED elsewhere, with the same body (R135, R189). -/
def lineRequest (hdr : ReqHdr) (take : State → State × Answer) (s : State) : State × Answer :=
  if hdr.port = .line then take s else (s, s.levelAnswer .denied)

/-- A line request refused: nothing changes (R135). -/
def State.refuse (s : State) (r : ResultCode) : State × Answer := (s, s.levelAnswer r)

/-- A line request accepted (R135). -/
def State.accept (s : State) : State × Answer := (s, s.levelAnswer .ok)

def FaultUnit.flags (u : FaultUnit) : UnitFlags := { soft := u.soft, hard := u.hard, tripped := u.tripped }

def State.slotStates (s : State) : Two SlotState := ⟨s.slots.s0.state, s.slots.s1.state⟩

/-! ### START (R136, R137) -/

/-- Every station becomes UNPHASED (R51). -/
def State.unphaseAll (s : State) : State := { s with calcs := .tab fun st => { s.calcs.get st with phased := false } }

/-- An accepted START (R137). -/
def State.startLine (s : State) : State :=
  ({ ({ s with line := .run } : State).unphaseAll with reader := .cleared .acquire } : State).reversalTest

def State.startStateAnswer (s : State) : Answer := ⟨.state, .startRefused s.line s.estop s.slotStates s.lineUnit.flags⟩

/-- START (R136). -/
def State.takeStart (s : State) : State × Answer :=
  if s.line ≠ .stopped then (s, s.startStateAnswer)
  else if s.estop then s.refuse .estop
  else if s.active = none then (s, s.startStateAnswer)
  else if s.lineUnit.tripped then (s, s.startStateAnswer)
  else s.startLine.accept

/-! ### Hold entry (R138, R139) -/

/-- The trip of the station's unit that a hold entry taken now comes together with, as it was found (R141): one whose abort is
outstanding, or one that found nothing in flight, so that its abort was complete at once (R80), the web standing as it did. The second
case is DESIGN CHOICE (unsafe, log entry 42): R141 speaks of an outstanding abort alone. -/
def State.tripWithHold (s : State) (st : Idx) : Option BeforeTrip :=
  let sq := s.seqr.get st
  sq.beforeTrip.filter fun b => decide (sq.awaited = .abort ∨ (sq.inFlight = [] ∧ b.idleAt = some s.web))

/-- The hold context of a station at hold entry (R139). Where a trip of the station's unit comes together with hold entry and is taken
first, the context is the one that hold entry first would save, as R141 has it: the phase state from before the trip, and an entry,
NOT_MADE, for the queued order that the trip's abort withdrew. That R141's one context is that of hold entry taken first is DEDUCED
(unsafe, log entry 42). -/
def State.contextOf (s : State) (st : Idx) : HoldContext :=
  let c := s.calcs.get st
  let trip := s.tripWithHold st
  { trim := c.trim, last := c.last.map fun l => (l.target, l.seq)
    phased := (trip.map (·.phased)).getD c.phased
    entries := ((s.seqr.get st).inFlight.filterMap fun e => (s.record e.seq).map (·.contextEntry st)) ++
      (trip.bind (·.withdrawn)).toList }

/-- The contexts of all stations are saved (R138 step 2), which uses up what a trip found. -/
def State.saveContexts (s : State) : State :=
  { s with seqr := .tab fun st => { s.seqr.get st with context := some (s.contextOf st), beforeTrip := none } }

/-- The line enters HOLD (R138). -/
def State.enterHold (s : State) : State :=
  ((Idx.all.foldl (fun s st => s.requestAbort st) ({ s with line := .hold } : State).saveContexts).deassertStop).offer .holdEntered

/-- HOLD (R135, R138). -/
def State.takeHold (s : State) : State × Answer :=
  match s.line with
  | .run => s.enterHold.accept
  | .hold => s.accept
  | .stopped => s.refuse .state

/-! ### Edits of the hold context (R143, R144) -/

def State.updContext (s : State) (st : Idx) (f : HoldContext → HoldContext) : State :=
  s.updSeqr st fun sq => { sq with context := sq.context.map f }

/-- EDIT HOLD CONTEXT with a trim (R143). -/
def State.takeEditTrim (sb : Byte) (t : BitVec 16) (s : State) : State × Answer :=
  if s.line ≠ .hold then (s, .bare .state)
  else
    match idxOf sb with
    | none => (s, .bare .range)
    | some st =>
      let v := clampAbs (s.trimLimit st) t.toInt
      (s.updContext st fun c => { c with trim := v }, ⟨.ok, .trim v⟩)

/-- The entry of a seq in a station's context. -/
def State.contextEntry? (s : State) (st : Idx) (q : SeqNo) : Option ContextEntry :=
  (s.seqr.get st).context.bind fun c => c.entries.find? fun e => decide (e.seq = q)

def State.setAction (s : State) (st : Idx) (q : SeqNo) (a : ResumeAction) : State :=
  s.updContext st fun c => { c with entries := c.entries.map fun e => if e.seq = q then { e with action := a } else e }

/-- The record of a seq is in the track with status MISSED at the station (R144). -/
def State.missedAt (s : State) (st : Idx) (q : SeqNo) : Bool :=
  match s.record q with
  | some r => decide ((r.st.get st).status = .missed)
  | none => false

/-- EDIT HOLD CONTEXT with an action (R144). -/
def State.takeEditAction (sb : Byte) (q : SeqNo) (a : Option ResumeAction) (s : State) : State × Answer :=
  if s.line ≠ .hold then (s, .bare .state)
  else
    match idxOf sb, a with
    | some st, some a =>
      match s.contextEntry? st q with
      | none => (s, .bare .noRepeat)
      | some e =>
        if a = .skip then (s.setAction st q .skip, .bare .ok)
        else if e.outcome = .pending then (s, .bare .busy)
        else if e.outcome ≠ .notMade ∨ e.decision = .lift ∨ s.missedAt st q = false then (s, .bare .context)
        else (s.setAction st q .restrike, .bare .ok)
    | _, _ => (s, .bare .range)

/-! ### RESUME (R145 to R147, R100) -/

/-- Some station's abort is still outstanding (R145, R148). -/
def State.abortOutstanding (s : State) : Bool := Idx.all.any fun st => decide ((s.seqr.get st).awaited = .abort)

/-- The entries of a station's context, none outside HOLD. -/
def State.entries (s : State) (st : Idx) : List ContextEntry :=
  match (s.seqr.get st).context with
  | some c => c.entries
  | none => []

/-- Why a RESTRIKE entry of the station is invalid, if it is (R145). Where several causes hold, the reply names the first of
U_s TRIPPED, U4 TRIPPED and UNPHASED: DESIGN CHOICE (unsafe, log entry 26), R145 gives the causes no order. -/
def State.restrikeCause (s : State) (st : Idx) : Option RestrikeCause :=
  if (s.units.get st).tripped then some .unitTripped
  else if s.lineUnit.tripped then some .lineTripped
  else if (s.calcs.get st).phased = false then some .unphased
  else none

/-- A RESTRIKE entry that RESUME re-orders: its record is in the track and H has not reached its T' (R146). -/
def State.restrikes (s : State) (e : ContextEntry) : Bool :=
  decide (e.action = .restrike) && (s.record e.seq).isSome && !reached s.web.h e.target

/-- The first invalid entry, stations from S0 to S3 and entries oldest first. A RESTRIKE entry whose record has left the track, or
whose T' H has reached, is not invalid (R145). -/
def State.firstInvalid (s : State) : Option (Idx × SeqNo × RestrikeCause) :=
  (Idx.all.flatMap fun st => (s.entries st).filterMap fun e =>
    if s.restrikes e then (s.restrikeCause st).map fun c => (st, e.seq, c) else none).head?

/-- The recheck of one recorded feed of a restrike (R100). -/
def State.recheckFeed (s : State) (st : Idx) (e : ContextEntry) (c : Idx) : State × Nat :=
  let n := e.feed.get c
  let l := s.lane st c
  if n = 0 ∨ l.state.usable = false then (s, 0)
  else if l.remaining < l.reserved + n then (s.runOut st c e.seq, 0)
  else
    match s.descriptor e.slot st c with
    | some d =>
      match d.code, d.stage with
      | .firstOff, .awaiting q => if q = e.seq then (s, n) else (s, 0)
      | _, _ => (s, n)
    | none => (s, n)

/-- The recheck of an entry's four feeds (R100). Where several lanes run out at one recheck, FOIL_OUT is raised in the order C0 to C3:
DESIGN CHOICE (unsafe, log entry 37), R90 and R100 give no order. -/
def State.recheckFeeds (s : State) (st : Idx) (e : ContextEntry) : State × Four Nat :=
  let f0 := s.recheckFeed st e .i0
  let f1 := f0.1.recheckFeed st e .i1
  let f2 := f1.1.recheckFeed st e .i2
  let f3 := f2.1.recheckFeed st e .i3
  (f3.1, ⟨f0.2, f1.2, f2.2, f3.2⟩)

/-- The decision a restrike is sent with: a STRIKE at a foil station whose feeds have all become 0 is DRY (R100). -/
def State.restrikeDecision (s : State) (st : Idx) (e : ContextEntry) (feed : Four Nat) : Decision :=
  match s.entry e.slot st with
  | some p => if e.decision = .strike ∧ isFoil p.type ∧ feed = .all 0 then .dry else e.decision
  | none => e.decision

/-- A restrike order is issued for its record (R147). -/
def State.restrike (s : State) (st : Idx) (e : ContextEntry) : State :=
  let x := s.recheckFeeds st e
  let s1 := x.1.orderFoil st e.slot e.seq x.2
  let s2 := s1.updField e.seq st fun f =>
    { f with decision := s.restrikeDecision st e x.2, status := .committed, target := some e.target, feed := some x.2,
             report := none }
  s2.launch st e.seq false (restrike := true)

/-- The restrikes of one station, oldest first (R146 step 3). -/
def State.restrikeStation (s : State) (st : Idx) : State :=
  (s.entries st).foldl (fun s e => if s.restrikes e then s.restrike st e else s) s

/-- What the reply says of a station's RESTRIKE entries (R146). -/
def State.restruck (s : State) (st : Idx) : Restruck :=
  { ordered := ((s.entries st).filter s.restrikes).map (·.seq)
    passed := ((s.entries st).filter fun e => decide (e.action = .restrike) && !s.restrikes e).map (·.seq) }

/-- A station's trim is loaded from its context, clamped to the slot then ACTIVE (R58). -/
def State.loadTrim (s : State) (st : Idx) : State :=
  match (s.seqr.get st).context with
  | some c => s.setTrim st (clampAbs (s.trimLimit st) c.trim)
  | none => s

/-- The hold contexts are discarded (R146, R148). -/
def State.dropContexts (s : State) : State :=
  { s with seqr := .tab fun st => { s.seqr.get st with context := none } }

/-- An accepted RESUME (R146). -/
def State.resumeLine (s : State) : State :=
  let s1 := Idx.all.foldl (fun s st => s.loadTrim st) { s with line := .run }
  (Idx.all.foldl (fun s st => s.restrikeStation st) s1).dropContexts.reversalTest

/-- RESUME (R145). -/
def State.takeResume (s : State) : State × Answer :=
  if s.line ≠ .hold then s.refuse .state
  else if s.estop then s.refuse .estop
  else if s.abortOutstanding then s.refuse .busy
  else
    match s.firstInvalid with
    | some (st, q, c) => (s, ⟨.context, .resumeInvalid s.line s.estop st q c⟩)
    | none =>
      let t := s.resumeLine
      (t, ⟨.ok, .resumed t.line t.estop (.tab s.restruck)⟩)

/-! ### STOP (R148) -/

/-- An accepted STOP (R148). -/
def State.stopLine (s : State) : State :=
  ({ ({ s with line := .stopped } : State).emptyTrack with reader := .reset, splices := [] } : State).dropContexts.deassertStop

/-- STOP (R148). -/
def State.takeStop (s : State) : State × Answer :=
  if s.line ≠ .hold then s.refuse .state
  else if s.abortOutstanding then s.refuse .busy
  else s.stopLine.accept

/-! ### LINE RESET and STATION RESET (R85, R149, R150) -/

/-- The orders still in a station's in-flight list are closed MISSED, abort outcome UNKNOWN (R85). -/
def State.missInFlight (s : State) (st : Idx) : State :=
  (s.seqr.get st).inFlight.foldl (fun s e => (s.closeAtReset st e.seq).settleContext st e.seq .unknown) s

/-- A sequencer after STATION RESET or LINE RESET, its hold context kept (R85). -/
def Sequencer.cleared (sq : Sequencer) : Sequencer := { Sequencer.reset with context := sq.context }

/-- The reserved foil of a station's lanes becomes 0 (R101). -/
def State.unreserve (s : State) (st : Idx) : State := s.updLanes st fun _ l => { l with reserved := 0 }

/-- One sequencer, with its lanes' reservations and its phase, is reset (R59, R85, R94, R101). -/
def State.resetStation (s : State) (st : Idx) : State :=
  ((((((s.missInFlight st).emptyOverdue st).updSeqr st Sequencer.cleared).updLink st Link.withdraw).unreserve st).unphase st)

/-- An accepted LINE RESET (R149). -/
def State.resetLine (s : State) : State :=
  let s1 : State := { s.emptyTrack with reader := .reset, splices := [] }
  let s2 := (Idx.all.foldl (fun s st => s.resetStation st) s1).dropContexts
  ({ s2 with units := .all .reset, lineUnit := .reset } : State).deassertStop

/-- LINE RESET (R149). -/
def State.takeLineReset (s : State) : State × Answer :=
  if s.line = .stopped then s.resetLine.accept else s.refuse .state

/-- A fault unit after STATION RESET: flags and first-fault record cleared, latest-event record kept (R150). -/
def FaultUnit.stationReset (u : FaultUnit) : FaultUnit :=
  { u with soft := false, hard := false, tripped := false, first := none }

/-- An accepted STATION RESET (R150). -/
def State.resetOne (s : State) (st : Idx) : State :=
  let s1 := s.setUnit (.station st) (s.units.get st).stationReset
  (s1.resetStation st).updContext st fun c => { c with entries := [] }

/-- STATION RESET (R150). -/
def State.takeStationReset (sb : Byte) (s : State) : State × Answer :=
  if s.line = .run then s.refuse .state
  else
    match idxOf sb with
    | none => s.refuse .range
    | some st => (s.resetOne st).accept

/-! ### The commands -/

/-- POWER_ON (R135): the power-on state of every block, the E-stop level that of the input. -/
def execPowerOn (level : Bool) (s : State) : Outcome State := .next { State.reset with estop := level, pending := s.pending }

/-- ESTOP_ASSERTED (R138). -/
def execEstopAsserted (s : State) : Outcome State :=
  let s1 := { s with estop := true }
  if s.line = .run then s1.enterHold.done else .next s1

/-- ESTOP_CLEARED (R138). -/
def execEstopCleared (s : State) : Outcome State := .next { s with estop := false }

/-- START (R136). -/
def execStart (hdr : ReqHdr) (s : State) : Outcome State := (s.serve hdr .start 1 (lineRequest hdr State.takeStart)).done

/-- HOLD (R138). -/
def execHold (hdr : ReqHdr) (s : State) : Outcome State := (s.serve hdr .hold 2 (lineRequest hdr State.takeHold)).done

/-- RESUME (R145). -/
def execResume (hdr : ReqHdr) (s : State) : Outcome State := (s.serve hdr .resume 3 (lineRequest hdr State.takeResume)).done

/-- STOP (R148). -/
def execStop (hdr : ReqHdr) (s : State) : Outcome State := (s.serve hdr .stop 4 (lineRequest hdr State.takeStop)).done

/-- LINE_RESET (R149). -/
def execLineReset (hdr : ReqHdr) (s : State) : Outcome State :=
  (s.serve hdr .lineReset 5 (lineRequest hdr State.takeLineReset)).done

/-- STATION_RESET (R150). -/
def execStationReset (hdr : ReqHdr) (sb : Byte) (s : State) : Outcome State :=
  (s.serve hdr (.stationReset · sb) 6 (lineRequest hdr (State.takeStationReset sb))).done

/-- EDIT_HOLD_CONTEXT_TRIM (R143). -/
def execEditHoldContextTrim (hdr : ReqHdr) (sb : Byte) (t : BitVec 16) (s : State) : Outcome State :=
  .next (s.serve hdr (.editHoldContextTrim · sb t) 7 (lineOnly hdr (State.takeEditTrim sb t)))

/-- EDIT_HOLD_CONTEXT_ACTION (R144). -/
def execEditHoldContextAction (hdr : ReqHdr) (sb : Byte) (q : SeqNo) (a : Option ResumeAction) (s : State) : Outcome State :=
  .next (s.serve hdr (.editHoldContextAction · sb q a) 7 (lineOnly hdr (State.takeEditAction sb q a)))

end Sys2Proof.Machine
end

