-- ==== Sys2Proof/Machine/Faults.lean ====
section
/-! DEFINITION. The Line Port's requests on the fault units (chapter 9): CLEAR FLAGS (R157), SET FLAGS (R158) and CLEAR FAULT
RECORD (R161). -/

namespace Sys2Proof.Machine

/-! ### Flags by request (R157, R158) -/

/-- The unit with each named flag clear (R157). -/
def FaultUnit.clearFlags (u : FaultUnit) (f : FlagSet) : FaultUnit :=
  { u with soft := u.soft && !f.soft, hard := u.hard && !f.hard }

/-- The unit after SET FLAGS: a flag named to set becomes set, and one named only to clear becomes clear (R158). -/
def FaultUnit.setFlags (u : FaultUnit) (toSet toClear : FlagSet) : FaultUnit :=
  { u with soft := toSet.soft || (u.soft && !toClear.soft), hard := toSet.hard || (u.hard && !toClear.hard) }

/-- A notice is offered where a condition holds. -/
def State.offerIf (s : State) (b : Bool) (n : Notice) : State := if b then s.offer n else s

/-- An accepted CLEAR FLAGS at a unit (R157). -/
def State.clearFlagsAt (s : State) (u : UnitId) (f : FlagSet) : State := s.setUnit u ((s.unit u).clearFlags f)

/-- An accepted SET FLAGS at a unit: a flag changed from clear to set raises its notice (R158). -/
def State.setFlagsAt (s : State) (u : UnitId) (toSet toClear : FlagSet) : State :=
  let old := s.unit u
  let new := old.setFlags toSet toClear
  ((s.setUnit u new).offerIf (!old.soft && new.soft) (.unitSoft u)).offerIf (!old.hard && new.hard) (.unitHard u)

/-- The answer OK with the unit's three flags as they stand. -/
def State.flagsAnswer (s : State) (u : UnitId) : Answer := ⟨.ok, .flags (s.unit u).flags⟩

/-- CLEAR FLAGS (R157). -/
def State.takeClearFlags (ub : Byte) (f : FlagSet) (s : State) : State × Answer :=
  match unitOf ub with
  | none => (s, .bare .range)
  | some u =>
    if f.beyond then (s, .bare .range)
    else
      let t := s.clearFlagsAt u f
      (t, t.flagsAnswer u)

/-- SET FLAGS (R158). -/
def State.takeSetFlags (ub : Byte) (toSet toClear : FlagSet) (s : State) : State × Answer :=
  match unitOf ub with
  | none => (s, .bare .range)
  | some u =>
    if toSet.beyond || toClear.beyond then (s, .bare .range)
    else
      let t := s.setFlagsAt u toSet toClear
      (t, t.flagsAnswer u)

/-! ### The first-fault record by request (R161) -/

/-- The unit with its first-fault record emptied (R161). -/
def FaultUnit.emptyFirst (u : FaultUnit) : FaultUnit := { u with first := none }

/-- CLEAR FAULT RECORD (R161). -/
def State.takeClearFaultRecord (ub : Byte) (s : State) : State × Answer :=
  match unitOf ub with
  | none => (s, .bare .range)
  | some u => (s.setUnit u (s.unit u).emptyFirst, .bare .ok)

/-! ### The commands -/

/-- CLEAR_FLAGS (R157). -/
def execClearFlags (hdr : ReqHdr) (ub : Byte) (f : FlagSet) (s : State) : Outcome State :=
  .next (s.serve hdr (.clearFlags · ub f) 8 (lineOnly hdr (State.takeClearFlags ub f)))

/-- SET_FLAGS (R158). -/
def execSetFlags (hdr : ReqHdr) (ub : Byte) (toSet toClear : FlagSet) (s : State) : Outcome State :=
  .next (s.serve hdr (.setFlags · ub toSet toClear) 9 (lineOnly hdr (State.takeSetFlags ub toSet toClear)))

/-- CLEAR_FAULT_RECORD (R161). -/
def execClearFaultRecord (hdr : ReqHdr) (ub : Byte) (s : State) : Outcome State :=
  .next (s.serve hdr (.clearFaultRecord · ub) 10 (lineOnly hdr (State.takeClearFaultRecord ub)))

end Sys2Proof.Machine
end

