-- ==== Sys2Proof/Machine/Watches.lean ====
section
/-! DEFINITION. The Watch Units' requests and their positional event (chapter 10): ARM WATCH (R169), ENABLE WATCH, CLEAR WATCH
HIT and RELEASE WATCH (R170), and AT_POSITION (R172). -/

namespace Sys2Proof.Machine

/-! ### Arming (R169) -/

/-- The first judgement of R169: every name of the request is among those listed. -/
structure ArmRequest where
  unit : Idx
  spec : WatchSpec
  action : WatchAction
  scope : WatchScope
  enabled : Bool
deriving DecidableEq, Repr

/-- The request with its unit and names known, absent when one of them is not listed (R169 row 1). -/
def armRequest (ub : Byte) (spec : WatchSpec) (action : Option WatchAction) (scope : Option WatchScope)
    (enabled : Option Bool) : Option ArmRequest :=
  match idxOf ub, spec, action, scope, enabled with
  | none, _, _, _, _ => none
  | _, .unlisted, _, _, _ => none
  | some w, spec, some a, some c, some e => some { unit := w, spec := spec, action := a, scope := c, enabled := e }
  | _, _, _, _, _ => none

/-- The condition a request names with its parameters in range (R168, R169). For AT_POSITION, x may lie up to 2^23 counts ahead
of H. -/
def watchCondition (h : Pos) : WatchSpec → Option WatchCondition
  | .atPosition x => if Config.horizon < signedDist x h then none else some (.atPosition x)
  | .repeatAtStation q sb => (idxOf sb).map (.repeatAtStation q)
  | .foilBelow sb cb x => (pairOf sb cb).map fun p => .foilBelow p.1 p.2 x.toNat
  | .trimBeyond sb x =>
    if Config.trimTop < x.toNat then none else (idxOf sb).map fun st => .trimBeyond st x.toNat
  | .unlisted => none

/-- A unit that is owned by another port (R169, R170). -/
def Watch.ownedElsewhere (u : Watch) (p : Port) : Bool :=
  match u.owner with
  | some q => decide (q ≠ p)
  | none => false

/-- Why an arming in range is refused, if it is (R169 rows 4 and 5). -/
def State.armRefusal (s : State) : WatchCondition → Option ResultCode
  | .repeatAtStation q st =>
    match s.record q with
    | none => some .noRepeat
    | some r => if (r.st.get st).status = .pending then none else some .state
  | .atPosition _ | .foilBelow _ _ _ | .trimBeyond _ _ => none

/-- A unit claimed and configured: the old watch is given up, hit and last hit are kept (R169 steps 1 and 2). A one-shot unit is
armed (steps 3 and 4). The item of the other kind is cleared: a one-shot unit stands outside, and a level unit is disarmed.
DESIGN CHOICE (unsafe, log entry 29): R169 sets only the item of the new type. -/
def Watch.configure (u : Watch) (p : Port) (c : WatchCondition) (a : ArmRequest) : Watch :=
  { u with owner := some p, condition := some c, action := some a.action, scope := some a.scope, enabled := a.enabled
           armed := c.oneShot, inside := false }

/-- A level condition on the value as it stands; a one-shot condition already reached (R168, R169 steps 3 to 5). -/
def State.holdsNow (s : State) : WatchCondition → Bool
  | .atPosition x => reached s.web.h x
  | .repeatAtStation _ _ => false
  | .foilBelow st c x => decide ((s.lane st c).remaining < x)
  | .trimBeyond st x => decide (x < (s.calcs.get st).trim.natAbs)

/-- An accepted arming: the unit is met within the request when its condition already holds (R169 steps 3 to 5). -/
def State.arm (s : State) (p : Port) (c : WatchCondition) (a : ArmRequest) : State :=
  let s1 := s.updWatch a.unit fun u => u.configure p c a
  if s1.holdsNow c then s1.meetWatch a.unit s1.tailSeq else s1

/-- The answer OK with the unit as it stands (R169, R170). -/
def State.watchAnswer (s : State) (w : Idx) : Answer := ⟨.ok, .watch (s.watches.get w)⟩

/-- ARM WATCH (R169). -/
def State.takeArm (p : Port) (a : Option ArmRequest) (s : State) : State × Answer :=
  match a with
  | none => (s, .bare .range)
  | some a =>
    if (s.watches.get a.unit).ownedElsewhere p then (s, .bare .owned)
    else
      match watchCondition s.web.h a.spec with
      | none => (s, .bare .range)
      | some c =>
        match s.armRefusal c with
        | some r => (s, .bare r)
        | none =>
          let t := s.arm p c a
          (t, t.watchAnswer a.unit)

/-! ### Acting on a claimed unit (R170) -/

/-- ENABLE WATCH (R170). -/
def State.takeEnable (p : Port) (ub : Byte) (value : Option Bool) (s : State) : State × Answer :=
  match idxOf ub, value with
  | some w, some v =>
    if (s.watches.get w).owner = none then (s, .bare .state)
    else if (s.watches.get w).ownedElsewhere p then (s, .bare .owned)
    else
      let t := s.updWatch w fun u => { u with enabled := v }
      (t, t.watchAnswer w)
  | _, _ => (s, .bare .range)

/-- CLEAR WATCH HIT (R170). -/
def State.takeClearHit (p : Port) (ub : Byte) (s : State) : State × Answer :=
  match idxOf ub with
  | some w =>
    if (s.watches.get w).owner = none then (s, .bare .state)
    else if (s.watches.get w).ownedElsewhere p then (s, .bare .owned)
    else
      let t := s.updWatch w fun u => { u with hit := false }
      (t, t.watchAnswer w)
  | none => (s, .bare .range)

/-- RELEASE WATCH: the Line Port may release any unit, and a unit without an owner is left as it is (R170). -/
def State.takeRelease (p : Port) (ub : Byte) (s : State) : State × Answer :=
  match idxOf ub with
  | some w =>
    if (s.watches.get w).owner = none then (s, s.watchAnswer w)
    else if p ≠ .line ∧ (s.watches.get w).ownedElsewhere p then (s, .bare .owned)
    else
      let t := s.updWatch w fun _ => .reset
      (t, t.watchAnswer w)
  | none => (s, .bare .range)

/-! ### AT_POSITION (R172) -/

/-- The position an armed AT_POSITION unit waits for (R169 step 3, R172). -/
def Watch.awaitedPosition (u : Watch) : Option Pos :=
  match u.armed, u.condition with
  | true, some (.atPosition x) => some x
  | _, _ => none

/-- The positional event of an AT_POSITION unit is scheduled and H has reached it (R6, R172). -/
def State.watchDue (s : State) (w : Idx) : Bool :=
  match (s.watches.get w).awaitedPosition with
  | some x => reached s.web.h x
  | none => false

/-! ### The commands -/

/-- POSITION_WATCH (R172): the unit is met when its event is scheduled and H has reached it. -/
def execPositionWatch (w : Idx) (s : State) : Outcome State :=
  .next (if s.watchDue w then s.meetWatch w s.tailSeq else s)

/-- ARM_WATCH (R169). -/
def execArmWatch (hdr : ReqHdr) (ub : Byte) (spec : WatchSpec) (action : Option WatchAction) (scope : Option WatchScope)
    (enabled : Option Bool) (s : State) : Outcome State :=
  .next (s.serve hdr (.armWatch · ub spec action scope enabled) 23
    (State.takeArm hdr.port (armRequest ub spec action scope enabled)))

/-- ENABLE_WATCH (R170). -/
def execEnableWatch (hdr : ReqHdr) (ub : Byte) (value : Option Bool) (s : State) : Outcome State :=
  .next (s.serve hdr (.enableWatch · ub value) 24 (State.takeEnable hdr.port ub value))

/-- CLEAR_WATCH_HIT (R170). -/
def execClearWatchHit (hdr : ReqHdr) (ub : Byte) (s : State) : Outcome State :=
  .next (s.serve hdr (.clearWatchHit · ub) 25 (State.takeClearHit hdr.port ub))

/-- RELEASE_WATCH (R170). -/
def execReleaseWatch (hdr : ReqHdr) (ub : Byte) (s : State) : Outcome State :=
  .next (s.serve hdr (.releaseWatch · ub) 26 (State.takeRelease hdr.port ub))

end Sys2Proof.Machine
end

