-- ==== Sys2Proof/Machine/Events.lean ====
section
/-! DEFINITION. Handing positional events over (R5, R6): the next event that H has reached and its owner has not yet taken, as the
command of the table that takes it, and the encoder step, before which every such event is taken. -/

namespace Sys2Proof.Machine

/-- A positional event of R6, with the item of its owner that schedules it. -/
inductive PositionalEvent where
  | windowClose
  | searchSynthesis
  | spliceZoneEnd (x : Pos)
  | reportDeadline (s : Idx) (seq : SeqNo)
  | commit (s : Idx) (seq : SeqNo)
  | retire
  | positionWatch (w : Idx)
deriving DecidableEq, Repr

/-- The row of the table that takes an event. -/
def PositionalEvent.command : PositionalEvent → Instr
  | .windowClose => .windowClose
  | .searchSynthesis => .searchSynthesis
  | .spliceZoneEnd x => .spliceZoneEnd x
  | .reportDeadline st q => .reportDeadline st q
  | .commit st q => .commit st q
  | .retire => .retire
  | .positionWatch w => .positionWatch w

/-- An event taken by its owner: the meaning of its row. -/
def PositionalEvent.taken : PositionalEvent → State → Outcome State
  | .windowClose => execWindowClose
  | .searchSynthesis => execSearchSynthesis
  | .spliceZoneEnd x => execSpliceZoneEnd x
  | .reportDeadline st q => execReportDeadline st q
  | .commit st q => execCommit st q
  | .retire => execRetire
  | .positionWatch w => execPositionWatch w

/-- The reader's event, where H has reached it (R10). -/
def State.readerEventDue (s : State) : Option PositionalEvent :=
  match s.reader.event with
  | some (.windowClose x) => if reached s.web.h x then some .windowClose else none
  | some (.synthesis x) => if reached s.web.h x then some .searchSynthesis else none
  | none => none

/-- The nearest splice zone end that H has reached (R128, R132). -/
def State.zoneEndDue (s : State) : Option PositionalEvent :=
  (s.splices.find? fun x => reached s.web.h x.stop).map fun x => .spliceZoneEnd x.stop

/-- The event whose turn it is at a station: deadlines before commits, each in track order (R62). -/
def State.stationEventDue (s : State) (st : Idx) : Option PositionalEvent :=
  match s.deadlineTurn st with
  | some r => some (.reportDeadline st r.seq)
  | none => (s.commitTurn st).map fun r => .commit st r.seq

/-- The head's retirement, where H has reached its Z (R30). -/
def State.retireEventDue (s : State) : Option PositionalEvent := if s.retireDue then some .retire else none

/-- The next positional event that H has reached and that its owner has not taken. Owners have no order among them (R6); the model
asks the reader, the Splice List, the stations from S0 to S3, the track and the watch units 0 to 3: DESIGN CHOICE (unsafe, log
entry 3). -/
def State.eventDue (s : State) : Option PositionalEvent :=
  s.readerEventDue <|> s.zoneEndDue <|> Idx.all.findSome? s.stationEventDue <|> s.retireEventDue <|>
    (Idx.all.find? fun w => s.watchDue w).map .positionWatch

/-- The state after an event has been taken. -/
def PositionalEvent.after (e : PositionalEvent) (s : State) : State :=
  match e.taken s with
  | .next t => t
  | .fault _ | .refused _ => s

/-- How many events one step of H can reach: one of the reader, 4 zone ends, 48 commits and 2 deadlines for each of the four
stations, the track's run, 4 watch units, and room for the records a window close makes. -/
def handOverFuel : Nat := 512

def handOverLoop : Nat → State → State
  | 0, s => s
  | n + 1, s =>
    match s.eventDue with
    | some e => handOverLoop n (e.after s)
    | none => s

/-- Every event that H has reached is taken by its owner (R5, R6). -/
def State.handOver (s : State) : State := handOverLoop handOverFuel s

/-! ### The command -/

/-- ENCODER_STEP (R4 to R7). A step that is counted finds no event of an earlier step still waiting: what H reached then and no
command has taken since is taken first, so that each event is taken at the H that reached it (R6; log entry 3). -/
def execEncoderStep (ch : EncoderChange) (s : State) : Outcome State :=
  match ch with
  | .forward =>
    let t := s.handOver
    .next { t with web := t.web.moved (t.web.w + 1) }
  | .backward =>
    let t := s.handOver
    .next ({ t with web := t.web.moved (t.web.w - 1) } : State).reversalTest
  | .bothPhases => .next s

end Sys2Proof.Machine
end

