-- ==== Sys2Proof/Machine/Jobs.lean ====
section
/-! DEFINITION. The Job Store (chapter 11): BEGIN JOB (R179), JOB ITEM (R180), CHECK JOB (R181, R182), SWITCH JOB (R183) and
WRITE LINE SETTINGS (R185). -/

namespace Sys2Proof.Machine

/-! ### Slots and records -/

def State.updSlot (s : State) (j : Slot) (f : JobSlot → JobSlot) : State := { s with slots := s.slots.upd j f }

/-- The slot's record, changed. -/
def State.updJob (s : State) (j : Slot) (f : JobRecord → JobRecord) : State :=
  s.updSlot j fun sl => { sl with job := sl.job.map f }

/-- A descriptor with its four flags reset and its code kept (R88). -/
def Descriptor.cleared (d : Descriptor) : Descriptor := { d with struck := false, attn := false, stage := .vacant }

def StationEntry.clearLanes (e : StationEntry) : StationEntry :=
  { e with lanes := e.lanes.map fun ls => .tab fun c => (ls.get c).cleared }

/-- Every descriptor of a record with its four flags reset (R88, R179). -/
def JobRecord.clearLanes (r : JobRecord) : JobRecord :=
  { r with stations := .tab fun st => (r.stations.get st).map StationEntry.clearLanes }

/-! ### BEGIN JOB (R179) -/

/-- The record a slot is begun with (R179). -/
def State.beginRecord (s : State) (j : Slot) : JobSource → JobRecord
  | .blank => .blank
  | .keep => (s.slots.get j).job.getD .blank
  | .copy => (s.slots.get j.other).job.getD .blank

/-- A slot becomes LOADING (R179). -/
def State.beginSlot (s : State) (j : Slot) (src : JobSource) : State :=
  s.updSlot j fun sl =>
    { sl with state := .loading, failing := none, retireDist := none, job := some (s.beginRecord j src).clearLanes }

/-- BEGIN JOB (R179). -/
def State.takeBeginJob (jb : Byte) (src : Option JobSource) (s : State) : State × Answer :=
  match slotOf jb, src with
  | some j, some src =>
    match (s.slots.get j).state with
    | .active | .retiring | .loading => (s, .bare .inUse)
    | .empty | .ready | .invalid =>
      if src = .copy ∧ ((s.slots.get j.other).state = .empty ∨ (s.slots.get j.other).state = .loading) then
        (s, .bare .state)
      else (s.beginSlot j src, .bare .ok)
  | _, _ => (s, .bare .range)

/-! ### JOB ITEM (R180) -/

/-- A global parameter takes its value; `none` for a parameter or value kind not listed (R180). -/
def JobGlobals.put (g : JobGlobals) : GlobalItem → Option JobGlobals
  | .pitch v => some { g with pitch := some v.toNat }
  | .window v => some { g with window := some v.toNat }
  | .lockN v => some { g with lockN := v.toNat }
  | .coastMax v => some { g with coastMax := v.toNat }
  | .stretchSmooth v => some { g with stretchSmooth := v.toNat }
  | .strikeMinSpeed v => some { g with strikeMinSpeed := v.toNat }
  | .columnsUsed v => some { g with columns := some v }
  | .splBefore v => some { g with splBefore := v.toNat }
  | .splAfter v => some { g with splAfter := v.toNat }
  | .unknownFeed b => some { g with unknownFeed := b }
  | .coastPolicy b => some { g with coastPredict := b }
  | .unlisted => none

/-- A zone of a newly created station entry (R180). -/
def ZoneParams.blank : ZoneParams := { enabled := false, setpoint := 0, band := 1, reqOffset := 1, mode := .level }

/-- A descriptor of a newly created foil station (R180). -/
def Descriptor.blank : Descriptor :=
  { code := .off, lf := 0, gf := 200, struck := false, attn := false, stage := .vacant }

/-- The descriptors of a station after a STATION item, from those it had (R180). -/
def lanesFor (t : StationType) (old : Option StationEntry) : Option (Four Descriptor) :=
  if isFoil t then
    match old.bind (·.lanes) with
    | some ls => some ls
    | none => some (.all .blank)
  else none

/-- The entry a STATION item writes, zones and descriptors following the entry there was (R180). -/
def stationEntry (old : Option StationEntry) (t : StationType) (lift : Bool) (i : StationItem) : StationEntry :=
  { type := t, d := i.d.toNat, a := i.a.toNat, lead := i.lead.toNat, reportSpan := i.reportSpan.toNat,
    stepMax := i.stepMax.toNat, tol := i.tol.toNat, trimLim := i.trimLim.toNat, gain := i.gain.toNat,
    slew := i.slew.toNat, liftOnReject := lift
    zones := match old with
      | some e => e.zones
      | none => .all .blank
    lanes := lanesFor t old }

/-- The station of a slot's record takes an entry, or becomes OFF. -/
def State.putStation (s : State) (j : Slot) (st : Idx) (e : Option StationEntry) : State :=
  s.updJob j fun r => { r with stations := r.stations.set st e }

/-- The slot is LOADING (R180). -/
def State.loading (s : State) (j : Slot) : Bool := decide ((s.slots.get j).state = .loading)

/-- JOB ITEM in the form GLOBAL (R180). -/
def State.takeItemGlobal (jb : Byte) (item : GlobalItem) (s : State) : State × Answer :=
  match slotOf jb with
  | none => (s, .bare .range)
  | some j =>
    match (s.globals j).put item with
    | none => (s, .bare .range)
    | some g =>
      if s.loading j then (s.updJob j fun r => { r with globals := g }, ⟨.ok, .stored (.global item)⟩)
      else (s, .bare .state)

/-- JOB ITEM in the form STATION (R180). -/
def State.takeItemStation (jb sb : Byte) (item : StationItem) (s : State) : State × Answer :=
  match slotOf jb, idxOf sb, item.type, item.liftOnReject with
  | some j, some st, some t, some l =>
    if s.loading j then
      (s.putStation j st (some (stationEntry (s.entry j st) t l item)), ⟨.ok, .stored (.station st item)⟩)
    else (s, .bare .state)
  | _, _, _, _ => (s, .bare .range)

/-- JOB ITEM in the form ZONE (R180). -/
def State.takeItemZone (jb sb zb : Byte) (item : ZoneItem) (s : State) : State × Answer :=
  match slotOf jb, pairOf sb zb, item.enabled, item.mode with
  | some j, some (st, z), some en, some m =>
    if s.loading j then
      match s.entry j st with
      | some e =>
        let p : ZoneParams :=
          { enabled := en, setpoint := item.setpoint.toNat, band := item.band.toNat, reqOffset := item.reqOffset.toNat,
            mode := m }
        (s.putStation j st (some { e with zones := e.zones.set z p }), ⟨.ok, .stored (.zone st z item)⟩)
      | none => (s, .bare .state)
    else (s, .bare .state)
  | _, _, _, _ => (s, .bare .range)

/-- JOB ITEM in the form LANE (R88, R180). -/
def State.takeItemLane (jb sb cb : Byte) (code : Option LaneCode) (lf gf : BitVec 16) (s : State) : State × Answer :=
  match slotOf jb, pairOf sb cb, code with
  | some j, some (st, c), some k =>
    if s.loading j then
      match s.entry j st with
      | some e =>
        match e.lanes with
        | some ls =>
          let d : Descriptor :=
            { code := k, lf := lf.toNat, gf := gf.toNat, struck := false, attn := false, stage := .vacant }
          (s.putStation j st (some { e with lanes := some (ls.set c d) }), ⟨.ok, .stored (.lane st c k lf gf)⟩)
        | none => (s, .bare .state)
      | none => (s, .bare .state)
    else (s, .bare .state)
  | _, _, _ => (s, .bare .range)

/-- JOB ITEM in the form REMOVE STATION (R180). -/
def State.takeItemRemove (jb sb : Byte) (s : State) : State × Answer :=
  match slotOf jb, idxOf sb with
  | some j, some st =>
    if s.loading j then (s.putStation j st none, ⟨.ok, .stored (.removed st)⟩) else (s, .bare .state)
  | _, _ => (s, .bare .range)

/-! ### CHECK JOB (R181, R182) -/

def within (lo hi n : Nat) : Bool := decide (lo ≤ n ∧ n ≤ hi)

/-- An optional value that must be there and lie in a range. -/
def presentWithin (lo hi : Nat) (o : Option Nat) : Bool :=
  match o with
  | some n => within lo hi n
  | none => false

/-- The global parameters in the order of R180, each with whether it is there and in its range. UNKNOWN_FEED and COAST_POLICY
hold no value outside theirs. -/
def JobGlobals.judged (g : JobGlobals) : List (GlobalName × Bool) :=
  [(.pitch, presentWithin 8000 65535 g.pitch), (.window, presentWithin 50 4000 g.window), (.lockN, within 1 8 g.lockN),
   (.coastMax, within 0 8 g.coastMax), (.stretchSmooth, within 0 6 g.stretchSmooth),
   (.strikeMinSpeed, within 0 1000 g.strikeMinSpeed),
   (.columnsUsed, match g.columns with
      | some u => u.any id
      | none => false),
   (.splBefore, within 0 65535 g.splBefore), (.splAfter, within 0 65535 g.splAfter)]

/-- A station's own items lie in their ranges, A judged against 0..65,534 (R180, R181). -/
def StationEntry.inRange (e : StationEntry) : Bool :=
  within 1 3000000 e.d && within 0 65534 e.a && within 2000 200000 e.lead && within 500 65535 e.reportSpan &&
    within 1 2000 e.stepMax && within 1 500 e.tol && within 0 2000 e.trimLim && within 0 16 e.gain && within 1 255 e.slew

def ZoneParams.inRange (z : ZoneParams) : Bool :=
  within 0 2500 z.setpoint && within 1 100 z.band && within 1 200 z.reqOffset

def Descriptor.inRange (d : Descriptor) : Bool := within 0 65535 d.lf && within 200 65535 d.gf

/-- The items of a present station in the order of R181, each with whether it is in its range. -/
def StationEntry.judged (e : StationEntry) (st : Idx) : List (CheckItem × Bool) :=
  (.station st, e.inRange) :: (Idx.all.map fun z => (.zone st z, (e.zones.get z).inRange)) ++
    match e.lanes with
    | some ls => Idx.all.map fun c => (.lane st c, (ls.get c).inRange)
    | none => []

/-- The first item of a list that does not hold. -/
def firstBad (l : List (CheckItem × Bool)) : Option CheckItem := (l.find? fun x => !x.2).map (·.1)

/-- The present stations of a record, S0 to S3. -/
def JobRecord.present (r : JobRecord) : List (Idx × StationEntry) :=
  Idx.all.filterMap fun st => (r.stations.get st).map fun e => (st, e)

/-- Check 1, RANGES (R181). -/
def JobRecord.badRange (r : JobRecord) : Option CheckItem :=
  firstBad ((r.globals.judged.map fun x => (CheckItem.parameter x.1, x.2)) ++ r.present.flatMap fun x => x.2.judged x.1)

/-- The first present station that a condition finds wrong. -/
def JobRecord.badStation (r : JobRecord) (bad : StationEntry → Bool) : Option CheckItem :=
  (r.present.find? fun x => bad x.2).map fun x => .station x.1

/-- Check 2, WINDOW: 4 x W_win > P (R181). The item concerned is a free value between the two parameters (log entry 18). -/
def JobRecord.badWindow (r : JobRecord) : Option CheckItem :=
  if r.globals.p < 4 * r.globals.wWin then
    some (.parameter (if Config.windowNamesPitch r then .pitch else .window))
  else none

/-- Check 3, ANCHOR: A ≥ P (R181). -/
def JobRecord.badAnchor (r : JobRecord) : Option CheckItem := r.badStation fun e => decide (r.globals.p ≤ e.a)

/-- Check 4, LEAD: LEAD ≤ TRIM_LIM + 1,000, or LEAD ≥ D (R181). -/
def JobRecord.badLead (r : JobRecord) : Option CheckItem :=
  r.badStation fun e => decide (e.lead ≤ e.trimLim + 1000 ∨ e.d ≤ e.lead)

/-- Check 5, FEED: a descriptor in a used column with code other than OFF and F > P (R181). -/
def JobRecord.badFeed (r : JobRecord) : Option CheckItem :=
  firstBad (r.present.flatMap fun x =>
    match x.2.lanes with
    | some ls => Idx.all.map fun c =>
        (.lane x.1 c, !(r.globals.uses c && decide ((ls.get c).code ≠ .off ∧ r.globals.p < (ls.get c).feed)))
    | none => [])

/-- Check 6, NO_STATION (R181). -/
def JobRecord.badEmpty (r : JobRecord) : Option CheckItem :=
  if r.present = [] then some (Config.recordItem .noStation r) else none

/-- RETIRE_DIST: the greatest D + A + TRIM_LIM + REPORT_SPAN over the present stations, plus 1 (R182). -/
def JobRecord.retireDist (r : JobRecord) : Nat :=
  (r.present.map fun x => x.2.d + x.2.a + x.2.trimLim + x.2.reportSpan).foldl max 0 + 1

/-- The depth of check 7: floor(RETIRE_DIST / (P - W_win)) + 2 (R181). -/
def JobRecord.depth (r : JobRecord) : Nat := r.retireDist / (r.globals.p - r.globals.wWin) + 2

/-- Check 7, TOO_DEEP (R181). -/
def JobRecord.badDepth (r : JobRecord) : Option CheckItem :=
  if Config.trackCapacity < r.depth then some (Config.recordItem .tooDeep r) else none

/-- The first check that fails, in order (R181). -/
def JobRecord.firstFailing (r : JobRecord) : Option FailingCheck :=
  match r.badRange, r.badWindow, r.badAnchor, r.badLead, r.badFeed, r.badEmpty, r.badDepth with
  | some i, _, _, _, _, _, _ => some ⟨.ranges, i⟩
  | none, some i, _, _, _, _, _ => some ⟨.window, i⟩
  | none, none, some i, _, _, _, _ => some ⟨.anchor, i⟩
  | none, none, none, some i, _, _, _ => some ⟨.lead, i⟩
  | none, none, none, none, some i, _, _ => some ⟨.feed, i⟩
  | none, none, none, none, none, some i, _ => some ⟨.noStation, i⟩
  | none, none, none, none, none, none, some i => some ⟨.tooDeep, i⟩
  | none, none, none, none, none, none, none => none

/-- The slot's record, the blank one where it holds none; a LOADING slot holds one (R177). -/
def State.jobOf (s : State) (j : Slot) : JobRecord := (s.slots.get j).job.getD .blank

/-- CHECK JOB (R181, R182). -/
def State.takeCheckJob (jb : Byte) (s : State) : State × Answer :=
  match slotOf jb with
  | none => (s, .bare .range)
  | some j =>
    if s.loading j then
      match (s.jobOf j).firstFailing with
      | some f => (s.updSlot j fun sl => { sl with state := .invalid, failing := some f }, ⟨.invalid, .checkFailed f⟩)
      | none =>
        let n := (s.jobOf j).retireDist
        (s.updSlot j fun sl => { sl with state := .ready, retireDist := some n }, ⟨.ok, .checkPassed n (s.jobOf j).depth⟩)
    else (s, .bare .state)

/-! ### SWITCH JOB (R183) -/

/-- The slot that was ACTIVE becomes RETIRING, or READY at once when no record references it (R183 step 1). -/
def JobSlot.retired (sl : JobSlot) : JobSlot :=
  if sl.state = .active then { sl with state := if sl.refs = 0 then .ready else .retiring } else sl

/-- Steps 1 and 2 of R183: slot states, and the descriptors of the new slot reset. -/
def State.activate (s : State) (j : Slot) : State :=
  (s.updSlot j.other JobSlot.retired).updSlot j fun sl =>
    { sl with state := .active, job := sl.job.map JobRecord.clearLanes }

/-- The enabled flag of every JOB-scope watch unit is cleared (R183 step 3, R176). -/
def State.disableJobWatches (s : State) : State :=
  { s with watches := .tab fun w =>
      let u := s.watches.get w
      if u.scope = some .job then { u with enabled := false } else u }

/-- Each station's trim is clamped to the slot now ACTIVE (R57, R183 step 4). -/
def State.clampTrims (s : State) : State :=
  Idx.all.foldl (fun s st => s.setTrim st (clampAbs (s.trimLimit st) (s.calcs.get st).trim)) s

/-- The reader withdraws its event: ACQUIRE in RUN and HOLD, IDLE in STOPPED (R22, R183 step 5). -/
def State.restartReader (s : State) : State :=
  { s with reader := .cleared (if s.line = .stopped then .idle else .acquire) }

/-- An accepted switch (R183). -/
def State.switchTo (s : State) (j : Slot) : State :=
  ((s.activate j).disableJobWatches.clampTrims.restartReader.heatSwitch).offer .jobSwitched

/-- SWITCH JOB (R183). -/
def State.takeSwitchJob (jb : Byte) (s : State) : State × Answer :=
  match slotOf jb with
  | none => (s, .bare .range)
  | some j =>
    if (s.slots.get j).state = .ready then
      let t := s.switchTo j
      (t, ⟨.ok, .slotStates t.slotStates⟩)
    else (s, .bare .state)

/-! ### WRITE LINE SETTINGS (R185) -/

/-- The setting an item names, by its place in the table of R185, the low thresholds by lane behind the others. -/
def settingKey : SettingItem → Option Nat
  | .nSlot _ => some 0
  | .minHold _ => some 1
  | .maxHold _ => some 2
  | .arbMode _ => some 3
  | .overLimit _ => some 4
  | .spliceDist _ => some 5
  | .reverseLimit _ => some 6
  | .lowThreshold sb cb _ => (pairOf sb cb).map fun p => 7 + laneIndex p.1 p.2
  | .unlisted => none

/-- A setting's value lies in its range (R185). -/
def settingInRange : SettingItem → Bool
  | .nSlot v => within 1 8 v.toNat
  | .minHold v => within 50 5000 v.toNat
  | .maxHold v => within 100 30000 v.toNat
  | .arbMode _ => true
  | .overLimit v => within 50 500 v.toNat
  | .spliceDist v => within 0 2000000 v.toNat
  | .reverseLimit v => within 1000 500000 v.toNat
  | .lowThreshold _ _ _ => true
  | .unlisted => false

/-- A setting takes its value (R185). -/
def LineSettings.put (l : LineSettings) : SettingItem → LineSettings
  | .nSlot v => { l with nSlot := v.toNat }
  | .minHold v => { l with minHold := v.toNat }
  | .maxHold v => { l with maxHold := v.toNat }
  | .arbMode v => { l with arbMode := v }
  | .overLimit v => { l with overLimit := v.toNat }
  | .spliceDist v => { l with spliceDist := v.toNat }
  | .reverseLimit v => { l with reverseLimit := v.toNat }
  | .lowThreshold sb cb v =>
    match pairOf sb cb with
    | some (st, c) => { l with low := l.low.upd st fun row => row.set c v.toNat }
    | none => l
  | .unlisted => l

/-- Names, lanes and ranges are good and no setting is named twice (R185). -/
def settingsGood (items : List SettingItem) : Bool :=
  items.all (fun i => (settingKey i).isSome && settingInRange i) && decide ((items.map settingKey).Nodup)

/-- WRITE LINE SETTINGS (R120, R185). A form byte that names no setting is judged in R185's order, as the name of no setting: outside
STOPPED the answer is STATE, before the RANGE that R195 gives such a request. DESIGN CHOICE (unsafe, log entry 47). -/
def State.takeWriteSettings (items : List SettingItem) (s : State) : State × Answer :=
  if s.line ≠ .stopped then (s, .bare .state)
  else if settingsGood items then
    let l := items.foldl LineSettings.put s.settings
    (({ s with settings := l } : State).heatSettings, ⟨.ok, .settings l⟩)
  else (s, .bare .range)

/-! ### The commands -/

/-- BEGIN_JOB (R179). -/
def execBeginJob (hdr : ReqHdr) (jb : Byte) (src : Option JobSource) (s : State) : Outcome State :=
  .next (s.serve hdr (.beginJob · jb src) 14 (lineOnly hdr (State.takeBeginJob jb src)))

/-- JOB_ITEM_GLOBAL (R180). -/
def execJobItemGlobal (hdr : ReqHdr) (jb : Byte) (item : GlobalItem) (s : State) : Outcome State :=
  .next (s.serve hdr (.jobItemGlobal · jb item) 15 (lineOnly hdr (State.takeItemGlobal jb item)))

/-- JOB_ITEM_STATION (R180). -/
def execJobItemStation (hdr : ReqHdr) (jb sb : Byte) (item : StationItem) (s : State) : Outcome State :=
  .next (s.serve hdr (.jobItemStation · jb sb item) 15 (lineOnly hdr (State.takeItemStation jb sb item)))

/-- JOB_ITEM_ZONE (R180). -/
def execJobItemZone (hdr : ReqHdr) (jb sb zb : Byte) (item : ZoneItem) (s : State) : Outcome State :=
  .next (s.serve hdr (.jobItemZone · jb sb zb item) 15 (lineOnly hdr (State.takeItemZone jb sb zb item)))

/-- JOB_ITEM_LANE (R180). -/
def execJobItemLane (hdr : ReqHdr) (jb sb cb : Byte) (code : Option LaneCode) (lf gf : BitVec 16) (s : State) :
    Outcome State :=
  .next (s.serve hdr (.jobItemLane · jb sb cb code lf gf) 15 (lineOnly hdr (State.takeItemLane jb sb cb code lf gf)))

/-- JOB_ITEM_REMOVE_STATION (R180). -/
def execJobItemRemoveStation (hdr : ReqHdr) (jb sb : Byte) (s : State) : Outcome State :=
  .next (s.serve hdr (.jobItemRemoveStation · jb sb) 15 (lineOnly hdr (State.takeItemRemove jb sb)))

/-- CHECK_JOB (R181). -/
def execCheckJob (hdr : ReqHdr) (jb : Byte) (s : State) : Outcome State :=
  .next (s.serve hdr (.checkJob · jb) 16 (lineOnly hdr (State.takeCheckJob jb)))

/-- SWITCH_JOB (R183). -/
def execSwitchJob (hdr : ReqHdr) (jb : Byte) (s : State) : Outcome State :=
  .next (s.serve hdr (.switchJob · jb) 17 (lineOnly hdr (State.takeSwitchJob jb)))

/-- WRITE_LINE_SETTINGS (R185). -/
def execWriteLineSettings (hdr : ReqHdr) (items : List SettingItem) (s : State) : Outcome State :=
  .next (s.serve hdr (.writeLineSettings · items) 18 (lineOnly hdr (State.takeWriteSettings items)))

end Sys2Proof.Machine
end

