-- ==== Sys2Proof/Machine/Ports.lean ====
section
/-! DEFINITION. The Port Controllers and the Station Link Controllers (chapter 12), the reads (R33, R86, R102, R161, R168, R190),
the notices and routing of a port (R164, R166) and the requests on the Outcome List (R39, R40). -/

namespace Sys2Proof.Machine

/-! ### What the reads return (R190) -/

/-- The records of the track from a seq toward the tail, up to 8 (R33). -/
def State.trackFrom (s : State) (q : SeqNo) : List TrackRecord :=
  (s.track.dropWhile fun r => decide (r.seq ≠ q)).take Config.readBatch

/-- An order in flight as READ STATION shows it: its seq and its record's status at the station (R190). -/
def State.inFlightView (s : State) (st : Idx) : List (SeqNo × Status) :=
  (s.seqr.get st).inFlight.filterMap fun e => (s.record e.seq).map fun r => (e.seq, (r.st.get st).status)

/-- READ STATION (R190). -/
def State.stationView (s : State) (st : Idx) : StationView :=
  let q := s.seqr.get st
  let c := s.calcs.get st
  { tripped := q.tripped, inFlight := s.inFlightView st, awaited := q.awaited, abortSet := q.abortSet, overdue := q.overdue,
    trim := c.trim, phased := c.phased, last := c.last, context := q.context, params := .tab fun j => s.entry j st }

/-- A descriptor as READ LANE shows it (R86). -/
def Descriptor.view (d : Descriptor) : DescriptorView :=
  { code := d.code, feed := d.feed, struck := d.struck, attn := d.attn, stage := d.stage }

/-- READ LANE (R86). -/
def State.laneView (s : State) (st c : Idx) : LaneView :=
  let l := s.lane st c
  { state := l.state, remaining := l.remaining, reserved := l.reserved, low := (s.settings.low.get st).get c,
    descriptors := .tab fun j => (s.descriptor j st c).map Descriptor.view }

/-- The rank of a zone in the priority order, from 1 (R104). -/
def State.rank (s : State) (st z : Idx) : Nat := s.heat.order.idxOf (st, z) + 1

/-- READ ZONE (R102); what "every item above" takes in is log entry 55. -/
def State.zoneView (s : State) (st z : Idx) : ZoneView :=
  { zone := s.zone st z, stale := s.heat.stale.get st, onSet := s.heat.onSet.get st, rank := s.rank st z
    params := s.zoneParams st z, hot := s.hot st }

/-- A slot as READ LINE shows it (R190). -/
def JobSlot.view (sl : JobSlot) : SlotView :=
  { state := sl.state, globals := sl.job.map (·.globals), refs := sl.refs, failing := sl.failing, retireDist := sl.retireDist }

/-- A hold context's entries as READ LINE shows them (R190). -/
def HoldContext.summary (c : HoldContext) : List ContextSummary :=
  c.entries.map fun e => { seq := e.seq, outcome := e.outcome, action := e.action }

/-- READ LINE (R190). -/
def State.lineView (s : State) : LineView :=
  { w := s.web.w, h := s.web.h, v := s.web.v, reverse := s.web.reverse, reader := s.reader.state
    lastMark := s.reader.last.map (·.mark), pred := s.reader.last.map (·.pred), lock := s.reader.lock, coast := s.reader.coast
    e := s.reader.e, count := s.track.length, headSeq := s.track.head?.map (·.seq), tailSeq := s.tailSeq, nextSeq := s.nextSeq
    line := s.line, estop := s.estop, contexts := .tab fun st => (s.seqr.get st).context.map HoldContext.summary
    slots := ⟨s.slots.s0.view, s.slots.s1.view⟩, splices := s.splices, inService := s.served.length
    units := .tab fun st => (s.units.get st).flags, lineUnit := s.lineUnit.flags, stop := s.stopReq, settings := s.settings }

/-! ### The reads (R33, R190) -/

/-- READ TRACK (R33). -/
def State.lookTrack (q : SeqNo) (s : State) : Answer :=
  match s.record q with
  | some _ => ⟨.ok, .track (s.trackFrom q)⟩
  | none => .bare .noRepeat

/-- READ STATION (R190). -/
def State.lookStation (sb : Byte) (s : State) : Answer :=
  match idxOf sb with
  | some st => ⟨.ok, .station (s.stationView st)⟩
  | none => .bare .range

/-- READ LANE (R86). -/
def State.lookLane (sb cb : Byte) (s : State) : Answer :=
  match pairOf sb cb with
  | some (st, c) => ⟨.ok, .lane (s.laneView st c)⟩
  | none => .bare .range

/-- READ ZONE (R102). -/
def State.lookZone (sb zb : Byte) (s : State) : Answer :=
  match pairOf sb zb with
  | some (st, z) => ⟨.ok, .zone (s.zoneView st z)⟩
  | none => .bare .range

/-- READ LINE (R190). -/
def State.lookLine (s : State) : Answer := ⟨.ok, .lineView s.lineView⟩

/-- READ FAULT RECORD (R161). -/
def State.lookFault (ub : Byte) (s : State) : Answer :=
  match unitOf ub with
  | some u => ⟨.ok, .faultUnit (s.unit u)⟩
  | none => .bare .range

/-- READ WATCH (R168). -/
def State.lookWatch (ub : Byte) (s : State) : Answer :=
  match idxOf ub with
  | some w => ⟨.ok, .watch (s.watches.get w)⟩
  | none => .bare .range

/-! ### Notices and routing (R164, R166) -/

/-- TAKE NOTICES: every pair of the port's set, which is emptied (R166). -/
def State.takeNotices (p : Port) (s : State) : State × Answer :=
  (s.updPort p fun ps => { ps with pending := [] }, ⟨.ok, .notices (s.ports.get p).pending⟩)

/-- The place of a kind in the table of R163. -/
def NoticeKind.place : NoticeKind → Nat
  | .unitSoft => 0
  | .unitHard => 1
  | .unitTrip => 2
  | .firstOffStruck => 3
  | .laneAttn => 4
  | .foilLow => 5
  | .foilOut => 6
  | .watchHit => 7
  | .outcomeReady => 8
  | .holdEntered => 9
  | .stopAsserted => 10
  | .jobSwitched => 11

/-- SET ROUTING (R164). A set is one bit for each kind (R195), and a bit beyond the twelfth names no kind. -/
def State.takeSetRouting (p : Port) (kinds : BitVec 16) (cls : Option RouteClass) (s : State) : State × Answer :=
  match cls with
  | some c =>
    if kinds.toNat < 2 ^ 12 then
      let r := (s.ports.get p).routing.assign (fun k => kinds.getLsbD k.place) c
      (s.updPort p fun ps => { ps with routing := r }, ⟨.ok, .routing r⟩)
    else (s, .bare .range)
  | none => (s, .bare .range)

/-! ### Outcome requests (R39, R40) -/

/-- SUBSCRIBE OUTCOMES (R39). -/
def State.takeSubscribe (p : Port) (s : State) : State × Answer :=
  ({ s with outcomes := s.outcomes.subscribe p }, .bare .ok)

/-- TAKE OUTCOMES (R40). -/
def State.takeOutcomes (p : Port) (s : State) : State × Answer :=
  match s.outcomes.cursors.get p with
  | some c => ({ s with outcomes := s.outcomes.take p c }, ⟨.ok, .outcomes (s.outcomes.batch c)⟩)
  | none => (s, .bare .state)

/-! ### Frames and carriers of the ports (R187, R188, R191) -/

/-- The carrier of a port's link is lost (R191). The frame that is being transmitted is discarded with those that wait behind it: DESIGN
CHOICE (unsafe, log entry 46), since R191 names the waiting ones alone, and only R192, of the station links, names the other. -/
def PortState.lose (p : PortState) : PortState :=
  if p.carrier then { p with carrier := false, inService := none, pending := [], tx := [] } else p

/-- A request frame that finds another request in service is answered BUSY with its tag and discarded (R188). -/
def State.busyAnswer (s : State) (p : Port) (tag : Tag) (code : Byte) : State :=
  match (s.ports.get p).carrier, (s.ports.get p).inService with
  | true, some _ => s.reply p tag code (.bare .busy)
  | _, _ => s

/-- The code names a request (R195). -/
def namesRequest (code : Byte) : Bool := decide (1 ≤ code.toNat ∧ code.toNat ≤ 37)

/-- A frame whose code names no request is answered RANGE at once; one whose form byte names no form is a request of its code
(R187, R195). The two requests with forms, EDIT HOLD CONTEXT and JOB ITEM, are the Line Port's (R189). -/
def State.unknownRequest (s : State) (hdr : ReqHdr) (code : Byte) : State :=
  if namesRequest code then s.serve hdr (.unknownRequest · code) code (lineOnly hdr fun s => (s, .bare .range))
  else if (s.ports.get hdr.port).carrier = false ∨ hdr.stage = .taken then s
  else s.reply hdr.port hdr.tag code (.bare .range)

/-! ### Carriers and transmitters of the station links (R111, R192) -/

/-- The carrier of a station link returns, and the current on-set is handed over once (R111, R192). -/
def State.stationCarrierReturn (s : State) (st : Idx) : State :=
  if (s.links.get st).carrier then s
  else
    ({ s with heat := { s.heat with onSet := s.heat.onSet.set st (s.onSetOf st) } }).updLink st fun l =>
      ({ l with carrier := true } : Link).hand (.heatOrder (s.onSetOf st))

/-- The transmitter finishes its frame and starts the next one handed to it (R192). -/
def Link.sent (l : Link) : Link := ({ l with sending := none } : Link).pump

/-! ### The commands -/

/-- STATION_CARRIER_RETURN (R192). -/
def execStationCarrierReturn (st : Idx) (s : State) : Outcome State := .next (s.stationCarrierReturn st)

/-- STATION_FRAME_SENT (R192). -/
def execStationFrameSent (st : Idx) (s : State) : Outcome State := .next (s.updLink st Link.sent)

/-- STATION_FRAME_DROPPED (R192): a dropped frame does nothing. -/
def execStationFrameDropped (_ : Idx) (s : State) : Outcome State := .next s

/-- PORT_LINK_LOSS (R191). -/
def execPortLinkLoss (p : Port) (s : State) : Outcome State := .next (s.updPort p PortState.lose)

/-- PORT_CARRIER_RETURN (R191). -/
def execPortCarrierReturn (p : Port) (s : State) : Outcome State := .next (s.updPort p fun ps => { ps with carrier := true })

/-- PORT_FRAME_DROPPED (R187): a dropped frame changes nothing in the part. -/
def execPortFrameDropped (_ : Port) (s : State) : Outcome State := .next s

/-- UNKNOWN_REQUEST (R187). -/
def execUnknownRequest (hdr : ReqHdr) (code : Byte) (s : State) : Outcome State := .next (s.unknownRequest hdr code)

/-- PORT_REPLY_SENT (R188). -/
def execPortReplySent (p : Port) (s : State) : Outcome State := .next (s.updPort p fun ps => { ps with tx := ps.tx.tail })

/-- READ_TRACK (R33). -/
def execReadTrack (hdr : ReqHdr) (q : SeqNo) (s : State) : Outcome State :=
  .next (s.serve hdr (.readTrack · q) 27 (readOnly (State.lookTrack q)))

/-- READ_STATION (R190). -/
def execReadStation (hdr : ReqHdr) (sb : Byte) (s : State) : Outcome State :=
  .next (s.serve hdr (.readStation · sb) 28 (readOnly (State.lookStation sb)))

/-- READ_LANE (R86). -/
def execReadLane (hdr : ReqHdr) (sb cb : Byte) (s : State) : Outcome State :=
  .next (s.serve hdr (.readLane · sb cb) 29 (readOnly (State.lookLane sb cb)))

/-- READ_ZONE (R102). -/
def execReadZone (hdr : ReqHdr) (sb zb : Byte) (s : State) : Outcome State :=
  .next (s.serve hdr (.readZone · sb zb) 30 (readOnly (State.lookZone sb zb)))

/-- READ_LINE (R190). -/
def execReadLine (hdr : ReqHdr) (s : State) : Outcome State := .next (s.serve hdr .readLine 31 (readOnly State.lookLine))

/-- READ_FAULT_RECORD (R161). -/
def execReadFaultRecord (hdr : ReqHdr) (ub : Byte) (s : State) : Outcome State :=
  .next (s.serve hdr (.readFaultRecord · ub) 32 (readOnly (State.lookFault ub)))

/-- READ_WATCH (R168). -/
def execReadWatch (hdr : ReqHdr) (ub : Byte) (s : State) : Outcome State :=
  .next (s.serve hdr (.readWatch · ub) 33 (readOnly (State.lookWatch ub)))

/-- TAKE_NOTICES (R166). -/
def execTakeNotices (hdr : ReqHdr) (s : State) : Outcome State :=
  .next (s.serve hdr .takeNotices 34 (State.takeNotices hdr.port))

/-- SET_ROUTING (R164). -/
def execSetRouting (hdr : ReqHdr) (kinds : BitVec 16) (cls : Option RouteClass) (s : State) : Outcome State :=
  .next (s.serve hdr (.setRouting · kinds cls) 35 (State.takeSetRouting hdr.port kinds cls))

/-- SUBSCRIBE_OUTCOMES (R39). -/
def execSubscribeOutcomes (hdr : ReqHdr) (s : State) : Outcome State :=
  .next (s.serve hdr .subscribeOutcomes 36 (State.takeSubscribe hdr.port))

/-- TAKE_OUTCOMES (R40). -/
def execTakeOutcomes (hdr : ReqHdr) (s : State) : Outcome State :=
  .next (s.serve hdr .takeOutcomes 37 (State.takeOutcomes hdr.port))

/-- BUSY_ANSWER (R188). -/
def execBusyAnswer (p : Port) (tag : Tag) (code : Byte) (s : State) : Outcome State := .next (s.busyAnswer p tag code)

end Sys2Proof.Machine
end

