-- ==== Sys2Proof/Machine/Dispatch.lean ====
section
/-! DEFINITION. One arm for each command: its meaning. -/

namespace Sys2Proof.Machine

def exec (i : Instr) (s : State) : Host.Outcome State Fault Refusal :=
  match i with
  | .powerOn estop => Sys2Proof.Machine.execPowerOn estop s
  | .encoderStep change => Sys2Proof.Machine.execEncoderStep change s
  | .speedIntervalEnd => Sys2Proof.Machine.execSpeedIntervalEnd s
  | .markEdge c reversed => Sys2Proof.Machine.execMarkEdge c reversed s
  | .windowClose => Sys2Proof.Machine.execWindowClose s
  | .searchSynthesis => Sys2Proof.Machine.execSearchSynthesis s
  | .commit st seq => Sys2Proof.Machine.execCommit st seq s
  | .orderAck st seq result => Sys2Proof.Machine.execOrderAck st seq result s
  | .ackTimeout st => Sys2Proof.Machine.execAckTimeout st s
  | .strikeReport st frame => Sys2Proof.Machine.execStrikeReport st frame s
  | .reportDeadline st seq => Sys2Proof.Machine.execReportDeadline st seq s
  | .retire => Sys2Proof.Machine.execRetire s
  | .spliceZoneEnd x => Sys2Proof.Machine.execSpliceZoneEnd x s
  | .positionWatch w => Sys2Proof.Machine.execPositionWatch w s
  | .abortReport st seq found advanced => Sys2Proof.Machine.execAbortReport st seq found advanced s
  | .abortTimeout st => Sys2Proof.Machine.execAbortTimeout st s
  | .stationLinkLoss st => Sys2Proof.Machine.execStationLinkLoss st s
  | .stationCarrierReturn st => Sys2Proof.Machine.execStationCarrierReturn st s
  | .stationFrameSent st => Sys2Proof.Machine.execStationFrameSent st s
  | .stationFrameDropped st => Sys2Proof.Machine.execStationFrameDropped st s
  | .heatReading st values => Sys2Proof.Machine.execHeatReading st values s
  | .millisecondTick => Sys2Proof.Machine.execMillisecondTick s
  | .staleHeat st => Sys2Proof.Machine.execStaleHeat st s
  | .minHoldReached st z => Sys2Proof.Machine.execMinHoldReached st z s
  | .maxHoldExpiry st z => Sys2Proof.Machine.execMaxHoldExpiry st z s
  | .estopAsserted => Sys2Proof.Machine.execEstopAsserted s
  | .estopCleared => Sys2Proof.Machine.execEstopCleared s
  | .portLinkLoss p => Sys2Proof.Machine.execPortLinkLoss p s
  | .portCarrierReturn p => Sys2Proof.Machine.execPortCarrierReturn p s
  | .portFrameDropped p => Sys2Proof.Machine.execPortFrameDropped p s
  | .unknownRequest hdr code => Sys2Proof.Machine.execUnknownRequest hdr code s
  | .portReplySent p => Sys2Proof.Machine.execPortReplySent p s
  | .start hdr => Sys2Proof.Machine.execStart hdr s
  | .hold hdr => Sys2Proof.Machine.execHold hdr s
  | .resume hdr => Sys2Proof.Machine.execResume hdr s
  | .stop hdr => Sys2Proof.Machine.execStop hdr s
  | .lineReset hdr => Sys2Proof.Machine.execLineReset hdr s
  | .stationReset hdr station => Sys2Proof.Machine.execStationReset hdr station s
  | .editHoldContextTrim hdr station trim => Sys2Proof.Machine.execEditHoldContextTrim hdr station trim s
  | .editHoldContextAction hdr station seq action => Sys2Proof.Machine.execEditHoldContextAction hdr station seq action s
  | .clearFlags hdr unit flags => Sys2Proof.Machine.execClearFlags hdr unit flags s
  | .setFlags hdr unit toSet toClear => Sys2Proof.Machine.execSetFlags hdr unit toSet toClear s
  | .clearFaultRecord hdr unit => Sys2Proof.Machine.execClearFaultRecord hdr unit s
  | .setZoneMask hdr station zone value => Sys2Proof.Machine.execSetZoneMask hdr station zone value s
  | .finishZone hdr station zone rotate => Sys2Proof.Machine.execFinishZone hdr station zone rotate s
  | .setLowest hdr station zone => Sys2Proof.Machine.execSetLowest hdr station zone s
  | .beginJob hdr slot source => Sys2Proof.Machine.execBeginJob hdr slot source s
  | .jobItemGlobal hdr slot item => Sys2Proof.Machine.execJobItemGlobal hdr slot item s
  | .jobItemStation hdr slot station item => Sys2Proof.Machine.execJobItemStation hdr slot station item s
  | .jobItemZone hdr slot station zone item => Sys2Proof.Machine.execJobItemZone hdr slot station zone item s
  | .jobItemLane hdr slot station column code lf gf => Sys2Proof.Machine.execJobItemLane hdr slot station column code lf gf s
  | .jobItemRemoveStation hdr slot station => Sys2Proof.Machine.execJobItemRemoveStation hdr slot station s
  | .checkJob hdr slot => Sys2Proof.Machine.execCheckJob hdr slot s
  | .switchJob hdr slot => Sys2Proof.Machine.execSwitchJob hdr slot s
  | .writeLineSettings hdr items => Sys2Proof.Machine.execWriteLineSettings hdr items s
  | .postVerdict hdr seq columns verdict => Sys2Proof.Machine.execPostVerdict hdr seq columns verdict s
  | .approveFirstOff hdr station column => Sys2Proof.Machine.execApproveFirstOff hdr station column s
  | .reportSplice hdr c => Sys2Proof.Machine.execReportSplice hdr c s
  | .reportFoilRoll hdr station column length => Sys2Proof.Machine.execReportFoilRoll hdr station column length s
  | .armWatch hdr unit spec action scope enabled => Sys2Proof.Machine.execArmWatch hdr unit spec action scope enabled s
  | .enableWatch hdr unit value => Sys2Proof.Machine.execEnableWatch hdr unit value s
  | .clearWatchHit hdr unit => Sys2Proof.Machine.execClearWatchHit hdr unit s
  | .releaseWatch hdr unit => Sys2Proof.Machine.execReleaseWatch hdr unit s
  | .readTrack hdr seq => Sys2Proof.Machine.execReadTrack hdr seq s
  | .readStation hdr station => Sys2Proof.Machine.execReadStation hdr station s
  | .readLane hdr station column => Sys2Proof.Machine.execReadLane hdr station column s
  | .readZone hdr station zone => Sys2Proof.Machine.execReadZone hdr station zone s
  | .readLine hdr => Sys2Proof.Machine.execReadLine hdr s
  | .readFaultRecord hdr unit => Sys2Proof.Machine.execReadFaultRecord hdr unit s
  | .readWatch hdr unit => Sys2Proof.Machine.execReadWatch hdr unit s
  | .takeNotices hdr => Sys2Proof.Machine.execTakeNotices hdr s
  | .setRouting hdr kinds cls => Sys2Proof.Machine.execSetRouting hdr kinds cls s
  | .subscribeOutcomes hdr => Sys2Proof.Machine.execSubscribeOutcomes hdr s
  | .takeOutcomes hdr => Sys2Proof.Machine.execTakeOutcomes hdr s
  | .busyAnswer p tag code => Sys2Proof.Machine.execBusyAnswer p tag code s

end Sys2Proof.Machine
end

