-- ==== Sys2Proof/Machine/Step.lean ====
section
/-! DEFINITION. The step of the part: the command at the front of the queue is carried out; with none waiting, the next positional
event that H has reached is handed to its owner (R6), and with none reached the part idles (log entry 5). -/

namespace Sys2Proof.Machine

/-- One step: the command at the front of the queue, on the state with the queue's rest; on an empty queue, the row of the next
positional event that H has reached and its owner has not taken. -/
def step (s : State) : Host.Outcome State Fault Refusal :=
  match s.pending with
  | c :: cs => exec c { s with pending := cs }
  | [] =>
    match s.eventDue with
    | some e => exec e.command s
    | none => .next s

/-- The command a table word spells, put at the front of the queue; nothing where the word spells none. -/
def State.withFetchWord (s : State) (nbits w : Nat) : State :=
  match decodeTableWord nbits w with
  | some c => { s with pending := c :: s.pending }
  | none => s

end Sys2Proof.Machine
end

