-- ==== Sys2Proof/Machine/Frames.lean ====
section
/-! DEFINITION. The frames on the links (12.7): the CRC-16 and the layouts of R194, reading a master frame into its command
(R187, R195), reading a drive frame into its command (R192, R193), the receivers that find these frames in what arrives (R187,
R192), and the bytes of replies and of the frames to a drive (R190, R194, R195). The step takes commands, not bytes: these
functions say which commands the bytes are. -/

namespace Sys2Proof.Machine

/-! ### Fields (R194, R195): high byte first -/

abbrev Bytes := List Byte

def pair16 (a b : Byte) : BitVec 16 := a ++ b

def quad32 (a b c d : Byte) : BitVec 32 := a ++ b ++ (c ++ d)

def u1 (n : Nat) : Bytes := [BitVec.ofNat 8 n]

def u2 (n : Nat) : Bytes := [BitVec.ofNat 8 (n / 256), BitVec.ofNat 8 n]

def u4 (n : Nat) : Bytes := u2 (n / 65536) ++ u2 n

/-- A signed value in two bytes, two's complement (R195). -/
def i2 (x : Int) : Bytes := u2 (BitVec.ofInt 16 x).toNat

/-- A signed value in four bytes, two's complement (R195). -/
def i4 (x : Int) : Bytes := u4 (BitVec.ofInt 32 x).toNat

def posB (x : Pos) : Bytes := u4 x.toNat

def seqB (q : SeqNo) : Bytes := u2 q.toNat

/-- An optional value behind its presence byte (R195). -/
def optB {α : Type} (f : α → Bytes) : Option α → Bytes
  | some x => u1 1 ++ f x
  | none => u1 0

/-- A list behind its count (R195). -/
def listB {α : Type} (f : α → Bytes) (l : List α) : Bytes := u1 l.length ++ l.flatMap f

/-- The number a set makes, bit i for the member at position i (R195). -/
def setBits (l : List Bool) : Nat := l.foldr (fun b n => 2 * n + b.toNat) 0

/-- A set drawn from a list of up to 8 members (R195). -/
def setB (l : List Bool) : Bytes := u1 (setBits l)

/-- A set drawn from a list of 9 to 16 members, in two bytes, high byte first (R194, R195). -/
def wideSetB (l : List Bool) : Bytes := u2 (setBits l)

def four {α : Type} (f : α → Bytes) (x : Four α) : Bytes := x.toList.flatMap f

/-- A flag whose table lists the value that holds second: clear, set; no, yes (R195). -/
def flagB (b : Bool) : Bytes := u1 b.toNat

/-- A flag whose table lists the value that holds first: set, clear; yes, no (R195). -/
def flagFirstB (b : Bool) : Bytes := u1 (!b).toNat

def idxB (i : Idx) : Bytes := u1 i.toNat

/-! ### CRC-16 (R194) -/

/-- One bit enters the register of the polynomial x^16 + x^12 + x^5 + 1. -/
def crcBit (r : BitVec 16) (b : Bool) : BitVec 16 :=
  if xor r.msb b then (r <<< 1) ^^^ 0x1021#16 else r <<< 1

/-- One byte, most significant bit first. -/
def crcByte (r : BitVec 16) (b : Byte) : BitVec 16 :=
  [7, 6, 5, 4, 3, 2, 1, 0].foldl (fun r i => crcBit r (b.getLsbD i)) r

/-- The CRC-16 of a run of bytes, from the initial value 65,535. -/
def crc16 (bytes : Bytes) : BitVec 16 := bytes.foldl crcByte 65535#16

/-- A frame: its sync byte, the bytes the CRC covers, and the CRC. -/
def framed (sync : Byte) (covered : Bytes) : Bytes := sync :: covered ++ u2 (crc16 covered).toNat

/-! ### Names of requests (R195) -/

def flagOf (b : Byte) : Option Bool :=
  match b.toNat with
  | 0 => some false
  | 1 => some true
  | _ => none

def flagFirstOf (b : Byte) : Option Bool := (flagOf b).map (!·)

def columnsOf (b : Byte) : Four Bool := ⟨b.getLsbD 0, b.getLsbD 1, b.getLsbD 2, b.getLsbD 3⟩

/-- A set of fault flags: bit 0 SOFT, bit 1 HARD, and TRIPPED or nothing beyond (R151, R157). -/
def flagSetOf (b : Byte) : FlagSet := { soft := b.getLsbD 0, hard := b.getLsbD 1, beyond := decide (4 ≤ b.toNat) }

def resumeActionOf (b : Byte) : Option ResumeAction :=
  match b.toNat with
  | 0 => some .skip
  | 1 => some .restrike
  | _ => none

def jobSourceOf (b : Byte) : Option JobSource :=
  match b.toNat with
  | 0 => some .blank
  | 1 => some .keep
  | 2 => some .copy
  | _ => none

def stationTypeOf (b : Byte) : Option StationType :=
  match b.toNat with
  | 0 => some .foil
  | 1 => some .emboss
  | 2 => some .foilEmboss
  | _ => none

def zoneModeOf (b : Byte) : Option ZoneMode :=
  match b.toNat with
  | 0 => some .level
  | 1 => some .latched
  | _ => none

def laneCodeOf (b : Byte) : Option LaneCode :=
  match b.toNat with
  | 0 => some .off
  | 1 => some .dry
  | 2 => some .firstOff
  | 3 => some .on
  | 4 => some .onReport
  | _ => none

/-- The verdict of a posting, by the position of its name in the table of R24, where UNKNOWN stands first. -/
def postedOf (b : Byte) : Option PostedVerdict :=
  match b.toNat with
  | 1 => some .good
  | 2 => some .reject
  | _ => none

def watchActionOf (b : Byte) : Option WatchAction :=
  match b.toNat with
  | 0 => some .notice
  | 1 => some .mark
  | 2 => some .stop
  | _ => none

def watchScopeOf (b : Byte) : Option WatchScope :=
  match b.toNat with
  | 0 => some .job
  | 1 => some .line
  | _ => none

def routeClassOf (b : Byte) : Option RouteClass :=
  match b.toNat with
  | 0 => some .off
  | 1 => some .routine
  | 2 => some .urgent
  | _ => none

/-! ### Request bodies (R195) -/

/-- A global parameter by its form byte and value: `none` for a length the form does not have, `unlisted` for a value that is
none of its names. The outer `none` stands for a form byte that names no parameter. That a parameter's form with the length of another
one drops the frame is DESIGN CHOICE (unsafe, log entry 44). -/
def globalItemOf (form : Byte) (v : Bytes) : Option (Option GlobalItem) :=
  match form.toNat, v with
  | 0, [a, b] => some (some (.pitch (pair16 a b)))
  | 1, [a, b] => some (some (.window (pair16 a b)))
  | 2, [a] => some (some (.lockN a))
  | 3, [a] => some (some (.coastMax a))
  | 4, [a] => some (some (.stretchSmooth a))
  | 5, [a, b] => some (some (.strikeMinSpeed (pair16 a b)))
  | 6, [a] => some (some (if a.toNat < 16 then .columnsUsed (columnsOf a) else .unlisted))
  | 7, [a, b] => some (some (.splBefore (pair16 a b)))
  | 8, [a, b] => some (some (.splAfter (pair16 a b)))
  | 9, [a] =>
    some (some (match flagFirstOf a with
      | some f => .unknownFeed f
      | none => .unlisted))
  | 10, [a] =>
    some (some (match flagOf a with
      | some f => .coastPolicy f
      | none => .unlisted))
  | f, _ => if f ≤ 10 then some none else none

/-- One setting of WRITE LINE SETTINGS by its form byte, off the front of the bytes behind it, with what follows: its value, and
behind that the lane of a low threshold (R185, R195). An ARB_MODE value that is none of its names is `unlisted`. `none` where too
few bytes stand there, or the form names no setting. -/
def settingOf (form : Byte) (v : Bytes) : Option (SettingItem × Bytes) :=
  match form.toNat, v with
  | 0, a :: r => some (.nSlot a, r)
  | 1, a :: b :: r => some (.minHold (pair16 a b), r)
  | 2, a :: b :: r => some (.maxHold (pair16 a b), r)
  | 3, a :: r =>
    some (match a.toNat with
      | 0 => .arbMode .queued
      | 1 => .arbMode .preempt
      | _ => .unlisted, r)
  | 4, a :: b :: r => some (.overLimit (pair16 a b), r)
  | 5, a :: b :: c :: d :: r => some (.spliceDist (quad32 a b c d), r)
  | 6, a :: b :: c :: d :: r => some (.reverseLimit (quad32 a b c d), r)
  | 7, a :: b :: c :: d :: s :: l :: r => some (.lowThreshold s l (quad32 a b c d), r)
  | _, _ => none

/-- The settings of WRITE LINE SETTINGS, as many as their count says; `none` for a length they do not make. A form byte that names
no setting allows whatever follows it (R185, R195). -/
def settingsOf : Nat → Bytes → Option (List SettingItem)
  | 0, [] => some []
  | 0, _ :: _ => none
  | _ + 1, [] => none
  | n + 1, f :: v =>
    if 7 < f.toNat then some [.unlisted]
    else
      match settingOf f v with
      | some (i, r) => (settingsOf n r).map fun l => i :: l
      | none => none

/-- The condition of ARM WATCH by its type, the last three bytes of the body taken off. The type is a name of the table of R168,
where `absent` stands first. -/
def watchSpecOf (type : Byte) (v : Bytes) : WatchSpec :=
  match type.toNat, v with
  | 1, [a, b, c, d] => .atPosition (quad32 a b c d)
  | 2, [a, b, s] => .repeatAtStation (pair16 a b) s
  | 3, [s, l, a, b, c, d] => .foilBelow s l (quad32 a b c d)
  | 4, [s, a, b] => .trimBeyond s (pair16 a b)
  | _, _ => .unlisted

/-- ARM WATCH: a body of a length that some type gives it (R195). -/
def armWatchOf (v : Bytes) : Option (ReqHdr → Instr) :=
  match v with
  | u :: t :: rest =>
    let n := rest.length
    if n = 6 ∨ n = 7 ∨ n = 9 then
      match rest.drop (n - 3) with
      | [a, c, e] =>
        some fun h => .armWatch h u (watchSpecOf t (rest.take (n - 3))) (watchActionOf a) (watchScopeOf c) (flagOf e)
      | _ => none
    else none
  | _ => none

/-- EDIT HOLD CONTEXT (R143, R144): its form byte leads. A form that R195 lists with the length of the other one drops the frame: DESIGN
CHOICE (unsafe, log entry 44), since R187 and R195 give the allowed lengths by the request code. -/
def editOf (code : Byte) (v : Bytes) : Option (ReqHdr → Instr) :=
  match v with
  | f :: v =>
    match f.toNat, v with
    | 0, [s, a, b] => some fun h => .editHoldContextTrim h s (pair16 a b)
    | 1, [s, a, b, k] => some fun h => .editHoldContextAction h s (pair16 a b) (resumeActionOf k)
    | n, _ => if n ≤ 1 then none else some fun h => .unknownRequest h code
  | [] => none

/-- JOB ITEM (R180): the slot, then the form byte and its values. A form that R195 lists with the length of another one drops the frame:
DESIGN CHOICE (unsafe, log entry 44), since R187 and R195 give the allowed lengths by the request code. A zone's band and REQ_OFFSET
take 1 byte each: DESIGN CHOICE (unsafe, log entry 48). -/
def jobItemOf (code : Byte) (v : Bytes) : Option (ReqHdr → Instr) :=
  match v with
  | j :: f :: v =>
    match f.toNat, v with
    | 0, g :: w =>
      match globalItemOf g w with
      | some (some i) => some fun h => .jobItemGlobal h j i
      | some none => none
      | none => some fun h => .jobItemGlobal h j .unlisted
    | 1, [s, t, d3, d2, d1, d0, a1, a0, l3, l2, l1, l0, r1, r0, m1, m0, t1, t0, b1, b0, g, w, k] =>
      some fun h => .jobItemStation h j s
        { type := stationTypeOf t, d := quad32 d3 d2 d1 d0, a := pair16 a1 a0, lead := quad32 l3 l2 l1 l0,
          reportSpan := pair16 r1 r0, stepMax := pair16 m1 m0, tol := pair16 t1 t0, trimLim := pair16 b1 b0, gain := g,
          slew := w, liftOnReject := flagFirstOf k }
    | 2, [s, z, e, s1, s0, b, r, m] => -- the enabled flag 0 no, 1 yes: DESIGN CHOICE (log entry 32)
      some fun h => .jobItemZone h j s z
        { enabled := flagOf e, setpoint := pair16 s1 s0, band := b, reqOffset := r, mode := zoneModeOf m }
    | 3, [s, c, k, l1, l0, g1, g0] => some fun h => .jobItemLane h j s c (laneCodeOf k) (pair16 l1 l0) (pair16 g1 g0)
    | 4, [s] => some fun h => .jobItemRemoveStation h j s
    | n, _ => if n ≤ 4 then none else some fun h => .unknownRequest h code
  | _ => none

/-- The request a code and a body are, `none` where the code does not allow the body's length (R187, R195). FINISH ZONE's rotate flag,
whose values no table lists (R115), is clear for the byte 0 and set for 1: DESIGN CHOICE (unsafe, log entry 32). -/
def requestOf (code : Byte) (v : Bytes) : Option (ReqHdr → Instr) :=
  match code.toNat, v with
  | 1, [] => some .start
  | 2, [] => some .hold
  | 3, [] => some .resume
  | 4, [] => some .stop
  | 5, [] => some .lineReset
  | 6, [s] => some fun h => .stationReset h s
  | 7, v => editOf code v
  | 8, [u, f] => some fun h => .clearFlags h u (flagSetOf f)
  | 9, [u, f, g] => some fun h => .setFlags h u (flagSetOf f) (flagSetOf g)
  | 10, [u] => some fun h => .clearFaultRecord h u
  | 11, [s, z, m] => some fun h => .setZoneMask h s z (flagOf m)
  | 12, [s, z, r] => -- the rotate flag 0 clear, 1 set: DESIGN CHOICE (log entry 32)
    some fun h => .finishZone h s z (flagOf r)
  | 13, [s, z] => some fun h => .setLowest h s z
  | 14, [j, b] => some fun h => .beginJob h j (jobSourceOf b)
  | 15, v => jobItemOf code v
  | 16, [j] => some fun h => .checkJob h j
  | 17, [j] => some fun h => .switchJob h j
  | 18, n :: v => if n = 0 then none else (settingsOf n.toNat v).map fun l h => .writeLineSettings h l
  | 19, [a, b, c, k] => some fun h => .postVerdict h (pair16 a b) (columnsOf c) (postedOf k)
  | 20, [s, c] => some fun h => .approveFirstOff h s c
  | 21, [a, b, c, d] => some fun h => .reportSplice h (quad32 a b c d)
  | 22, [s, l, a, b, c, d] => some fun h => .reportFoilRoll h s l (quad32 a b c d)
  | 23, v => armWatchOf v
  | 24, [w, e] => some fun h => .enableWatch h w (flagOf e)
  | 25, [w] => some fun h => .clearWatchHit h w
  | 26, [w] => some fun h => .releaseWatch h w
  | 27, [a, b] => some fun h => .readTrack h (pair16 a b)
  | 28, [s] => some fun h => .readStation h s
  | 29, [s, c] => some fun h => .readLane h s c
  | 30, [s, z] => some fun h => .readZone h s z
  | 31, [] => some .readLine
  | 32, [u] => some fun h => .readFaultRecord h u
  | 33, [w] => some fun h => .readWatch h w
  | 34, [] => some .takeNotices
  | 35, [a, b, c] => some fun h => .setRouting h (pair16 a b) (routeClassOf c)
  | 36, [] => some .subscribeOutcomes
  | 37, [] => some .takeOutcomes
  | _, _ => if namesRequest code then none else some fun h => .unknownRequest h code

/-- The request a master frame at a port is, `none` where the frame is dropped (R187). It begins with the sync byte 126. -/
def portRequest (p : Port) (frame : Bytes) : Option Instr :=
  match frame with
  | sync :: t1 :: t0 :: code :: n1 :: n0 :: rest =>
    let n := (pair16 n1 n0).toNat
    let body := rest.take n
    if sync = 126 ∧ n ≤ Config.portBodyTop ∧ rest.length = n + 2 ∧
        rest.drop n = u2 (crc16 (t1 :: t0 :: code :: n1 :: n0 :: body)).toNat then
      (requestOf code body).map fun make => make { port := p, tag := pair16 t1 t0, stage := .whole }
    else none
  | _ => none

/-- A master frame at a port: the request it is, or a dropped frame (R187). -/
def portFrame (p : Port) (frame : Bytes) : Instr := (portRequest p frame).getD (.portFrameDropped p)

/-! ### Drive frames (R192 to R194) -/

def fourPairs (v : Bytes) : Option (Four (BitVec 16)) :=
  match v with
  | [a1, a0, b1, b0, c1, c0, d1, d0] => some ⟨pair16 a1 a0, pair16 b1 b0, pair16 c1 c0, pair16 d1 d0⟩
  | _ => none

def ackResultOf (b : Byte) : Option AckResult :=
  match b.toNat with
  | 0 => some .accepted
  | 1 => some .refusedBusy
  | 2 => some .refusedRange
  | _ => none

def reportOutcomeOf (b : Byte) : Option ReportOutcome :=
  match b.toNat with
  | 1 => some .contact
  | 2 => some .lifted
  | 3 => some .noContact
  | _ => none

def abortFoundOf (b : Byte) : Option AbortFound :=
  match b.toNat with
  | 1 => some .contactMade
  | 2 => some .notMade
  | _ => none

/-- The event a drive frame's type and body are, `none` for a length, type or value the layout does not define (R192, R194). -/
def driveBody (st : Idx) (type : Byte) (v : Bytes) : Option Instr :=
  match type.toNat, v with
  | 32, [a, b, r] => (ackResultOf r).map (.orderAck st (pair16 a b))
  | 33, a :: b :: o :: f :: e1 :: e0 :: adv =>
    match reportOutcomeOf o, fourPairs adv with
    | some o, some adv =>
      if f.getLsbD 1 ∨ f.getLsbD 2 ∨ f.getLsbD 3 then none
      else
        some (.strikeReport st
          { seq := pair16 a b, outcome := o, ePresent := f.getLsbD 0, e := pair16 e1 e0,
            breakMask := ⟨f.getLsbD 4, f.getLsbD 5, f.getLsbD 6, f.getLsbD 7⟩, advanced := adv })
    | _, _ => none
  | 34, a :: b :: o :: adv =>
    match abortFoundOf o, fourPairs adv with
    | some o, some adv => some (.abortReport st (pair16 a b) o adv)
    | _, _ => none
  | 35, v => (fourPairs v).map (.heatReading st)
  | _, _ => none

/-- The event a frame from the drive of a station is, `none` where the frame is dropped (R192). It begins with the sync byte 90. -/
def driveEvent (st : Idx) (frame : Bytes) : Option Instr :=
  match frame with
  | sync :: type :: n :: rest =>
    let body := rest.take n.toNat
    if sync = 90 ∧ n.toNat ≤ Config.stationBodyTop ∧ rest.length = n.toNat + 2 ∧
        rest.drop n.toNat = u2 (crc16 (type :: n :: body)).toNat then
      driveBody st type body
    else none
  | _ => none

/-- A frame from the drive of a station: the event it is, or a dropped frame (R192). -/
def driveFrame (st : Idx) (frame : Bytes) : Instr := (driveEvent st frame).getD (.stationFrameDropped st)

/-! ### The receivers (R187, R192) -/

/-- What the bytes behind a sync byte say of the length of the frame. -/
inductive FrameSize where
  /-- the length field has not arrived yet -/
  | short
  /-- the length is above the greatest body length: the frame is dropped -/
  | tooLong
  /-- this many bytes follow the sync byte -/
  | known (n : Nat)
deriving DecidableEq, Repr

/-- The length of a master frame by what follows its sync byte (R187, R194). -/
def portFrameSize : Bytes → FrameSize
  | _ :: _ :: _ :: n1 :: n0 :: _ =>
    let n := (pair16 n1 n0).toNat
    if Config.portBodyTop < n then .tooLong else .known (n + 7)
  | _ => .short

/-- The length of a drive frame by what follows its sync byte (R192, R194). -/
def driveFrameSize : Bytes → FrameSize
  | _ :: n :: _ => if Config.stationBodyTop < n.toNat then .tooLong else .known (n.toNat + 4)
  | _ => .short

/-- A kind of frame as a receiver hunts for it: its sync byte, its length by what follows the sync byte, what a whole frame is, and
the command that a dropped one is. -/
structure FrameKind where
  sync : Byte
  size : Bytes → FrameSize
  read : Bytes → Option Instr
  dropped : Instr

/-- Master frames at a port (R187). -/
def portKind (p : Port) : FrameKind :=
  { sync := 126, size := portFrameSize, read := portRequest p, dropped := .portFrameDropped p }

/-- Drive frames at a station link (R192). -/
def driveKind (st : Idx) : FrameKind :=
  { sync := 90, size := driveFrameSize, read := driveEvent st, dropped := .stationFrameDropped st }

/-- A receiver hunts for the sync byte in the bytes received, oldest first, and answers the commands of the frames it finds and the
bytes of a frame not yet complete. After a dropped frame it hunts again from the byte after that frame's sync (R187). A length above
the greatest is judged as it is read; all else when the frame is complete (DESIGN CHOICE, log entry 36). Each round takes a byte at
least, so `n` rounds do for `n` bytes. -/
def hunt (k : FrameKind) : Nat → Bytes → List Instr × Bytes
  | 0, v => ([], v)
  | _ + 1, [] => ([], [])
  | n + 1, b :: v =>
    if b ≠ k.sync then hunt k n v
    else
      match k.size v with
      | .short => ([], b :: v)
      | .tooLong => let x := hunt k n v; (k.dropped :: x.1, x.2)
      | .known m =>
        if v.length < m then ([], b :: v)
        else
          match k.read (b :: v.take m) with
          | some c => let x := hunt k n (v.drop m); (c :: x.1, x.2)
          | none => let x := hunt k n v; (k.dropped :: x.1, x.2)

/-- The bytes received at a link since its carrier came, or since the last frame that was complete: the commands they are and the
bytes still to be completed (R187, R192). -/
def FrameKind.receive (k : FrameKind) (v : Bytes) : List Instr × Bytes := hunt k v.length v

/-! ### Frames to a drive (R194) -/

/-- The byte of an order's decision; only STRIKE, DRY and LIFT are ordered. -/
def decisionByte : Decision → Nat
  | .strike => 1
  | .dry => 2
  | .lift => 3
  | .none | .pass => 0

def LinkFrame.typeByte : LinkFrame → Nat
  | .strikeOrder _ _ _ _ _ => 16
  | .abortOrder _ => 17
  | .heatOrder _ => 18

def LinkFrame.body : LinkFrame → Bytes
  | .strikeOrder q d ph t feed => seqB q ++ u1 (decisionByte d) ++ flagB ph ++ posB t ++ four u2 feed
  | .abortOrder qs => listB seqB qs
  | .heatOrder on => setB on.toList

/-- The bytes of a frame to a drive, sync byte 90 first (R194). -/
def LinkFrame.bytes (f : LinkFrame) : Bytes := framed 90 (u1 f.typeByte ++ u1 f.body.length ++ f.body)

/-! ### Bodies of replies (R190, R195) -/

def lineB (l : LineState) : Bytes := u1 l.ctorIdx

/-- The E-stop level, asserted before clear as R135 lists it. -/
def estopB (b : Bool) : Bytes := flagFirstB b

def slotB : Slot → Bytes
  | .slot0 => u1 0
  | .slot1 => u1 1

def two {α : Type} (f : α → Bytes) (t : Two α) : Bytes := f t.s0 ++ f t.s1

/-- The three flags of a fault unit, three items of R151's table: SOFT, HARD, TRIPPED, each clear or set (R190, R195). -/
def unitFlagsB (f : UnitFlags) : Bytes := flagB f.soft ++ flagB f.hard ++ flagB f.tripped

/-- report[s] as R24 gives it: the outcome, E, and advanced[c] of all four columns, of a column not used in the slot too. That such a
column's advance stands there, with no presence byte, is DESIGN CHOICE (unsafe, log entry 27): R24 has advanced[c] for columns and
does not say how an unused one is held or sent. A strike report brings four values (R194). -/
def reportB (r : Report) : Bytes := u1 r.outcome.ctorIdx ++ optB i2 r.e ++ four u2 r.advanced

/-- A set of lanes, the list of lanes running from (0,0) to (3,3), station first (R195). -/
def laneSetB (f : Four (Four Bool)) : Bytes := wideSetB (f.toList.flatMap Four.toList)

/-- A track record, field by field in the order of R24. verdict[c] stands for each of the four columns behind a presence byte, 0 for
a column not used in the slot: DESIGN CHOICE (unsafe, log entry 27), R24 gives such a column no field and does not say how that is
sent. -/
def trackRecordB (r : TrackRecord) : Bytes :=
  seqB r.seq ++ posB r.mark ++ u1 r.origin.ctorIdx ++ flagFirstB r.locked ++ optB u4 r.pitch ++ i4 r.eSnap ++ slotB r.slot ++
    flagB r.flagged ++ setB r.watchMark.toList ++ laneSetB r.firstOff ++
    four (optB fun v => u1 (Verdict.ctorIdx v)) r.verdict ++ four (fun f => optB posB f.k) r.st ++
    four (fun f => u1 f.decision.ctorIdx) r.st ++ four (fun f => u1 f.status.ctorIdx) r.st ++
    four (fun f => optB posB f.target) r.st ++ four (fun f => optB (four u2) f.feed) r.st ++
    four (fun f => optB reportB f.report) r.st ++ posB r.z

/-- The fields of an outcome record for one used column, the four rows of R34 in its order. That they stand together column by
column is DESIGN CHOICE (unsafe, log entry 27). -/
def outcomeColumnB (c : OutcomeColumn) : Bytes :=
  u1 c.verdict.ctorIdx ++ setB c.fedAt.toList ++ flagFirstB c.advice ++
    setB [c.reasons.verdict, c.reasons.splice, c.reasons.lost, c.reasons.unlocked, c.reasons.station, c.reasons.embossLift,
      c.reasons.foilMissing]

/-- An outcome record with its GAP, in the order of R34: decision and status, one row there, station by station, and the four rows of
a used column together, each of the four columns behind a presence byte, 0 for one not used in the slot. R34 does not say whether its
rows go by station and column or each by itself, nor how a column without fields is sent: DESIGN CHOICE (unsafe, log entry 27). -/
def outcomeB (x : OutcomeRecord × Bool) : Bytes :=
  let r := x.1
  seqB r.seq ++ posB r.mark ++ u1 r.origin.ctorIdx ++ flagFirstB r.locked ++ flagB r.flagged ++ slotB r.slot ++
    four (fun f => u1 f.decision.ctorIdx ++ u1 f.status.ctorIdx) r.st ++ four (fun f => optB posB f.target) r.st ++
    four (fun f => optB i2 f.e) r.st ++ four (optB outcomeColumnB) r.col ++ flagFirstB x.2

/-- The item awaited: 0 for none, 1 and the seq for an order, 2 for ABORT. R60 lists none, one seq, or ABORT and R195 has no form for a
value that is a name or a seq: DESIGN CHOICE (unsafe, log entry 35). -/
def awaitedB : Awaited → Bytes
  | .none => u1 0
  | .order q => u1 1 ++ seqB q
  | .abort => u1 2

def overdueB (x : OverdueEntry) : Bytes :=
  seqB x.seq ++ slotB x.slot ++ u1 x.decision.ctorIdx ++ posB x.target ++ four u2 x.feed

def contextEntryB (e : ContextEntry) : Bytes :=
  seqB e.seq ++ slotB e.slot ++ u1 (decisionByte e.decision - 1) ++ posB e.target ++ four u2 e.feed ++ u1 e.outcome.ctorIdx ++
    u1 e.action.ctorIdx

def contextB (c : HoldContext) : Bytes :=
  i2 c.trim ++ optB (fun l => posB (Prod.fst l)) c.last ++ optB (fun l => seqB (Prod.snd l)) c.last ++ flagB c.phased ++
    listB contextEntryB c.entries

/-- The parameters of a heater zone in the order of R103. The enabled flag is 0 for not enabled and 1 for enabled: DESIGN CHOICE
(unsafe, log entry 32), no table lists its values in an order. Band and REQ_OFFSET, in 0.1 °C, take 1 byte as their ranges do, not the
2 bytes of a temperature: DESIGN CHOICE (unsafe, log entry 48), R195 does not say which they are. -/
def zoneParamsB (z : ZoneParams) : Bytes :=
  flagB z.enabled ++ u2 z.setpoint ++ u1 z.band ++ u1 z.reqOffset ++ u1 z.mode.ctorIdx

def stageB : FirstOffStage → Bytes
  | .vacant => u1 0 ++ u1 0
  | .awaiting q => u1 1 ++ u1 1 ++ seqB q

def descriptorB (d : Descriptor) : Bytes :=
  u1 d.code.ctorIdx ++ u2 d.lf ++ u2 d.gf ++ u4 d.feed ++ flagFirstB d.struck ++ flagFirstB d.attn ++ stageB d.stage

/-- A descriptor as READ LANE shows it (R86). F takes 4 bytes: DESIGN CHOICE (unsafe, log entry 31), since the F of a descriptor that
no check has passed can reach beyond 65,535, which R87's range for it does not. -/
def descriptorViewB (d : DescriptorView) : Bytes :=
  u1 d.code.ctorIdx ++ u4 d.feed ++ flagFirstB d.struck ++ flagFirstB d.attn ++ stageB d.stage

def stationEntryB (e : StationEntry) : Bytes :=
  u1 e.type.ctorIdx ++ u4 e.d ++ u2 e.a ++ u4 e.lead ++ u2 e.reportSpan ++ u2 e.stepMax ++ u2 e.tol ++ u2 e.trimLim ++
    u1 e.gain ++ u1 e.slew ++ flagFirstB e.liftOnReject ++ four zoneParamsB e.zones ++ optB (four descriptorB) e.lanes

/-- READ STATION, in the order R190 names its contents (R60, R190). The abort set is sent as a counted list of seqs in the order of the
in-flight list: DESIGN CHOICE (unsafe, log entry 45), since R195 has no form for a set of seqs and R60 gives the set no order. The hold
context stands behind q slot, where R190 lists it: DESIGN CHOICE (unsafe, log entry 52), since R190 also orders a read body by the
holdings tables, and R60's has it with the sequencer's items, before the trim of R44. The station's entry of each job slot stands behind a
presence byte, slot 0 and then slot 1, and within it the descriptors behind one of their own: DESIGN CHOICE (unsafe, log entry 54). -/
def stationViewB (v : StationView) : Bytes :=
  flagB v.tripped ++ listB (fun x => seqB (Prod.fst x) ++ u1 (Prod.snd x).ctorIdx) v.inFlight ++ awaitedB v.awaited ++
    listB seqB v.abortSet ++ listB overdueB v.overdue ++ i2 v.trim ++ flagB v.phased ++
    optB (fun l => posB l.target) v.last ++ optB (fun l => seqB l.seq) v.last ++ optB (fun l => slotB l.slot) v.last ++
    optB contextB v.context ++ two (optB stationEntryB) v.params

/-- READ LANE, in the order R86 names its contents. The descriptors "for each job slot that holds" one stand as two optional values, slot 0
and then slot 1, each behind a presence byte: DESIGN CHOICE (unsafe, log entry 54), since R86, R190 and R195 do not say whether they are
that or a counted list. -/
def laneViewB (v : LaneView) : Bytes :=
  u1 v.state.ctorIdx ++ u4 v.remaining ++ u4 v.reserved ++ u4 v.low ++ two (optB descriptorViewB) v.descriptors

def readingB : Reading → Bytes
  | .temp t => u2 t
  | .openCircuit => u2 65535

/-- READ ZONE: the items of R102 in its order, then the rank, the parameters and the HOT state (R102, R190). What R102 and R195 leave open
is DESIGN CHOICE (unsafe): that "every item above" takes in the station's stale flag and on-set, sent behind the slot timer, and of the
priority order only the zone's rank (log entry 55); that the slot timer, "stopped, or 0..65,535 ms", stands behind a presence byte, 0 for
stopped (log entry 38); that the parameters stand behind one, 0 for a zone not enabled (log entry 54); and that the HOT state, whose values
no table lists, is 0 for not HOT and 1 for HOT (log entry 32). -/
def zoneViewB (v : ZoneView) : Bytes :=
  optB readingB v.zone.reading ++ optB u2 v.zone.age ++ flagB v.zone.request ++ flagB v.zone.mask ++ u1 v.zone.block.ctorIdx ++
    flagB v.zone.inService ++ optB u2 v.zone.slotTimer ++ flagB v.stale ++ setB v.onSet.toList ++
    u1 v.rank ++ optB zoneParamsB v.params ++ flagB v.hot

/-- The item a failing check names, behind a byte for its kind: parameter 0, station 1, zone 2, lane 3, in the order of R181. That such
a byte stands there is DESIGN CHOICE (unsafe, log entry 33): R195 gives form bytes for requests only. -/
def checkItemB : CheckItem → Bytes
  | .parameter g => u1 0 ++ u1 g.ctorIdx
  | .station s => u1 1 ++ idxB s
  | .zone s z => u1 2 ++ idxB s ++ idxB z
  | .lane s c => u1 3 ++ idxB s ++ idxB c

/-- A failing check: its number, its name and its item (R181). -/
def failingB (f : FailingCheck) : Bytes := u1 (f.check.ctorIdx + 1) ++ u1 f.check.ctorIdx ++ checkItemB f.item

def globalsB (g : JobGlobals) : Bytes :=
  optB u2 g.pitch ++ optB u2 g.window ++ u1 g.lockN ++ u1 g.coastMax ++ u1 g.stretchSmooth ++ u2 g.strikeMinSpeed ++
    optB (fun c => setB (Four.toList c)) g.columns ++ u2 g.splBefore ++ u2 g.splAfter ++ flagFirstB g.unknownFeed ++
    flagB g.coastPredict

/-- A job slot in READ LINE, in the order of R177's table, the global items in the place of the job record: DESIGN CHOICE (unsafe, log entry
52), since R190 orders a read body by the holdings table and also lists the global items last. -/
def slotViewB (v : SlotView) : Bytes :=
  u1 v.state.ctorIdx ++ optB globalsB v.globals ++ u1 v.refs ++ optB failingB v.failing ++ optB u4 v.retireDist

def spliceB (x : SpliceEntry) : Bytes := posB x.start ++ posB x.stop ++ u1 x.reports

/-- The line settings in the order of R185. -/
def settingsB (l : LineSettings) : Bytes :=
  u1 l.nSlot ++ u2 l.minHold ++ u2 l.maxHold ++ u1 l.arbMode.ctorIdx ++ u2 l.overLimit ++ u4 l.spliceDist ++
    u4 l.reverseLimit ++ four (four u4) l.low

/-- STOP REQUEST in READ LINE: its level and the set of its sources (R190). No table lists the values of the level in an order: 0
deasserted and 1 asserted is DESIGN CHOICE (unsafe, log entry 32). -/
def stopB (r : StopRequest) : Bytes := flagB r.asserted ++ setB [r.trip, r.trackFull, r.watch]

/-- READ LINE, in the order R190 names its contents. The head and the tail seq of the track stand each behind a presence byte, 0 while the
track is empty: DESIGN CHOICE (unsafe, log entry 50), since R23 and R190 name the two and do not say what is sent for an empty track. -/
def lineViewB (v : LineView) : Bytes :=
  posB v.w ++ posB v.h ++ u2 v.v ++ u4 v.reverse ++ u1 v.reader.ctorIdx ++ optB posB v.lastMark ++ optB posB v.pred ++
    u1 v.lock ++ u1 v.coast ++ i4 v.e ++ u1 v.count ++ optB seqB v.headSeq ++ optB seqB v.tailSeq ++ seqB v.nextSeq ++
    lineB v.line ++ estopB v.estop ++
    four (optB (listB fun c => seqB c.seq ++ u1 c.outcome.ctorIdx ++ u1 c.action.ctorIdx)) v.contexts ++
    two slotViewB v.slots ++ listB spliceB v.splices ++ u1 v.inService ++ four unitFlagsB v.units ++ unitFlagsB v.lineUnit ++
    stopB v.stop ++ settingsB v.settings

/-- A kind detail: a name takes one byte, a heater zone two, station first, a distance or a position four (R152, R160, R195). -/
def detailB : FaultDetail → Bytes
  | .order => u1 0
  | .abort => u1 1
  | .refusedBusy => u1 0
  | .refusedRange => u1 1
  | .reported o => u1 o.ctorIdx
  | .abortReported f => u1 f.ctorIdx
  | .zone s z => idxB s ++ idxB z
  | .reverseDistance n => u4 n
  | .captured c => posB c

/-- A fault record in the order of R160. -/
def faultRecordB (r : FaultRecord) : Bytes :=
  u1 r.kind.ctorIdx ++ u1 r.effect.ctorIdx ++ optB detailB r.detail ++ posB r.h ++ optB seqB r.seq ++ optB idxB r.column ++
    optB posB r.target ++ optB i2 r.trim ++ lineB r.line

def faultUnitB (u : FaultUnit) : Bytes :=
  unitFlagsB u.flags ++ optB faultRecordB u.first ++ optB faultRecordB u.latest

def conditionB : WatchCondition → Bytes
  | .atPosition x => u1 1 ++ posB x
  | .repeatAtStation q s => u1 2 ++ seqB q ++ idxB s
  | .foilBelow s c x => u1 3 ++ idxB s ++ idxB c ++ u4 x
  | .trimBeyond s x => u1 4 ++ idxB s ++ u2 x

/-- Owner NONE, LINE, INSPECTION or ROLL in the order of R168. -/
def ownerB : Option Port → Bytes
  | none => u1 0
  | some p => u1 (p.ctorIdx + 1)

def lastHitB (l : LastHit) : Bytes := posB l.h ++ lineB l.line ++ optB seqB l.seq

/-- A watch unit in the order of R168. The action and the scope stand each behind a presence byte, on an owned unit too: DESIGN CHOICE
(unsafe, log entry 43), since R168 calls neither optional and R176 has both absent while the unit is unowned. -/
def watchB (w : Watch) : Bytes :=
  ownerB w.owner ++ (match w.condition with
    | some c => conditionB c
    | none => u1 0) ++ optB (fun a => u1 (WatchAction.ctorIdx a)) w.action ++ optB (fun c => u1 (WatchScope.ctorIdx c)) w.scope ++
    flagB w.enabled ++ flagB w.armed ++ flagB w.inside ++ flagB w.hit ++ optB lastHitB w.lastHit

/-- The index of a notice: a unit, a lane or a watch unit; none for the rest (R163). That a kind without an index sends no byte at
all, neither an index nor a presence byte, is DESIGN CHOICE (unsafe, log entry 40): R166 and R195 do not say how such a pair is
sent. -/
def noticeIndexB : Notice → Bytes
  | .unitSoft u | .unitHard u | .unitTrip u => u1 (unitIndex u)
  | .firstOffStruck s c | .laneAttn s c | .foilLow s c | .foilOut s c => idxB s ++ idxB c
  | .watchHit w => idxB w
  | .outcomeReady | .holdEntered | .stopAsserted | .jobSwitched => []

/-- A pending pair with its class (R166). -/
def noticeB (n : PendingNotice) : Bytes := u1 n.notice.kind.place ++ noticeIndexB n.notice ++ u1 (if n.urgent then 2 else 1)

def routingB (r : Routing) : Bytes :=
  [r.unitSoft, r.unitHard, r.unitTrip, r.firstOffStruck, r.laneAttn, r.foilLow, r.foilOut, r.watchHit, r.outcomeReady,
    r.holdEntered, r.stopAsserted, r.jobSwitched].flatMap fun c => u1 c.ctorIdx

def globalItemB : GlobalItem → Bytes
  | .pitch v => u1 0 ++ u2 v.toNat
  | .window v => u1 1 ++ u2 v.toNat
  | .lockN v => u1 2 ++ u1 v.toNat
  | .coastMax v => u1 3 ++ u1 v.toNat
  | .stretchSmooth v => u1 4 ++ u1 v.toNat
  | .strikeMinSpeed v => u1 5 ++ u2 v.toNat
  | .columnsUsed v => u1 6 ++ setB v.toList
  | .splBefore v => u1 7 ++ u2 v.toNat
  | .splAfter v => u1 8 ++ u2 v.toNat
  | .unknownFeed b => u1 9 ++ flagFirstB b
  | .coastPolicy b => u1 10 ++ flagB b
  | .unlisted => []

/-- The item as stored, in JOB ITEM's reply (R180): its form byte, the indices the request names behind the slot, and the values. That
the form byte stands first, for a GLOBAL item also its parameter's byte, and that the slot index is not repeated is DESIGN CHOICE
(unsafe, log entry 39): R195 gives form bytes for requests only, and R180 does not say what of the request the stored item holds. A
zone's band and REQ_OFFSET take 1 byte each: DESIGN CHOICE (unsafe, log entry 48). -/
def storedB : StoredItem → Bytes
  | .global i => u1 0 ++ globalItemB i
  | .station s i =>
    u1 1 ++ idxB s ++ (i.type.elim [] fun t => u1 t.ctorIdx) ++ u4 i.d.toNat ++ u2 i.a.toNat ++ u4 i.lead.toNat ++
      u2 i.reportSpan.toNat ++ u2 i.stepMax.toNat ++ u2 i.tol.toNat ++ u2 i.trimLim.toNat ++ u1 i.gain.toNat ++
      u1 i.slew.toNat ++ (i.liftOnReject.elim [] flagFirstB)
  | .zone s z i =>
    u1 2 ++ idxB s ++ idxB z ++ (i.enabled.elim [] flagB) ++ u2 i.setpoint.toNat ++ u1 i.band.toNat ++ u1 i.reqOffset.toNat ++
      (i.mode.elim [] fun m => u1 m.ctorIdx)
  | .lane s c k lf gf => u1 3 ++ idxB s ++ idxB c ++ u1 k.ctorIdx ++ u2 lf.toNat ++ u2 gf.toNat
  | .removed s => u1 4 ++ idxB s

/-- The body of a reply, in the order the owning rule names its contents (R195). In the replies of START refused STATE and of RESUME
refused CONTEXT or accepted the line state and the E-stop level of R135 stand before what R136, R145 and R146 add: DESIGN CHOICE
(unsafe, log entry 51), since no rule orders the contents of the two rules in one body. -/
def ReplyBody.bytes : ReplyBody → Bytes
  | .empty => []
  | .level l e => lineB l ++ estopB e
  | .startRefused l e slots u => lineB l ++ estopB e ++ two (fun s => u1 (SlotState.ctorIdx s)) slots ++ unitFlagsB u
  | .resumeInvalid l e s q c => lineB l ++ estopB e ++ idxB s ++ seqB q ++ u1 c.ctorIdx
  | .resumed l e r => lineB l ++ estopB e ++ four (fun x => listB seqB x.ordered ++ listB seqB x.passed) r
  | .trim t => i2 t
  | .flags f => unitFlagsB f
  | .stored i => storedB i
  | .checkPassed r d => u4 r ++ u1 d
  | .checkFailed f => failingB f
  | .slotStates slots => two (fun s => u1 (SlotState.ctorIdx s)) slots
  | .settings l => settingsB l
  | .verdicts q v => seqB q ++ listB (fun x => u1 (Verdict.ctorIdx x)) (v.toList.filterMap id)
  | .splice a b n => posB a ++ posB b ++ u1 n
  | .watch w => watchB w
  | .track rs => listB trackRecordB rs
  | .station v => stationViewB v
  | .lane v => laneViewB v
  | .zone v => zoneViewB v
  | .lineView v => lineViewB v
  | .faultUnit u => faultUnitB u
  | .notices n => listB noticeB n
  | .routing r => routingB r
  | .outcomes rs => listB outcomeB rs

/-- The value of a result code (R188). -/
def ResultCode.value : ResultCode → Nat
  | .ok => 0
  | .busy => 1
  | .denied => 2
  | .state => 3
  | .range => 4
  | .noRepeat => 5
  | .full => 6
  | .owned => 7
  | .inUse => 8
  | .invalid => 9
  | .notStruck => 10
  | .kept => 11
  | .estop => 12
  | .context => 13

/-- The bytes of a master reply, sync byte 126 first, its code 128 above the request's (R194). For an unknown code of 128 or more that
sum does not fit its byte and is taken modulo 256: DESIGN CHOICE (unsafe, log entry 34). -/
def Reply.bytes (r : Reply) : Bytes :=
  framed 126 (u2 r.tag.toNat ++ u1 (r.code.toNat + 128) ++ u1 r.result.value ++ u2 r.body.bytes.length ++ r.body.bytes)

end Sys2Proof.Machine
end

