-- ==== Sys2Proof/WellFormed.lean ====
section
/-! DEFINITION. Which commands can reach the part as written: the few whose operands the frame layouts narrow further than
their types do (R185, R187, R188, R195). -/

namespace Sys2Proof

/-- A code 1..37 names a request (R195). -/
def codeNamed (code : Byte) : Bool := decide (1 ≤ code.toNat ∧ code.toNat ≤ 37)

/-- EDIT HOLD CONTEXT and JOB ITEM are the requests that carry a form byte (R195). -/
def codeHasForms (code : Byte) : Bool := decide (code = 7 ∨ code = 15)

/-- The bytes a setting takes in a request: its form byte, a lane of two bytes where it has one, and its value (R195). One whose
name is not listed takes at least its form byte. -/
def SettingItem.size : SettingItem → Nat
  | .nSlot _ | .arbMode _ => 2
  | .minHold _ | .maxHold _ | .overLimit _ => 3
  | .spliceDist _ | .reverseLimit _ => 5
  | .lowThreshold _ _ _ => 7
  | .unlisted => 1

/-- The settings fit one frame: one or more, counted in a byte, within the longest body (R185, R187, R195). -/
def settingsFit (items : List SettingItem) : Bool :=
  !items.isEmpty && decide (items.length ≤ 255) && decide (1 + (items.map SettingItem.size).sum ≤ Config.portBodyTop)

/-- A well-formed command. -/
def Instr.wf : Instr → Bool
  | .unknownRequest _ code => !codeNamed code || codeHasForms code
  | .busyAnswer _ _ code => codeNamed code
  | .writeLineSettings _ items => settingsFit items
  | .powerOn _ | .encoderStep _ | .speedIntervalEnd | .markEdge _ _ | .windowClose | .searchSynthesis | .commit _ _
  | .orderAck _ _ _ | .ackTimeout _ | .strikeReport _ _ | .reportDeadline _ _ | .retire | .spliceZoneEnd _
  | .positionWatch _ | .abortReport _ _ _ _ | .abortTimeout _ | .stationLinkLoss _ | .stationCarrierReturn _
  | .stationFrameSent _ | .stationFrameDropped _ | .heatReading _ _ | .millisecondTick | .staleHeat _
  | .minHoldReached _ _ | .maxHoldExpiry _ _ | .estopAsserted | .estopCleared | .portLinkLoss _ | .portCarrierReturn _
  | .portFrameDropped _ | .portReplySent _ | .start _ | .hold _ | .resume _ | .stop _ | .lineReset _
  | .stationReset _ _ | .editHoldContextTrim _ _ _ | .editHoldContextAction _ _ _ _ | .clearFlags _ _ _
  | .setFlags _ _ _ _ | .clearFaultRecord _ _ | .setZoneMask _ _ _ _ | .finishZone _ _ _ _ | .setLowest _ _ _
  | .beginJob _ _ _ | .jobItemGlobal _ _ _ | .jobItemStation _ _ _ _ | .jobItemZone _ _ _ _ _
  | .jobItemLane _ _ _ _ _ _ _ | .jobItemRemoveStation _ _ _ | .checkJob _ _ | .switchJob _ _ | .postVerdict _ _ _ _
  | .approveFirstOff _ _ _ | .reportSplice _ _ | .reportFoilRoll _ _ _ _ | .armWatch _ _ _ _ _ _ | .enableWatch _ _ _
  | .clearWatchHit _ _ | .releaseWatch _ _ | .readTrack _ _ | .readStation _ _ | .readLane _ _ _ | .readZone _ _ _
  | .readLine _ | .readFaultRecord _ _ | .readWatch _ _ | .takeNotices _ | .setRouting _ _ _ | .subscribeOutcomes _
  | .takeOutcomes _ => true

end Sys2Proof
end

