-- ==== Sys2Proof/Safety.lean ====
section
/-! DEFINITION. The terms in which claims about the part are made: a request that is taken, a reply that is formed, what a step
keeps, and the invariants of the manual's bold sentences. -/

namespace Sys2Proof.Machine

/-! ### Requests (R188) -/

/-- A master request that its port serves: its header and the code of its frame (R195). A frame with an unknown code is answered
without being served (R187), and the events are no requests. -/
def requestHeader : Instr → Option (ReqHdr × Byte)
  | .unknownRequest hdr code => if codeHasForms code then some (hdr, code) else none
  | .start hdr => some (hdr, 1)
  | .hold hdr => some (hdr, 2)
  | .resume hdr => some (hdr, 3)
  | .stop hdr => some (hdr, 4)
  | .lineReset hdr => some (hdr, 5)
  | .stationReset hdr _ => some (hdr, 6)
  | .editHoldContextTrim hdr _ _ => some (hdr, 7)
  | .editHoldContextAction hdr _ _ _ => some (hdr, 7)
  | .clearFlags hdr _ _ => some (hdr, 8)
  | .setFlags hdr _ _ _ => some (hdr, 9)
  | .clearFaultRecord hdr _ => some (hdr, 10)
  | .setZoneMask hdr _ _ _ => some (hdr, 11)
  | .finishZone hdr _ _ _ => some (hdr, 12)
  | .setLowest hdr _ _ => some (hdr, 13)
  | .beginJob hdr _ _ => some (hdr, 14)
  | .jobItemGlobal hdr _ _ => some (hdr, 15)
  | .jobItemStation hdr _ _ _ => some (hdr, 15)
  | .jobItemZone hdr _ _ _ _ => some (hdr, 15)
  | .jobItemLane hdr _ _ _ _ _ _ => some (hdr, 15)
  | .jobItemRemoveStation hdr _ _ => some (hdr, 15)
  | .checkJob hdr _ => some (hdr, 16)
  | .switchJob hdr _ => some (hdr, 17)
  | .writeLineSettings hdr _ => some (hdr, 18)
  | .postVerdict hdr _ _ _ => some (hdr, 19)
  | .approveFirstOff hdr _ _ => some (hdr, 20)
  | .reportSplice hdr _ => some (hdr, 21)
  | .reportFoilRoll hdr _ _ _ => some (hdr, 22)
  | .armWatch hdr _ _ _ _ _ => some (hdr, 23)
  | .enableWatch hdr _ _ => some (hdr, 24)
  | .clearWatchHit hdr _ => some (hdr, 25)
  | .releaseWatch hdr _ => some (hdr, 26)
  | .readTrack hdr _ => some (hdr, 27)
  | .readStation hdr _ => some (hdr, 28)
  | .readLane hdr _ _ => some (hdr, 29)
  | .readZone hdr _ _ => some (hdr, 30)
  | .readLine hdr => some (hdr, 31)
  | .readFaultRecord hdr _ => some (hdr, 32)
  | .readWatch hdr _ => some (hdr, 33)
  | .takeNotices hdr => some (hdr, 34)
  | .setRouting hdr _ _ => some (hdr, 35)
  | .subscribeOutcomes hdr => some (hdr, 36)
  | .takeOutcomes hdr => some (hdr, 37)
  | .powerOn _ | .encoderStep _ | .speedIntervalEnd | .markEdge _ _ | .windowClose | .searchSynthesis | .commit _ _
    | .orderAck _ _ _ | .ackTimeout _ | .strikeReport _ _ | .reportDeadline _ _ | .retire | .spliceZoneEnd _
    | .positionWatch _ | .abortReport _ _ _ _ | .abortTimeout _ | .stationLinkLoss _ | .stationCarrierReturn _
    | .stationFrameSent _ | .stationFrameDropped _ | .heatReading _ _ | .millisecondTick | .staleHeat _ | .minHoldReached _ _
    | .maxHoldExpiry _ _ | .estopAsserted | .estopCleared | .portLinkLoss _ | .portCarrierReturn _ | .portFrameDropped _
    | .portReplySent _ | .busyAnswer _ _ _ => none

/-- The owning block takes the request in this command: the port's carrier is up, and the request either arrives at a free port
or is the one that stands in service there (R188). `make` is the request as a function of its header. -/
abbrev State.takes (s : State) (hdr : ReqHdr) (make : ReqHdr → Instr) : Prop :=
  (s.ports.get hdr.port).carrier = true ∧
    ((hdr.stage = .whole ∧ (s.ports.get hdr.port).inService = none) ∨
      (hdr.stage = .taken ∧ (s.ports.get hdr.port).inService = some (make { hdr with stage := .arrives })))

/-- The state in which the port's request in service is answered: nothing is in service there, and the reply stands behind the
frames of its transmitter (R188). -/
def State.answered (s : State) (hdr : ReqHdr) (code : Byte) (r : ResultCode) (b : ReplyBody) : State :=
  { s with ports := s.ports.upd hdr.port fun p =>
      { p with inService := none, tx := p.tx ++ [{ tag := hdr.tag, code := code, result := r, body := b }] } }

/-! ### Steps and what they keep -/

/-- Every step keeps a property of the state. -/
def Kept (inv : State → Prop) : Prop := ∀ s t : State, inv s → step s = .next t → inv t

/-- The events that H has reached, in the order in which the model hands them over, lead from `s` to `t`, where none is left (R6). -/
def HandedOver : List PositionalEvent → State → State → Prop
  | [], s, t => t = s ∧ s.eventDue = none
  | e :: es, s, t => s.eventDue = some e ∧ HandedOver es (e.after s) t

/-! ### The track (R23) -/

/-- A run of consecutive sequence numbers (R3). -/
def seqRun (q : SeqNo) : Nat → List SeqNo
  | 0 => []
  | n + 1 => q :: seqRun (q + 1) n

/-- The track holds at most 48 records, and their seqs run consecutively up to the one before next seq (R23). -/
def TrackOrdered (s : State) : Prop :=
  s.track.length ≤ Config.trackCapacity ∧
    s.track.map (·.seq) = seqRun (s.nextSeq - BitVec.ofNat 16 s.track.length) s.track.length

/-! ### The Outcome List (R36) -/

/-- The list holds at most 64 records, every subscribed cursor stands at one of them or just past the newest (R36), and no record
stays that every subscribed cursor has passed (R37). -/
def OutcomesBounded (s : State) : Prop :=
  s.outcomes.records.length ≤ Config.outcomeCapacity ∧
    (∀ p c, s.outcomes.cursors.get p = some c → c.pos ≤ s.outcomes.records.length) ∧ s.outcomes.passed = 0

/-! ### Job slots (R177, R178) -/

/-- The number of track records under a slot (R178). -/
def State.references (s : State) (j : Slot) : Nat := (s.track.filter fun r => decide (r.slot = j)).length

/-- Each slot counts the track records that name it, one with any is ACTIVE or RETIRING, and not both slots are ACTIVE (R177,
R178). -/
def SlotsReferenced (s : State) : Prop :=
  (∀ j, (s.slots.get j).refs = s.references j) ∧
    (∀ j, 0 < (s.slots.get j).refs → (s.slots.get j).state = .active ∨ (s.slots.get j).state = .retiring) ∧
    (s.slots.s0.state = .active → s.slots.s1.state ≠ .active)

/-! ### Faults (R61, R151, R162) -/

/-- The station state mirrors TRIPPED of the station's fault unit (R61, R151). -/
def TripsMirrored (s : State) : Prop := ∀ st, (s.seqr.get st).tripped = (s.units.get st).tripped

/-- STOP REQUEST is asserted exactly while its cause set is not empty (R162). -/
def StopHasCause (s : State) : Prop :=
  s.stopReq.asserted = (s.stopReq.trip || s.stopReq.trackFull || s.stopReq.watch)

/-- The command may empty the first-fault record of a unit (R160): CLEAR FAULT RECORD of it, STATION RESET of its station, LINE
RESET, or power-on. -/
def emptiesFirst (u : UnitId) : Instr → Prop
  | .clearFaultRecord _ b => unitOf b = some u
  | .stationReset _ b => (idxOf b).map UnitId.station = some u
  | .lineReset _ => True
  | .powerOn _ => True
  | _ => False

/-! ### Numbers in their ranges (R8, R10, R21, R54) -/

/-- E stays within plus or minus 32,768 (R21). -/
def StretchBounded (s : State) : Prop := -32768 ≤ s.reader.e ∧ s.reader.e ≤ 32768

/-- Every station's trim lies within plus or minus 2,000 (R54), and within TRIM_LIM of the station in the ACTIVE slot. The slots
that can be or become ACTIVE hold TRIM_LIM within 0..2,000 (R181). -/
def TrimsBounded (s : State) : Prop :=
  (∀ st, (s.calcs.get st).trim.natAbs ≤ s.trimLimit st) ∧
    ∀ j st e, (s.slots.get j).state ≠ .loading → (s.slots.get j).state ≠ .invalid → s.entry j st = some e →
      e.trimLim ≤ Config.trimTop

/-! ### Power slots (R110) -/

/-- The number of zones that hold a power slot (R102). -/
def State.slotsHeld (s : State) : Nat :=
  (Heat.defaultOrder.filter fun p => (s.zone p.1 p.2).inService).length

/-- At most N_SLOT zones are in service, and none of them is masked or blocked; the priority order ranks each of the 16 zones
once (R104, R110). -/
def PowerLimited (s : State) : Prop :=
  s.slotsHeld ≤ s.settings.nSlot ∧
    (∀ st z, (s.zone st z).inService = true → (s.zone st z).mask = false ∧ (s.zone st z).block = .none) ∧
    s.heat.order.Perm Heat.defaultOrder

/-- A zone that waits for a slot or holds one (R102). -/
def Zone.demand (z : Zone) : Bool := z.request || z.inService

/-- What the grant pass that ends in `t` has granted, `kept` being the zones that held a slot as it began: into the free slots those that
ask and may be granted, of highest rank first, each with its timer at 0. In QUEUED mode, and with MIN_HOLD at or above MAX_HOLD, no other
zone comes to hold a slot, and none that held one loses it or its timer (R102, R104, R110, R112, R113). -/
def GrantsByRank (s t : State) (kept : Idx × Idx → Bool) : Prop :=
  let asks (p : Idx × Idx) : Bool := !kept p && (t.zoneParams p.1 p.2).isSome && (t.zone p.1 p.2).demand &&
    !(t.zone p.1 p.2).mask && decide ((t.zone p.1 p.2).block = .none)
  let granted := (t.heat.order.filter asks).take (t.settings.nSlot - (t.heat.order.filter kept).length)
  (∀ p ∈ granted, (t.zone p.1 p.2).slotTimer = some 0 ∧ (t.zone p.1 p.2).request = false) ∧
    (t.settings.arbMode = .queued ∨ t.settings.maxHold ≤ t.settings.minHold → ∀ a b, (t.zone a b).slotTimer =
      if kept (a, b) then (s.zone a b).slotTimer else if (a, b) ∈ granted then some 0 else none)

/-- The on-set of each station has been handed to its link where it changed (R110, R111). -/
def OnSetsHanded (s t : State) : Prop :=
  ∀ a, let on : Four Bool := .tab fun b => (t.zone a b).inService
    t.heat.onSet.get a = on ∧
      t.links.get a = if s.heat.onSet.get a = on then s.links.get a else (s.links.get a).hand (.heatOrder on)

/-! ### Notices (R165) -/

/-- The pending set of every port holds each pair at most once, in the order of R166. -/
def NoticesOrdered (s : State) : Prop :=
  ∀ p, ((s.ports.get p).pending.map fun n => n.notice.rank).Pairwise (· < ·)

/-! ### Watch units (R168) -/

/-- A unit without an owner holds nothing. R168 has its type absent. That it holds no action and no scope either, after RELEASE WATCH
too, is DEDUCED (log entry 17). -/
def WatchesOwned (s : State) : Prop := ∀ w, (s.watches.get w).owner = none → s.watches.get w = .reset

/-! ### In-flight lists and reserved foil (R60, R91) -/

/-- No station has more than 2 orders in its overdue list (R60). -/
def OverdueBounded (s : State) : Prop := ∀ st, (s.seqr.get st).overdue.length ≤ Config.overdueLimit

/-- The status of a record's order at a station is one of an order in flight (R60). -/
def TrackRecord.ordered (r : TrackRecord) (st : Idx) : Bool :=
  decide ((r.st.get st).status = .committed ∨ (r.st.get st).status = .acked)

/-- The sum of the feeds of a station's in-flight orders on a lane (R91). -/
def State.promised (s : State) (st c : Idx) : Nat :=
  ((s.seqr.get st).inFlight.map fun e => ((s.record e.seq).map fun r => (r.st.get st).feeds.get c).getD 0).sum

/-- A station's in-flight list holds at most 2 orders, each once: those of the records that are COMMITTED or ACKED there (R60), and
the foil reserved on each of its lanes is the sum of their feeds (R91). -/
def OrdersInFlight (s : State) : Prop :=
  ∀ st, (s.seqr.get st).inFlight.length ≤ Config.inFlightLimit ∧ ((s.seqr.get st).inFlight.map (·.seq)).Nodup ∧
    (∀ e ∈ (s.seqr.get st).inFlight, (s.record e.seq).isSome = true) ∧
    (∀ r ∈ s.track, (s.seqr.get st).holds r.seq = r.ordered st) ∧ ∀ c, (s.lane st c).reserved = s.promised st c

/-- The order of a seq is in flight at a station and not yet acknowledged (R68). -/
def State.unacked (s : State) (st : Idx) (q : SeqNo) : Prop :=
  (s.seqr.get st).holds q = true ∧ ∃ r, s.record q = some r ∧ (r.st.get st).status = .committed

/-- What a station awaits is in flight: an awaited or queued order is COMMITTED, only an order waits behind an awaited one (R68), and an
outstanding abort names exactly the orders in flight (R80), in HOLD or at a TRIPPED station in RUN (R84, R138), and outside RUN nothing
else is in flight (R148). The hold context holds at most two entries, each of its own seq (R139), and so would the one that a hold entry
saves after a trip: what the trip found stands in RUN alone, and the order that it withdrew is in flight no more (R141). -/
def OrdersAwaited (s : State) : Prop :=
  ∀ st,
    (∀ q, (s.seqr.get st).awaited = .order q → s.unacked st q) ∧
    (∀ q, (s.seqr.get st).queue = some q → s.unacked st q ∧ ∃ p, (s.seqr.get st).awaited = .order p ∧ p ≠ q) ∧
    ((s.seqr.get st).awaited = .abort → (s.seqr.get st).abortSet = (s.seqr.get st).inFlight.map (·.seq) ∧
      s.line ≠ .stopped ∧ (s.line = .run → (s.seqr.get st).tripped = true)) ∧
    ((s.seqr.get st).awaited ≠ .abort → (s.seqr.get st).abortSet = [] ∧ (s.line ≠ .run → (s.seqr.get st).inFlight = [])) ∧
    (∀ c, (s.seqr.get st).context = some c → c.entries.length ≤ Config.inFlightLimit ∧ (c.entries.map (·.seq)).Nodup) ∧
    ∀ b, (s.seqr.get st).beforeTrip = some b → s.line = .run ∧
      ((s.seqr.get st).awaited = .abort → ∀ x, b.withdrawn = some x →
        (s.seqr.get st).inFlight.length < Config.inFlightLimit ∧ ∀ e ∈ (s.seqr.get st).inFlight, e.seq ≠ x.seq)

/-- Between the two states nothing changes of the stations other than one: their sequencers, calculators, lanes, fault units and links. -/
def SameElsewhere (s t : State) (st : Idx) : Prop :=
  ∀ v, v ≠ st → t.seqr.get v = s.seqr.get v ∧ t.calcs.get v = s.calcs.get v ∧ t.lanes.get v = s.lanes.get v ∧
    t.units.get v = s.units.get v ∧ t.links.get v = s.links.get v

/-- A unit trips in the event that leads from `s` to `t`: HARD stays and TRIPPED becomes set, its first fault is recorded, STOP REQUEST is
asserted, and the station is TRIPPED and UNPHASED (R84, R155). -/
def UnitTripTaken (s t : State) (st : Idx) : Prop :=
  (t.units.get st).hard = true ∧ (t.units.get st).tripped = true ∧ (t.units.get st).soft = (s.units.get st).soft ∧
    (t.units.get st).first ≠ none ∧ t.stopReq.asserted = true ∧ t.stopReq.trip = true ∧
    (t.seqr.get st).tripped = true ∧ (t.calcs.get st).phased = false

/-- A station trips in the event that leads from `s` to `t`, and the orders still in flight are named in an abort, if there are any
(R84, R155, R156). -/
def TripTaken (s t : State) (st : Idx) (left : List InFlight) : Prop :=
  UnitTripTaken s t st ∧ (t.seqr.get st).inFlight = left ∧
    (t.seqr.get st).queue = none ∧ (t.seqr.get st).awaited = (if left = [] then .none else .abort) ∧
    (left ≠ [] → (t.seqr.get st).abortSet = left.map (·.seq) ∧ (t.seqr.get st).timer = some 500)

/-- Of the track only the record of a seq changes, by `f`, and beyond that at most its watch mark. -/
def RecordBecomes (s t : State) (q : SeqNo) (f : TrackRecord → TrackRecord) : Prop :=
  ∃ mark : TrackRecord → Four Bool, t.track = s.track.map fun x => if x.seq = q then { f x with watchMark := mark x } else x

/-- An order joins the in-flight list. Where nothing is awaited its frame is handed to the link and it is awaited for 500 us, and
otherwise it waits in the link queue (R67, R68). -/
def OrderIssued (s t : State) (st : Idx) (q : SeqNo) (phasing : Bool) (frame : LinkFrame) : Prop :=
  let sq := s.seqr.get st
  let listed : Sequencer := { sq with inFlight := sq.inFlight ++ [{ seq := q, phasing := phasing }] }
  if sq.awaited = .none then
    t.seqr.get st = { listed with awaited := .order q, queue := none, timer := some 500 } ∧
      t.links.get st = (s.links.get st).hand frame
  else t.seqr.get st = { listed with queue := some q } ∧ t.links.get st = s.links.get st

/-! ### Aborts and what follows them (R68, R81, R140) -/

/-- Every PENDING entry of a hold context whose seq is among those named takes the abort outcome; the others stay (R140). -/
def contextSettled (c : Option HoldContext) (named : List SeqNo) (o : AbortOutcome) : Option HoldContext :=
  c.map fun c => { c with entries := c.entries.map fun e =>
    if e.seq ∈ named ∧ e.outcome = .pending then { e with outcome := o } else e }

/-- The sequencer has become `sq`, which awaits nothing: the queued order, if any, goes out as its STRIKE ORDER, and is awaited for
500 us (R68, R81, R82). A strike or abort order that had not started to go out leaves the link's waiting list first, which is the
model's choice (log entry 9). -/
def QueuedGoesOut (s t : State) (st : Idx) (sq : Sequencer) : Prop :=
  let link := { s.links.get st with waiting := (s.links.get st).waiting.filter LinkFrame.isHeat }
  match sq.queue.bind s.record with
  | none => t.seqr.get st = sq ∧ t.links.get st = link
  | some r =>
    let f := r.st.get st
    t.seqr.get st = { sq with awaited := .order r.seq, queue := none, timer := some 500 } ∧
      t.links.get st =
        link.hand (.strikeOrder r.seq f.decision (sq.phasing r.seq) (f.target.getD 0) (f.feed.getD (.all 0)))

/-- The sequencer of a station with an abort outstanding has been `sq`, and the order of seq `q` has been closed with the abort outcome
`o`: it is in flight and in the abort set no more, and the hold context holds the outcome. The abort is complete when the set is empty:
nothing is awaited, the timer stops, and a queued order goes out (R81, R83, R140). -/
def AbortSettled (s t : State) (st : Idx) (sq : Sequencer) (q : SeqNo) (o : AbortOutcome) : Prop :=
  let closed : Sequencer := { sq with
    inFlight := sq.inFlight.filter fun e => decide (e.seq ≠ q), abortSet := sq.abortSet.filter fun x => decide (x ≠ q),
    context := contextSettled sq.context [q] o }
  if closed.abortSet = [] then QueuedGoesOut s t st { closed with awaited := .none, timer := none }
  else t.seqr.get st = closed ∧ t.links.get st = s.links.get st

/-- The feeds that the orders of some seqs carried to a lane, summed (R91). -/
def State.feedsOf (s : State) (st c : Idx) (orders : List SeqNo) : Nat :=
  (orders.map fun q => ((s.record q).map fun r => ((r.st.get st).feed.getD (.all 0)).get c).getD 0).sum

/-! ### Restrikes (R100) -/

/-- A lane that can feed has less unpromised foil than the feed of a restrike asks for: it runs out (R90, R100). -/
def restrikeShort (l : Lane) (n : Nat) : Bool :=
  decide (0 < n) && decide (l.state = .ready ∨ l.state = .low) && decide (l.remaining < l.reserved + n)

/-- The feed that the recheck leaves of a recorded feed `n` for the record of seq `q`: none on a lane that cannot feed, that runs out, or
whose first-off awaits approval of another seq (R100). -/
def restrikeFeed (l : Lane) (d : Option Descriptor) (q : SeqNo) (n : Nat) : Nat :=
  if (l.state ≠ .ready ∧ l.state ≠ .low) ∨ l.remaining < l.reserved + n ∨
      (∃ x ∈ d, x.code = .firstOff ∧ x.stage ≠ .vacant ∧ x.stage ≠ .awaiting q) then 0 else n

/-- The lane after the recheck of a recorded feed: OUT where it runs out, and the feed that is kept reserved (R90, R91, R100). -/
def restrikeLane (l : Lane) (d : Option Descriptor) (q : SeqNo) (n : Nat) : Lane :=
  { l with state := if restrikeShort l n then .out else l.state, reserved := l.reserved + restrikeFeed l d q n }

/-- The first-off effects of a feed apply: the code is FIRST_OFF and the stage OPEN (R92, R100). -/
def startsFirstOff (d : Option Descriptor) (fed : Nat) : Bool :=
  match d with
  | some d => decide (0 < fed) && decide (d.code = .firstOff) && decide (d.stage = .vacant)
  | none => false

/-- The descriptor after a feed has been ordered on its lane: a first-off awaits approval with ATTN, ON_REPORT sets ATTN (R92, R100). -/
def fedDescriptor (d : Descriptor) (q : SeqNo) (fed : Nat) : Descriptor :=
  if startsFirstOff (some d) fed then { d with stage := .awaiting q, attn := true }
  else if 0 < fed ∧ d.code = .onReport then { d with attn := true } else d

/-! ### The Splice List (R128) -/

/-- The Splice List holds at most 4 zones (R128). -/
def SplicesBounded (s : State) : Prop := s.splices.length ≤ Config.spliceCapacity

end Sys2Proof.Machine
end

