-- ==== Sys2Proof/Certificates/Slice0/Obligations.lean ====
section
/-! DEFINITION. The statements about the model, for the provers: what each family of commands does, what the whole part keeps, and
the invariants of the manual. -/

open Sys2Proof Sys2Proof.Machine

/-! ### The step, power-on and the web -/

/-- Every step carries out the command at the front of the queue, on the state with the queue's rest. With none waiting it hands over
the next positional event that H has reached (R6), and idles where there is none; that an empty queue does so, and in which order the
owners are asked, is the model's choice (log entries 3 and 5). -/
def Obligations.StepRunsTheFrontCommand : Prop :=
  (∀ (c : Instr) (cs : List Instr) (s : State), s.pending = c :: cs → step s = exec c { s with pending := cs }) ∧
  (∀ (s : State) (e : PositionalEvent), s.pending = [] → s.eventDue = some e → step s = exec e.command s) ∧
    ∀ s : State, s.pending = [] → s.eventDue = none → step s = .next s

/-- Every command answers a next state: the manual describes no command that stops the part. -/
def Obligations.EveryCommandAnswersNext : Prop := ∀ (c : Instr) (s : State), ∃ t, exec c s = .next t

/-- POWER_ON puts every block into its power-on state and takes the E-stop level of the input (R135); the queue of commands, which
is the model's own, stays. That the carriers of the master ports are then up is the model's choice (log entry 2). -/
def Obligations.PowerOnResetsEveryBlock : Prop :=
  ∀ (level : Bool) (s : State), exec (.powerOn level) s = .next { State.reset with estop := level, pending := s.pending }

/-- A change in the order of forward travel adds 1 to W, one in the opposite order subtracts 1, and one of both phases at once is
not counted (R4). H takes W when W is ahead of it and otherwise stays (R5). A counted step first hands over the events that H had
reached and no command has taken, which is the model's choice of their moment (log entry 3); with none left the step changes W, H and
the flag WEB_REVERSAL raised, and nothing else unless it raises the fault. The flag stays as it was through an excursion, and is
cleared by the backward step that takes the reverse distance from 0 to 1 and by the step that brings it back to 0 (R7). A backward step
is a test point: in RUN, with the reverse distance above REVERSE_LIMIT and the flag clear, it raises WEB_REVERSAL at U4, where HARD
becomes set, or the unit trips when it was set already, and sets the flag; a forward step is none (R7, R155). -/
def Obligations.EncoderStepsMoveWebAndHighWater : Prop :=
  (∀ (change : EncoderChange) (s : State), change ≠ .bothPhases →
    let w := if change = .forward then s.web.w + 1 else s.web.w - 1
    ∃ t, exec (.encoderStep change) s = .next t ∧ t.web.w = w ∧
      t.web.h = (if 1 ≤ (w - s.web.h).toNat ∧ (w - s.web.h).toNat < 2 ^ 31 then w else s.web.h) ∧
      t.web.v = s.web.v ∧ t.web.intervalStart = s.web.intervalStart) ∧
  (∀ s : State, exec (.encoderStep .bothPhases) s = .next s) ∧
  (∀ (change : EncoderChange) (events : List PositionalEvent) (s t : State), change ≠ .bothPhases → events.length ≤ 512 →
    HandedOver events s t → exec (.encoderStep change) s = exec (.encoderStep change) t) ∧
  (∀ s : State, s.eventDue = none →
    let w := s.web.w + 1
    let h := if 1 ≤ (w - s.web.h).toNat ∧ (w - s.web.h).toNat < 2 ^ 31 then w else s.web.h
    exec (.encoderStep .forward) s =
      .next { s with web := { s.web with w := w, h := h, reversalRaised := if h = w then false else s.web.reversalRaised } }) ∧
  ∀ s : State, s.eventDue = none → (s.web.h - (s.web.w - 1)).toNat < 2 ^ 31 →
    let distance := (s.web.h - (s.web.w - 1)).toNat
    let flag := if distance ≤ 1 then false else s.web.reversalRaised
    (s.line ≠ .run ∨ distance ≤ s.settings.reverseLimit ∨ flag = true →
      exec (.encoderStep .backward) s = .next { s with web := { s.web with w := s.web.w - 1, reversalRaised := flag } }) ∧
    (s.line = .run → s.settings.reverseLimit < distance → flag = false →
      ∃ t, exec (.encoderStep .backward) s = .next t ∧ t.web = { s.web with w := s.web.w - 1, reversalRaised := true } ∧
        t.lineUnit.hard = true ∧ (s.lineUnit.hard = true → t.lineUnit.tripped = true) ∧
        (s.lineUnit.hard = false → t.lineUnit.tripped = s.lineUnit.tripped) ∧ t.lineUnit.soft = s.lineUnit.soft ∧
        t.lineUnit.first.isSome = true ∧ t.lineUnit.latest = s.lineUnit.latest ∧
        t = { s with web := t.web, lineUnit := t.lineUnit, stopReq := t.stopReq, ports := t.ports })

/-- At the end of an interval V is what H moved in it, at most 4,095, and the next interval starts at H; no other command but power-on
changes V or the start of the running interval (R8). -/
def Obligations.SpeedIntervalMeasuresHighWater : Prop :=
  (∀ s : State, exec .speedIntervalEnd s = .next
    { s with web := { s.web with v := min (s.web.h - s.web.intervalStart).toNat 4095, intervalStart := s.web.h } }) ∧
  ∀ (c : Instr) (s t : State), exec c s = .next t → c ≠ .speedIntervalEnd → (∀ level, c ≠ .powerOn level) →
    t.web.v = s.web.v ∧ t.web.intervalStart = s.web.intervalStart

/-! ### Ports and station links -/

/-- A request frame that arrives at a port becomes the one in service where none is, and is otherwise answered BUSY with its tag and
its code while the request in service stays, whichever request it is (R188); the stages of a request command are the model's (log
entry 6). Loss of a port's carrier drops its request in service, empties its pending set and its transmitter, and keeps its routing
(R191). R191 names the replies and BUSY answers that wait in the transmitter; that the frame being transmitted is discarded with them
is the model's choice (log entry 46). The return of the carrier and a dropped frame change nothing else; the transmitter goes on to
the next frame in the order formed (R187, R188, R191). -/
def Obligations.PortsServeOneRequestAtATime : Prop :=
  (∀ (c : Instr) (hdr : ReqHdr) (code : Byte) (s : State), TripsMirrored s → requestHeader c = some (hdr, code) →
    (s.ports.get hdr.port).carrier = true →
    (hdr.stage = .arrives → (s.ports.get hdr.port).inService = none → exec c s = .next
      { s with ports := s.ports.set hdr.port { s.ports.get hdr.port with inService := some c } }) ∧
    (hdr.stage ≠ .taken → (s.ports.get hdr.port).inService ≠ none → exec c s = exec (.busyAnswer hdr.port hdr.tag code) s)) ∧
  (∀ (p : Port) (tag : Tag) (code : Byte) (s : State), (s.ports.get p).carrier = true → (s.ports.get p).inService ≠ none →
    exec (.busyAnswer p tag code) s = .next
      { s with ports := s.ports.set p
                 { s.ports.get p with
                     tx := (s.ports.get p).tx ++ [{ tag := tag, code := code, result := .busy, body := .empty }] } }) ∧
  (∀ (p : Port) (s : State), (s.ports.get p).carrier = true → exec (.portLinkLoss p) s = .next
    { s with ports := s.ports.set p
               { carrier := false, inService := none, routing := (s.ports.get p).routing, pending := [], tx := [] } }) ∧
  (∀ (p : Port) (s : State), exec (.portCarrierReturn p) s = .next
    { s with ports := s.ports.set p { s.ports.get p with carrier := true } }) ∧
  (∀ (p : Port) (s : State), exec (.portFrameDropped p) s = .next s) ∧
  ∀ (p : Port) (s : State) (r : Reply) (rs : List Reply), (s.ports.get p).tx = r :: rs → exec (.portReplySent p) s = .next
    { s with ports := s.ports.set p { s.ports.get p with tx := rs } }

/-- A frame whose code names no request is answered RANGE with its tag and changes nothing else, at every port and whatever is in
service (R187). A request of the Line Port whose form byte names no form is answered RANGE there and DENIED elsewhere (R189,
R195); both readings are the model's (log entry 23). Every request of the Line Port alone that carries no line state in its reply is
answered DENIED at the other ports, before any other judgement, and changes nothing else (R189). -/
def Obligations.UnknownAndForeignRequestsAreRefused : Prop :=
  (∀ (hdr : ReqHdr) (code : Byte) (s : State), (s.ports.get hdr.port).carrier = true → hdr.stage ≠ .taken →
    codeNamed code = false → exec (.unknownRequest hdr code) s = .next
      { s with ports := s.ports.set hdr.port
                 { s.ports.get hdr.port with
                     tx := (s.ports.get hdr.port).tx ++ [{ tag := hdr.tag, code := code, result := .range, body := .empty }] } }) ∧
  (∀ (hdr : ReqHdr) (code : Byte) (s : State), codeHasForms code = true → s.takes hdr (.unknownRequest · code) →
    exec (.unknownRequest hdr code) s = .next
      (s.answered hdr code (if hdr.port = .line then .range else .denied) .empty)) ∧
  ∀ (hdr : ReqHdr) (s : State) (make : ReqHdr → Instr) (code : Byte), hdr.port ≠ .line → s.takes hdr make →
    ((∃ b t, make = (.editHoldContextTrim · b t) ∧ code = 7) ∨ (∃ b q a, make = (.editHoldContextAction · b q a) ∧ code = 7) ∨
     (∃ b f, make = (.clearFlags · b f) ∧ code = 8) ∨ (∃ b f g, make = (.setFlags · b f g) ∧ code = 9) ∨
     (∃ b, make = (.clearFaultRecord · b) ∧ code = 10) ∨ (∃ a b v, make = (.setZoneMask · a b v) ∧ code = 11) ∨
     (∃ a b v, make = (.finishZone · a b v) ∧ code = 12) ∨ (∃ a b, make = (.setLowest · a b) ∧ code = 13) ∨
     (∃ j b, make = (.beginJob · j b) ∧ code = 14) ∨ (∃ j i, make = (.jobItemGlobal · j i) ∧ code = 15) ∨
     (∃ j b i, make = (.jobItemStation · j b i) ∧ code = 15) ∨ (∃ j a b i, make = (.jobItemZone · j a b i) ∧ code = 15) ∨
     (∃ j a b k l g, make = (.jobItemLane · j a b k l g) ∧ code = 15) ∨
     (∃ j b, make = (.jobItemRemoveStation · j b) ∧ code = 15) ∨ (∃ j, make = (.checkJob · j) ∧ code = 16) ∨
     (∃ j, make = (.switchJob · j) ∧ code = 17) ∨ (∃ l, make = (.writeLineSettings · l) ∧ code = 18)) →
    exec (make hdr) s = .next (s.answered hdr code .denied .empty)

/-- At the return of a station link's carrier the station's current on-set is handed over once, and it starts at once where
nothing waits (R111, R192). Where frames wait it takes the place of a HEAT ORDER among them, or joins behind strike and abort orders, and
the first of them starts (R68, R192). That an order handed over while the carrier was down waits for its return is the model's choice
(log entry 9). A transmitter that finishes a frame starts the next one handed to it. A dropped drive frame does
nothing. -/
def Obligations.StationLinkEventsMoveFrames : Prop :=
  (∀ (st : Idx) (s : State), (s.links.get st).carrier = false → (s.links.get st).sending = none →
    ((s.links.get st).waiting.filter LinkFrame.isHeat).length ≤ 1 →
    let on : Four Bool := .tab fun z => (s.zone st z).inService
    let waiting := (s.links.get st).waiting
    let frames := if waiting.any LinkFrame.isHeat then waiting.map fun f => if f.isHeat then .heatOrder on else f
      else waiting ++ [.heatOrder on]
    exec (.stationCarrierReturn st) s = .next
      { s with links := s.links.set st { carrier := true, sending := frames.head?, waiting := frames.tail },
               heat := { s.heat with onSet := s.heat.onSet.set st on } }) ∧
  (∀ (st : Idx) (s : State) (f : LinkFrame) (fs : List LinkFrame), (s.links.get st).carrier = true →
    (s.links.get st).waiting = f :: fs → exec (.stationFrameSent st) s = .next
      { s with links := s.links.set st { carrier := true, sending := some f, waiting := fs } }) ∧
  (∀ (st : Idx) (s : State), (s.links.get st).waiting = [] → exec (.stationFrameSent st) s = .next
      { s with links := s.links.set st { s.links.get st with sending := none } }) ∧
  ∀ (st : Idx) (s : State), exec (.stationFrameDropped st) s = .next s

/-! ### Fault units by request -/

/-- CLEAR FLAGS: DENIED from another port, RANGE for a unit outside 0..4 or a set that names TRIPPED, and otherwise each named flag
becomes clear and the reply carries the unit's three flags; nothing else of the part changes (R157). -/
def Obligations.ClearFlagsClearsNamedFlags : Prop :=
  ∀ (hdr : ReqHdr) (ub : Byte) (f : FlagSet) (s : State), s.takes hdr (.clearFlags · ub f) →
    exec (.clearFlags hdr ub f) s = .next
      (if hdr.port ≠ .line then s.answered hdr 8 .denied .empty
       else match unitOf ub with
        | none => s.answered hdr 8 .range .empty
        | some u =>
          if f.beyond then s.answered hdr 8 .range .empty
          else
            (s.setUnit u { s.unit u with soft := (s.unit u).soft && !f.soft, hard := (s.unit u).hard && !f.hard }).answered
              hdr 8 .ok (.flags { soft := (s.unit u).soft && !f.soft, hard := (s.unit u).hard && !f.hard,
                                  tripped := (s.unit u).tripped }))

/-- SET FLAGS: DENIED from another port, RANGE for a unit outside 0..4 or a set that names TRIPPED; otherwise a flag named to set becomes
set whether or not it is also named to clear, one named only to clear becomes clear, a flag that goes from clear to set raises its notice
at every port, and the reply carries the unit's three flags; neither record nor STOP REQUEST changes (R158). -/
def Obligations.SetFlagsNeverEscalates : Prop :=
  ∀ (hdr : ReqHdr) (ub : Byte) (f g : FlagSet) (s : State), s.takes hdr (.setFlags · ub f g) →
    exec (.setFlags hdr ub f g) s = .next
      (if hdr.port ≠ .line then s.answered hdr 9 .denied .empty
       else match unitOf ub with
        | none => s.answered hdr 9 .range .empty
        | some u =>
          if f.beyond ∨ g.beyond then s.answered hdr 9 .range .empty
          else
            let soft := f.soft || ((s.unit u).soft && !g.soft)
            let hard := f.hard || ((s.unit u).hard && !g.hard)
            let t := s.setUnit u { s.unit u with soft := soft, hard := hard }
            let t1 := if (s.unit u).soft = false ∧ soft = true then t.offer (.unitSoft u) else t
            let t2 := if (s.unit u).hard = false ∧ hard = true then t1.offer (.unitHard u) else t1
            t2.answered hdr 9 .ok (.flags { soft := soft, hard := hard, tripped := (s.unit u).tripped }))

/-- CLEAR FAULT RECORD empties the first-fault record of its unit and nothing else; an index outside 0..4 is refused RANGE and
another port DENIED (R161). -/
def Obligations.ClearFaultRecordEmptiesTheFirstFault : Prop :=
  ∀ (hdr : ReqHdr) (ub : Byte) (s : State), s.takes hdr (.clearFaultRecord · ub) →
    exec (.clearFaultRecord hdr ub) s = .next
      (if hdr.port ≠ .line then s.answered hdr 10 .denied .empty
       else match unitOf ub with
        | none => s.answered hdr 10 .range .empty
        | some u => (s.setUnit u { s.unit u with first := none }).answered hdr 10 .ok .empty)

/-! ### Watch units -/

/-- ARM WATCH of an unowned unit or one of the port's own, its parameters in range: the unit is claimed and configured with hit and
last hit kept. AT_POSITION, x not beyond 2^23 counts ahead of H, and REPEAT_AT_STATION, its record PENDING at the station, are armed;
FOIL_BELOW and TRIM_BEYOND, x at most 2,000, are tested and take inside. A unit whose condition already holds is met within the
request, and the reply carries the unit after it. REPEAT_AT_STATION is refused NO_REPEAT without its record and STATE where the record
is no longer PENDING, and a parameter outside its range RANGE (R169). That the item of the other kind of condition is cleared is the
model's choice (log entry 29). -/
def Obligations.ArmWatchClaimsItsUnit : Prop :=
  ∀ (hdr : ReqHdr) (ub : Byte) (spec : WatchSpec) (a : WatchAction) (sc : WatchScope) (en : Bool) (w : Idx) (s : State),
    s.takes hdr (.armWatch · ub spec (some a) (some sc) (some en)) → idxOf ub = some w →
    (s.watches.get w).owner = none ∨ (s.watches.get w).owner = some hdr.port →
    let request := exec (.armWatch hdr ub spec (some a) (some sc) (some en)) s
    let armed (c : WatchCondition) (armed inside holds : Bool) : Prop :=
      let u : Watch :=
        { owner := some hdr.port, condition := some c, action := some a, scope := some sc, enabled := en, armed := armed,
          inside := inside, hit := (s.watches.get w).hit || holds,
          lastHit := if holds then some { h := s.web.h, line := s.line, seq := s.track.getLast?.map (·.seq) }
            else (s.watches.get w).lastHit }
      (holds = false → request = .next (({ s with watches := s.watches.set w u } : State).answered hdr 23 .ok (.watch u))) ∧
      (holds = true → ∃ t, request = .next t ∧ t.watches = s.watches.set w u ∧
        (t.ports.get hdr.port).tx = (s.ports.get hdr.port).tx ++
          [{ tag := hdr.tag, code := 23, result := .ok, body := .watch u }] ∧
        t = { s with watches := t.watches, track := t.track, stopReq := t.stopReq, ports := t.ports })
    (∀ x, spec = .atPosition x →
      (8388608 < (x - s.web.h).toInt → request = .next (s.answered hdr 23 .range .empty)) ∧
      ((x - s.web.h).toInt ≤ 8388608 →
        armed (.atPosition x) (!reached s.web.h x) false (reached s.web.h x))) ∧
    (∀ q sb st, spec = .repeatAtStation q sb → idxOf sb = some st →
      (s.record q = none → request = .next (s.answered hdr 23 .noRepeat .empty)) ∧
      (∀ r, s.record q = some r → (r.st.get st).status ≠ .pending → request = .next (s.answered hdr 23 .state .empty)) ∧
      (∀ r, s.record q = some r → (r.st.get st).status = .pending → armed (.repeatAtStation q st) true false false)) ∧
    (∀ sb cb x st c, spec = .foilBelow sb cb x → idxOf sb = some st → idxOf cb = some c →
      let holds := decide (((s.lanes.get st).get c).remaining < x.toNat)
      armed (.foilBelow st c x.toNat) false holds holds) ∧
    (∀ sb x st, spec = .trimBeyond sb x → idxOf sb = some st →
      (2000 < x.toNat → request = .next (s.answered hdr 23 .range .empty)) ∧
      (x.toNat ≤ 2000 →
        let holds := decide (x.toNat < (s.calcs.get st).trim.natAbs)
        armed (.trimBeyond st x.toNat) false holds holds)) ∧
    (∀ q sb cb x, idxOf sb = none →
      spec = .repeatAtStation q sb ∨ spec = .foilBelow sb cb x ∨ spec = .foilBelow cb sb x ∨ (∃ y, spec = .trimBeyond sb y) →
      request = .next (s.answered hdr 23 .range .empty))

/-- A unit owned by another port is refused OWNED at ARM WATCH of every listed type, whatever its parameters, ENABLE WATCH, CLEAR
WATCH HIT and, but for the Line Port, RELEASE WATCH (R169, R170). A unit without an owner is refused STATE at ENABLE WATCH and CLEAR
WATCH HIT, and its RELEASE WATCH is answered OK and changes nothing (R170). ENABLE WATCH and CLEAR WATCH HIT change their one item of
a unit that the port owns; RELEASE WATCH clears the unit, and the Line Port may release any; the reply carries the unit (R170); that
RELEASE clears action and scope too is deduced (log entry 17). -/
def Obligations.WatchUnitsObeyTheirOwner : Prop :=
  ∀ (hdr : ReqHdr) (ub : Byte) (w : Idx) (s : State), idxOf ub = some w →
    (∀ p, (s.watches.get w).owner = some p → p ≠ hdr.port →
      (∀ spec a sc en, spec ≠ .unlisted → s.takes hdr (.armWatch · ub spec (some a) (some sc) (some en)) →
        exec (.armWatch hdr ub spec (some a) (some sc) (some en)) s = .next (s.answered hdr 23 .owned .empty)) ∧
      (∀ v, s.takes hdr (.enableWatch · ub (some v)) →
        exec (.enableWatch hdr ub (some v)) s = .next (s.answered hdr 24 .owned .empty)) ∧
      (s.takes hdr (.clearWatchHit · ub) → exec (.clearWatchHit hdr ub) s = .next (s.answered hdr 25 .owned .empty)) ∧
      (s.takes hdr (.releaseWatch · ub) → hdr.port ≠ .line →
        exec (.releaseWatch hdr ub) s = .next (s.answered hdr 26 .owned .empty))) ∧
    ((s.watches.get w).owner = none →
      (∀ v, s.takes hdr (.enableWatch · ub (some v)) →
        exec (.enableWatch hdr ub (some v)) s = .next (s.answered hdr 24 .state .empty)) ∧
      (s.takes hdr (.clearWatchHit · ub) → exec (.clearWatchHit hdr ub) s = .next (s.answered hdr 25 .state .empty)) ∧
      (s.takes hdr (.releaseWatch · ub) → exec (.releaseWatch hdr ub) s = .next
        (s.answered hdr 26 .ok (.watch (s.watches.get w))))) ∧
    ((s.watches.get w).owner = some hdr.port →
      (∀ v, s.takes hdr (.enableWatch · ub (some v)) → exec (.enableWatch hdr ub (some v)) s = .next
        ({ s with watches := s.watches.set w { s.watches.get w with enabled := v } }.answered hdr 24 .ok
          (.watch { s.watches.get w with enabled := v }))) ∧
      (s.takes hdr (.clearWatchHit · ub) → exec (.clearWatchHit hdr ub) s = .next
        ({ s with watches := s.watches.set w { s.watches.get w with hit := false } }.answered hdr 25 .ok
          (.watch { s.watches.get w with hit := false })))) ∧
    (∀ p, (s.watches.get w).owner = some p → p = hdr.port ∨ hdr.port = .line → s.takes hdr (.releaseWatch · ub) →
      exec (.releaseWatch hdr ub) s = .next
        ({ s with watches := s.watches.set w .reset }.answered hdr 26 .ok (.watch .reset)))

/-- H has reached x of an armed AT_POSITION unit: the unit is met once and disarms, its hit and last hit are set with the tail as the
record concerned, and an enabled unit takes its one action (R171, R172). -/
def Obligations.PositionWatchIsMetOnce : Prop :=
  ∀ (w : Idx) (x : Pos) (s : State), (s.watches.get w).armed = true → (s.watches.get w).condition = some (.atPosition x) →
    (s.web.h - x).toNat < 2 ^ 31 →
    ∃ t, exec (.positionWatch w) s = .next t ∧
      t.watches = s.watches.set w
        { s.watches.get w with
            armed := false, hit := true,
            lastHit := some { h := s.web.h, line := s.line, seq := s.track.getLast?.map (·.seq) } } ∧
      t = { s with watches := t.watches, track := t.track, stopReq := t.stopReq, ports := t.ports } ∧
      ((s.watches.get w).enabled = false → t = { s with watches := t.watches }) ∧
      ((s.watches.get w).enabled = true → (s.watches.get w).action = some .notice → ∀ p, (s.watches.get w).owner = some p →
        t = { s with watches := t.watches, ports := s.ports.set p ((s.ports.get p).offer (.watchHit w)) }) ∧
      ((s.watches.get w).enabled = true → (s.watches.get w).action = some .mark →
        t = { s with watches := t.watches, track := t.track } ∧
          ∀ r, s.track.getLast? = some r → t.record r.seq = (s.record r.seq).map fun r =>
            { r with watchMark := r.watchMark.set w true }) ∧
      ((s.watches.get w).enabled = true → (s.watches.get w).action = some .stop →
        t.stopReq = { s.stopReq with asserted := true, watch := true } ∧
          t = { s with watches := t.watches, stopReq := t.stopReq, ports := t.ports })

/-- A unit armed for a record at a station is met by the record's commit there, whatever its decision: it disarms with its hit and last
hit set, and an enabled MARK marks the record; a unit of any other record or station stays as it is (R171, R173). A FOIL_BELOW unit is
tested at an accepted REPORT FOIL ROLL of its lane and a TRIM_BEYOND unit where RESUME loads a changed trim: outside it is met by a
condition that now holds, inside it leaves by one that no longer does, and otherwise it stays (R174). -/
def Obligations.WatchesAreMetByTheirBlocks : Prop :=
  (∀ (st : Idx) (r : TrackRecord) (s : State), TripsMirrored s → s.commitTurn st = some r → s.record r.seq = some r →
    (∃ e, s.entry r.slot st = some e) →
    ∃ t, exec (.commit st r.seq) s = .next t ∧ ∀ w q sb, (s.watches.get w).condition = some (.repeatAtStation q sb) →
      t.watches.get w = (if (s.watches.get w).armed = true ∧ q = r.seq ∧ sb = st then
        { s.watches.get w with
            armed := false, hit := true, lastHit := some { h := s.web.h, line := s.line, seq := some r.seq } }
        else s.watches.get w) ∧
      ((s.watches.get w).armed = true → q = r.seq → sb = st → (s.watches.get w).enabled = true →
        (s.watches.get w).action = some .mark → (t.record r.seq).map (fun x => x.watchMark.get w) = some true)) ∧
  let tested (s : State) (line : LineState) (u : Watch) (holds : Bool) : Watch :=
    if holds then
      if u.inside then u
      else { u with inside := true, hit := true, lastHit := some { h := s.web.h, line := line, seq := s.track.getLast?.map (·.seq) } }
    else { u with inside := false }
  (∀ (hdr : ReqHdr) (sb cb : Byte) (st c : Idx) (n : BitVec 32) (s : State), s.takes hdr (.reportFoilRoll · sb cb n) →
    hdr.port = .roll → idxOf sb = some st → idxOf cb = some c → s.line ≠ .run ∨ ((s.lanes.get st).get c).reserved = 0 →
    ∃ t, exec (.reportFoilRoll hdr sb cb n) s = .next t ∧
      (∀ w x, (s.watches.get w).condition = some (.foilBelow st c x) →
        t.watches.get w = tested s s.line (s.watches.get w) (decide (n.toNat < x))) ∧
      ∀ w, (∀ x, (s.watches.get w).condition ≠ some (.foilBelow st c x)) → t.watches.get w = s.watches.get w) ∧
  ∀ (hdr : ReqHdr) (s : State), s.takes hdr .resume → hdr.port = .line → TripsMirrored s → s.line = .hold → s.estop = false →
    (∀ st, (s.seqr.get st).awaited ≠ .abort) → (∀ st e, e ∈ s.entries st → e.action = .skip) →
    ∃ t, exec (.resume hdr) s = .next t ∧ ∀ w st x c, (s.watches.get w).condition = some (.trimBeyond st x) →
      (s.seqr.get st).context = some c →
      let trim := clampAbs (s.trimLimit st) c.trim
      t.watches.get w = if trim = (s.calcs.get st).trim then s.watches.get w
        else tested s .run (s.watches.get w) (decide (x < trim.natAbs))

/-! ### Jobs and line settings -/

/-- BEGIN JOB at the Line Port with a slot and a source that are listed: IN_USE for an ACTIVE, RETIRING or LOADING slot, STATE for
a COPY of a slot that is EMPTY or LOADING, and otherwise the slot becomes LOADING with the record of its source, every lane
descriptor with its flags reset, and no failing check and no RETIRE_DIST (R179). -/
def Obligations.BeginJobLoadsASlot : Prop :=
  ∀ (hdr : ReqHdr) (jb : Byte) (src : JobSource) (j : Slot) (s : State), s.takes hdr (.beginJob · jb (some src)) →
    hdr.port = .line → slotOf jb = some j →
    exec (.beginJob hdr jb (some src)) s = .next
      (if (s.slots.get j).state = .active ∨ (s.slots.get j).state = .retiring ∨ (s.slots.get j).state = .loading then
        s.answered hdr 14 .inUse .empty
       else if src = .copy ∧ ((s.slots.get j.other).state = .empty ∨ (s.slots.get j.other).state = .loading) then
        s.answered hdr 14 .state .empty
       else
        let job : JobRecord := match src with
          | .blank => .blank
          | .keep => (s.slots.get j).job.getD .blank
          | .copy => (s.slots.get j.other).job.getD .blank
        let slot : JobSlot :=
          { state := .loading, refs := (s.slots.get j).refs, failing := none, retireDist := none, job := some job.clearLanes }
        ({ s with slots := s.slots.set j slot } : State).answered hdr 14 .ok .empty)

/-- JOB ITEM at the Line Port writes a LOADING slot whose record is `r`: a global parameter, a whole station entry (its zones and
descriptors as R180 has them follow), one zone of a present station, one descriptor of a foil station with its flags reset, or the
removal of a station; nothing else of the record, the slot or the part changes but the reply, which carries the item as stored. A
value outside its range is stored too (R180). -/
def Obligations.JobItemsWriteTheirItem : Prop :=
  ∀ (hdr : ReqHdr) (jb sb cb : Byte) (j : Slot) (st c : Idx) (r : JobRecord) (s : State), hdr.port = .line →
    slotOf jb = some j → idxOf sb = some st → idxOf cb = some c → (s.slots.get j).state = .loading →
    (s.slots.get j).job = some r →
    let stored (r : JobRecord) : State := { s with slots := s.slots.set j { s.slots.get j with job := some r } }
    (∀ item : GlobalItem, item ≠ .unlisted → s.takes hdr (.jobItemGlobal · jb item) → exec (.jobItemGlobal hdr jb item) s = .next
      (let g := r.globals
       let written : JobGlobals := match item with
         | .pitch v => { g with pitch := some v.toNat }
         | .window v => { g with window := some v.toNat }
         | .lockN v => { g with lockN := v.toNat }
         | .coastMax v => { g with coastMax := v.toNat }
         | .stretchSmooth v => { g with stretchSmooth := v.toNat }
         | .strikeMinSpeed v => { g with strikeMinSpeed := v.toNat }
         | .columnsUsed v => { g with columns := some v }
         | .splBefore v => { g with splBefore := v.toNat }
         | .splAfter v => { g with splAfter := v.toNat }
         | .unknownFeed b => { g with unknownFeed := b }
         | .coastPolicy b => { g with coastPredict := b }
         | .unlisted => g
       (stored { r with globals := written }).answered hdr 15 .ok (.stored (.global item)))) ∧
    (∀ (item : StationItem) (t : StationType) (l : Bool), item.type = some t → item.liftOnReject = some l →
      s.takes hdr (.jobItemStation · jb sb item) → exec (.jobItemStation hdr jb sb item) s = .next
        (let entry : StationEntry :=
          { type := t, d := item.d.toNat, a := item.a.toNat, lead := item.lead.toNat, reportSpan := item.reportSpan.toNat,
            stepMax := item.stepMax.toNat, tol := item.tol.toNat, trimLim := item.trimLim.toNat, gain := item.gain.toNat,
            slew := item.slew.toNat, liftOnReject := l,
            zones := ((r.stations.get st).map (·.zones)).getD
              (.all { enabled := false, setpoint := 0, band := 1, reqOffset := 1, mode := .level }),
            lanes := if t = .emboss then none else some (((r.stations.get st).bind (·.lanes)).getD
              (.all { code := .off, lf := 0, gf := 200, struck := false, attn := false, stage := .vacant })) }
         (stored { r with stations := r.stations.set st (some entry) }).answered hdr 15 .ok (.stored (.station st item)))) ∧
    (∀ (item : ZoneItem) (en : Bool) (m : ZoneMode) (e : StationEntry), item.enabled = some en → item.mode = some m →
      r.stations.get st = some e → s.takes hdr (.jobItemZone · jb sb cb item) →
      exec (.jobItemZone hdr jb sb cb item) s = .next
        (let zone : ZoneParams :=
          { enabled := en, setpoint := item.setpoint.toNat, band := item.band.toNat, reqOffset := item.reqOffset.toNat,
            mode := m }
         (stored { r with stations := r.stations.set st (some { e with zones := e.zones.set c zone }) }).answered hdr 15 .ok
          (.stored (.zone st c item)))) ∧
    (∀ (k : LaneCode) (lf gf : BitVec 16) (e : StationEntry) (ls : Four Descriptor), r.stations.get st = some e →
      e.lanes = some ls → s.takes hdr (.jobItemLane · jb sb cb (some k) lf gf) →
      exec (.jobItemLane hdr jb sb cb (some k) lf gf) s = .next
        (let lane : Descriptor :=
          { code := k, lf := lf.toNat, gf := gf.toNat, struck := false, attn := false, stage := .vacant }
         (stored { r with stations := r.stations.set st (some { e with lanes := some (ls.set c lane) }) }).answered hdr 15 .ok
          (.stored (.lane st c k lf gf)))) ∧
    (s.takes hdr (.jobItemRemoveStation · jb sb) → exec (.jobItemRemoveStation hdr jb sb) s = .next
      ((stored { r with stations := r.stations.set st none }).answered hdr 15 .ok (.stored (.removed st))))

/-- JOB ITEM in any form of a slot that is not LOADING, ZONE for an absent station, and LANE for an absent station or one of type
EMBOSS (whose entry holds no descriptors) are refused STATE and write nothing (R180). -/
def Obligations.JobItemsNeedALoadingSlot : Prop :=
  ∀ (hdr : ReqHdr) (jb sb cb : Byte) (j : Slot) (st c : Idx) (s : State), hdr.port = .line → slotOf jb = some j →
    idxOf sb = some st → idxOf cb = some c →
    (∀ item : GlobalItem, item ≠ .unlisted → (s.slots.get j).state ≠ .loading → s.takes hdr (.jobItemGlobal · jb item) →
      exec (.jobItemGlobal hdr jb item) s = .next (s.answered hdr 15 .state .empty)) ∧
    (∀ (item : StationItem) (t : StationType) (l : Bool), item.type = some t → item.liftOnReject = some l →
      (s.slots.get j).state ≠ .loading → s.takes hdr (.jobItemStation · jb sb item) →
      exec (.jobItemStation hdr jb sb item) s = .next (s.answered hdr 15 .state .empty)) ∧
    ((s.slots.get j).state ≠ .loading → s.takes hdr (.jobItemRemoveStation · jb sb) →
      exec (.jobItemRemoveStation hdr jb sb) s = .next (s.answered hdr 15 .state .empty)) ∧
    (∀ (item : ZoneItem) (en : Bool) (m : ZoneMode), item.enabled = some en → item.mode = some m →
      (s.slots.get j).state ≠ .loading ∨ s.entry j st = none → s.takes hdr (.jobItemZone · jb sb cb item) →
      exec (.jobItemZone hdr jb sb cb item) s = .next (s.answered hdr 15 .state .empty)) ∧
    (∀ (k : LaneCode) (lf gf : BitVec 16), (s.slots.get j).state ≠ .loading ∨ (s.entry j st).bind (·.lanes) = none →
      s.takes hdr (.jobItemLane · jb sb cb (some k) lf gf) →
      exec (.jobItemLane hdr jb sb cb (some k) lf gf) s = .next (s.answered hdr 15 .state .empty))

/-- CHECK JOB of a LOADING slot at the Line Port: with a failing check the slot becomes INVALID, the check and its item are stored and
the reply INVALID carries them; with none it becomes READY, RETIRE_DIST is stored, and the reply OK carries it with the depth
(R181, R182). -/
def Obligations.CheckJobJudgesALoadedSlot : Prop :=
  ∀ (hdr : ReqHdr) (jb : Byte) (j : Slot) (r : JobRecord) (s : State), s.takes hdr (.checkJob · jb) → hdr.port = .line →
    slotOf jb = some j →
    ((s.slots.get j).state ≠ .loading → exec (.checkJob hdr jb) s = .next (s.answered hdr 16 .state .empty)) ∧
    ((s.slots.get j).state = .loading → (s.slots.get j).job = some r → exec (.checkJob hdr jb) s = .next
      (match r.firstFailing with
        | some f => ({ s with slots := s.slots.set j { s.slots.get j with state := .invalid, failing := some f } } :
            State).answered hdr 16 .invalid (.checkFailed f)
        | none => ({ s with slots := s.slots.set j { s.slots.get j with state := .ready, retireDist := some r.retireDist } } :
            State).answered hdr 16 .ok (.checkPassed r.retireDist (r.retireDist / (r.globals.p - r.globals.wWin) + 2))))

/-- A record passes CHECK JOB exactly when it meets every bound of R180 and R181, and otherwise the first check in the order of R181 that
it does not meet is the failing one. RANGES asks for the global parameters, each there and in its range, for every present station's nine
values, its four zones, and its four descriptors where it has them, A within 65,534; WINDOW for 4 x W_win no more than P; ANCHOR for A
below P; LEAD for LEAD above TRIM_LIM + 1,000 and below D; FEED for F no more than P in a used column whose code is not OFF; NO_STATION
for some station; TOO_DEEP for a depth of at most 48. The item of RANGES, ANCHOR, LEAD and FEED is the first that is judged wrong, in
the order of R181. RETIRE_DIST is the greatest of D + A + TRIM_LIM + REPORT_SPAN over the present stations, plus 1, and of a record that
passes it lies in 2,502..3,133,070 (R182). -/
def Obligations.CheckedJobsMeetEveryBound : Prop :=
  ∀ r : JobRecord,
    let g := r.globals
    let term (e : StationEntry) : Nat := e.d + e.a + e.trimLim + e.reportSpan
    let each (items : Idx → StationEntry → List (CheckItem × Prop)) : List (CheckItem × Prop) :=
      Idx.all.flatMap fun st => ((r.stations.get st).map (items st)).getD []
    let lanes (st : Idx) (e : StationEntry) (good : Idx → Descriptor → Prop) : List (CheckItem × Prop) :=
      (e.lanes.map fun ls => Idx.all.map fun c => (CheckItem.lane st c, good c (ls.get c))).getD []
    let ranges : List (CheckItem × Prop) :=
      [(.parameter .pitch, ∃ p ∈ g.pitch, 8000 ≤ p ∧ p ≤ 65535), (.parameter .window, ∃ w ∈ g.window, 50 ≤ w ∧ w ≤ 4000),
       (.parameter .lockN, 1 ≤ g.lockN ∧ g.lockN ≤ 8), (.parameter .coastMax, g.coastMax ≤ 8),
       (.parameter .stretchSmooth, g.stretchSmooth ≤ 6), (.parameter .strikeMinSpeed, g.strikeMinSpeed ≤ 1000),
       (.parameter .columnsUsed, ∃ used ∈ g.columns, ∃ c, used.get c = true), (.parameter .splBefore, g.splBefore ≤ 65535),
       (.parameter .splAfter, g.splAfter ≤ 65535)] ++
      each fun st e =>
        [(.station st, (1 ≤ e.d ∧ e.d ≤ 3000000) ∧ e.a ≤ 65534 ∧ (2000 ≤ e.lead ∧ e.lead ≤ 200000) ∧
          (500 ≤ e.reportSpan ∧ e.reportSpan ≤ 65535) ∧ (1 ≤ e.stepMax ∧ e.stepMax ≤ 2000) ∧ (1 ≤ e.tol ∧ e.tol ≤ 500) ∧
          e.trimLim ≤ 2000 ∧ e.gain ≤ 16 ∧ 1 ≤ e.slew ∧ e.slew ≤ 255)] ++
        (Idx.all.map fun z => (.zone st z, (e.zones.get z).setpoint ≤ 2500 ∧
          (1 ≤ (e.zones.get z).band ∧ (e.zones.get z).band ≤ 100) ∧
          1 ≤ (e.zones.get z).reqOffset ∧ (e.zones.get z).reqOffset ≤ 200)) ++
        lanes st e fun _ d => d.lf ≤ 65535 ∧ 200 ≤ d.gf ∧ d.gf ≤ 65535
    let anchor := each fun st e => [(.station st, ∀ p ∈ g.pitch, e.a < p)]
    let lead := each fun st e => [(.station st, e.trimLim + 1000 < e.lead ∧ e.lead < e.d)]
    let feed := each fun st e => lanes st e fun c d =>
      ∀ p ∈ g.pitch, ∀ used ∈ g.columns, used.get c = true → d.code ≠ .off → d.lf + d.gf ≤ p
    let all (items : List (CheckItem × Prop)) : Prop := ∀ x ∈ items, x.2
    let checks : List (CheckName × Prop) :=
      [(.ranges, all ranges), (.window, ∀ p ∈ g.pitch, ∀ w ∈ g.window, 4 * w ≤ p), (.anchor, all anchor), (.lead, all lead),
       (.feed, all feed), (.noStation, ∃ st, r.stations.get st ≠ none),
       (.tooDeep, ∀ p ∈ g.pitch, ∀ w ∈ g.window, r.retireDist / (p - w) + 2 ≤ 48)]
    (r.firstFailing = none ↔ ∀ x ∈ checks, x.2) ∧
    (∀ n x, checks[n]? = some x → (∀ y ∈ checks.take n, y.2) → ¬ x.2 → r.firstFailing.map (·.check) = some x.1) ∧
    (∀ x ∈ [(CheckName.ranges, ranges), (.anchor, anchor), (.lead, lead), (.feed, feed)], ∀ n i, x.2[n]? = some i →
      r.firstFailing.map (·.check) = some x.1 → (∀ y ∈ x.2.take n, y.2) → ¬ i.2 → r.firstFailing = some ⟨x.1, i.1⟩) ∧
    (∀ st e, r.stations.get st = some e → term e + 1 ≤ r.retireDist) ∧
    ((∃ st, r.stations.get st ≠ none) → ∃ st e, r.stations.get st = some e ∧ r.retireDist = term e + 1) ∧
    (r.firstFailing = none → 2502 ≤ r.retireDist ∧ r.retireDist ≤ 3133070)

/-- SWITCH JOB to a READY slot at the Line Port: the slot becomes ACTIVE with its descriptors' flags reset; the one that was ACTIVE
becomes RETIRING, or READY when no record references it; JOB-scope watch units are disabled; every trim lies within the new slot's
TRIM_LIM; the reader starts over, IDLE in STOPPED and in ACQUIRE otherwise; a zone not enabled in the new slot loses its request and
its slot, the others keep their demand through the grant pass that follows, and mask, block, reading, age, stale flags and priority
order stay (R119); JOB_SWITCHED is offered to every port. Of a track record nothing but its watch mark can change (a trim watch that
the clamp meets); the line, the phase states, the sequencers, the lanes, the Splice List, the fault units and the settings stay
(R183). A slot in any other state is refused STATE. -/
def Obligations.SwitchJobActivatesAReadySlot : Prop :=
  ∀ (hdr : ReqHdr) (jb : Byte) (j : Slot) (s : State), s.takes hdr (.switchJob · jb) → hdr.port = .line →
    slotOf jb = some j →
    ((s.slots.get j).state ≠ .ready → exec (.switchJob hdr jb) s = .next (s.answered hdr 17 .state .empty)) ∧
    ((s.slots.get j).state = .ready → ∃ t, exec (.switchJob hdr jb) s = .next t ∧
      t.slots.get j = { s.slots.get j with state := .active, job := (s.slots.get j).job.map JobRecord.clearLanes } ∧
      (let old := s.slots.get j.other
       t.slots.get j.other =
        { old with state := if old.state = .active then (if old.refs = 0 then .ready else .retiring) else old.state }) ∧
      (∀ w, (s.watches.get w).scope = some .job → (t.watches.get w).enabled = false) ∧
      (∀ w, (s.watches.get w).scope ≠ some .job → (t.watches.get w).enabled = (s.watches.get w).enabled) ∧
      (∀ st, (t.calcs.get st).phased = (s.calcs.get st).phased ∧ (t.calcs.get st).last = (s.calcs.get st).last ∧
        (t.calcs.get st).trim = clampAbs (((s.entry j st).map (·.trimLim)).getD 2000) (s.calcs.get st).trim) ∧
      t.reader = { state := if s.line = .stopped then .idle else .acquire, last := none, lock := 0, coast := 0, e := 0,
                   event := none } ∧
      (t.ports.get .line).tx = (s.ports.get .line).tx ++
        [{ tag := hdr.tag, code := 17, result := .ok, body := .slotStates ⟨t.slots.s0.state, t.slots.s1.state⟩ }] ∧
      (∃ mark : TrackRecord → Four Bool, t.track = s.track.map fun r => { r with watchMark := mark r }) ∧
      t.heat.stale = s.heat.stale ∧ t.heat.order = s.heat.order ∧
      (∀ a b, (t.zone a b).mask = (s.zone a b).mask ∧ (t.zone a b).block = (s.zone a b).block ∧
        (t.zone a b).reading = (s.zone a b).reading ∧ (t.zone a b).age = (s.zone a b).age ∧
        (t.zone a b).demand = ((t.zoneParams a b).isSome && (s.zone a b).demand)) ∧
      (s.heat.order.Perm Heat.defaultOrder → 0 < s.settings.minHold → ∀ p, t.eligible p = true → s.settings.nSlot ≤ t.slotsHeld) ∧
      (∀ p, (s.ports.get p).routing.cls .jobSwitched ≠ .off → ∃ x ∈ (t.ports.get p).pending, x.notice = .jobSwitched) ∧
      t = { s with slots := t.slots, watches := t.watches, calcs := t.calcs, reader := t.reader, heat := t.heat,
                   links := t.links, ports := t.ports, track := t.track, stopReq := t.stopReq })

/-- WRITE LINE SETTINGS at the Line Port: STATE outside STOPPED; RANGE for a name or a lane not listed, a value outside its range, or
a setting named twice; otherwise every named setting takes its value together, every other one stays, and the reply carries them all
(R185). STATE outside STOPPED for a list with a setting that is not listed too is the model's choice (log entry 47): R195 has a
request whose form byte names no form answered RANGE. The ranges are N_SLOT 1..8, MIN_HOLD 50..5,000, MAX_HOLD 100..30,000, OVER_LIMIT
50..500, SPLICE_DIST 0..2,000,000 and REVERSE_LIMIT 1,000..500,000; ARB_MODE and a lane's low threshold take every value of their
form. The arbiter takes the write, after which no more zones hold a slot than N_SLOT, where the priority order ranks each zone once
(R120). -/
def Obligations.LineSettingsAreWrittenTogether : Prop :=
  ∀ (hdr : ReqHdr) (items : List SettingItem) (s : State), s.takes hdr (.writeLineSettings · items) → hdr.port = .line →
    let inRange : SettingItem → Prop := fun item =>
      match item with
      | .nSlot v => 1 ≤ v.toNat ∧ v.toNat ≤ 8
      | .minHold v => 50 ≤ v.toNat ∧ v.toNat ≤ 5000
      | .maxHold v => 100 ≤ v.toNat ∧ v.toNat ≤ 30000
      | .arbMode _ => True
      | .overLimit v => 50 ≤ v.toNat ∧ v.toNat ≤ 500
      | .spliceDist v => v.toNat ≤ 2000000
      | .reverseLimit v => 1000 ≤ v.toNat ∧ v.toNat ≤ 500000
      | .lowThreshold sb cb _ => sb.toNat ≤ 3 ∧ cb.toNat ≤ 3
      | .unlisted => False
    let sameSetting : SettingItem → SettingItem → Prop := fun a b =>
      match a, b with
      | .nSlot _, .nSlot _ | .minHold _, .minHold _ | .maxHold _, .maxHold _ | .arbMode _, .arbMode _ => True
      | .overLimit _, .overLimit _ | .spliceDist _, .spliceDist _ | .reverseLimit _, .reverseLimit _ => True
      | .lowThreshold sb cb _, .lowThreshold sb' cb' _ => sb = sb' ∧ cb = cb'
      | _, _ => False
    let good := (∀ item ∈ items, inRange item) ∧ items.Pairwise fun a b => ¬ sameSetting a b
    (s.line ≠ .stopped → exec (.writeLineSettings hdr items) s = .next (s.answered hdr 18 .state .empty)) ∧
    (s.line = .stopped → ¬ good → exec (.writeLineSettings hdr items) s = .next (s.answered hdr 18 .range .empty)) ∧
    (s.line = .stopped → good →
      ∃ t, exec (.writeLineSettings hdr items) s = .next t ∧
        (∀ v, .nSlot v ∈ items → t.settings.nSlot = v.toNat) ∧
        ((∀ v, .nSlot v ∉ items) → t.settings.nSlot = s.settings.nSlot) ∧
        (∀ v, .minHold v ∈ items → t.settings.minHold = v.toNat) ∧
        ((∀ v, .minHold v ∉ items) → t.settings.minHold = s.settings.minHold) ∧
        (∀ v, .maxHold v ∈ items → t.settings.maxHold = v.toNat) ∧
        ((∀ v, .maxHold v ∉ items) → t.settings.maxHold = s.settings.maxHold) ∧
        (∀ v, .arbMode v ∈ items → t.settings.arbMode = v) ∧
        ((∀ v, .arbMode v ∉ items) → t.settings.arbMode = s.settings.arbMode) ∧
        (∀ v, .overLimit v ∈ items → t.settings.overLimit = v.toNat) ∧
        ((∀ v, .overLimit v ∉ items) → t.settings.overLimit = s.settings.overLimit) ∧
        (∀ v, .spliceDist v ∈ items → t.settings.spliceDist = v.toNat) ∧
        ((∀ v, .spliceDist v ∉ items) → t.settings.spliceDist = s.settings.spliceDist) ∧
        (∀ v, .reverseLimit v ∈ items → t.settings.reverseLimit = v.toNat) ∧
        ((∀ v, .reverseLimit v ∉ items) → t.settings.reverseLimit = s.settings.reverseLimit) ∧
        (∀ (st c : Idx) (sb cb : Byte), sb.toNat = st.toNat → cb.toNat = c.toNat →
          (∀ v, .lowThreshold sb cb v ∈ items → (t.settings.low.get st).get c = v.toNat) ∧
          ((∀ v, .lowThreshold sb cb v ∉ items) → (t.settings.low.get st).get c = (s.settings.low.get st).get c)) ∧
        (t.ports.get .line).tx = (s.ports.get .line).tx ++
          [{ tag := hdr.tag, code := 18, result := .ok, body := .settings t.settings }] ∧
        (s.heat.order.Perm Heat.defaultOrder → t.slotsHeld ≤ t.settings.nSlot) ∧
        t = { s with settings := t.settings, heat := t.heat, links := t.links, ports := t.ports })

/-! ### Reads, notices and outcomes -/

/-- The seven reads answer with what stands when the request is taken, RANGE for an index outside 0..3 (0..4 for a fault unit) and
NO_REPEAT for a seq that is not in the track, and change nothing but the transmitter of their port. READ TRACK answers up to 8 records
from the one named toward the tail (R33); READ STATION, READ LANE, READ ZONE and READ LINE gather what R190, R86 and R102 name, F in
place of L_f and G_f and the HOT state by R118; that "every item above" of R102 takes in the station's stale flag and on-set, and of the
priority order the rank alone, is the model's choice (log entry 55). READ FAULT RECORD and READ WATCH answer the unit as it stands (R161,
R168). The body of a READ TRACK reply stays within the 2,048 bytes of a frame, whatever its 8 records hold (R190). -/
def Obligations.ReadsAnswerWhatStands : Prop :=
  (∀ rs : List TrackRecord, rs.length ≤ 8 → (ReplyBody.track rs).bytes.length ≤ 2048) ∧
  ∀ (hdr : ReqHdr) (q : SeqNo) (ib cb : Byte) (s : State),
    (s.takes hdr (.readTrack · q) → exec (.readTrack hdr q) s = .next (match s.record q with
      | some _ => s.answered hdr 27 .ok (.track ((s.track.dropWhile fun r => decide (r.seq ≠ q)).take 8))
      | none => s.answered hdr 27 .noRepeat .empty)) ∧
    (s.takes hdr (.readStation · ib) → exec (.readStation hdr ib) s = .next (match idxOf ib with
      | some st =>
        let q := s.seqr.get st
        let c := s.calcs.get st
        s.answered hdr 28 .ok (.station
          { tripped := q.tripped,
            inFlight := q.inFlight.filterMap fun e => (s.record e.seq).map fun r => (e.seq, (r.st.get st).status),
            awaited := q.awaited, abortSet := q.abortSet, overdue := q.overdue, trim := c.trim, phased := c.phased, last := c.last,
            context := q.context, params := .tab fun j => (s.slots.get j).job.bind fun r => r.stations.get st })
      | none => s.answered hdr 28 .range .empty)) ∧
    (s.takes hdr (.readLane · ib cb) → exec (.readLane hdr ib cb) s = .next (match idxOf ib, idxOf cb with
      | some st, some c =>
        let l := (s.lanes.get st).get c
        s.answered hdr 29 .ok (.lane
          { state := l.state, remaining := l.remaining, reserved := l.reserved, low := (s.settings.low.get st).get c,
            descriptors := .tab fun j => (((s.slots.get j).job.bind fun r => r.stations.get st).bind (·.lanes)).map fun ls =>
              let d := ls.get c
              { code := d.code, feed := d.lf + d.gf, struck := d.struck, attn := d.attn, stage := d.stage } })
      | _, _ => s.answered hdr 29 .range .empty)) ∧
    (s.takes hdr (.readZone · ib cb) → exec (.readZone hdr ib cb) s = .next (match idxOf ib, idxOf cb with
      | some st, some z =>
        let enabled (b : Idx) : Option ZoneParams :=
          (s.active.bind fun j => s.entry j st).bind fun e => if (e.zones.get b).enabled then some (e.zones.get b) else none
        let inBand (b : Idx) : Bool := (enabled b).all fun p =>
          let q := (s.heat.zones.get st).get b
          decide (q.block = .none) && (q.age.any fun n => decide (n ≤ 500)) && match q.reading with
            | some (.temp n) => decide (p.setpoint ≤ n + p.band ∧ n ≤ p.setpoint + p.band)
            | _ => false
        s.answered hdr 30 .ok (.zone
          { zone := (s.heat.zones.get st).get z, stale := s.heat.stale.get st, onSet := s.heat.onSet.get st,
            rank := s.heat.order.idxOf (st, z) + 1, params := enabled z, hot := Idx.all.all inBand })
      | _, _ => s.answered hdr 30 .range .empty)) ∧
    (s.takes hdr .readLine → exec (.readLine hdr) s = .next
      (let slot (x : JobSlot) : SlotView :=
        { state := x.state, globals := x.job.map (·.globals), refs := x.refs, failing := x.failing, retireDist := x.retireDist }
       let flags (u : FaultUnit) : UnitFlags := { soft := u.soft, hard := u.hard, tripped := u.tripped }
       s.answered hdr 31 .ok (.lineView
        { w := s.web.w, h := s.web.h, v := s.web.v, reverse := (s.web.h - s.web.w).toNat, reader := s.reader.state,
          lastMark := s.reader.last.map (·.mark), pred := s.reader.last.map (·.pred), lock := s.reader.lock,
          coast := s.reader.coast, e := s.reader.e, count := s.track.length, headSeq := s.track.head?.map (·.seq),
          tailSeq := s.track.getLast?.map (·.seq), nextSeq := s.nextSeq, line := s.line, estop := s.estop,
          contexts := .tab fun st => (s.seqr.get st).context.map fun c => c.entries.map fun e => ⟨e.seq, e.outcome, e.action⟩,
          slots := ⟨slot s.slots.s0, slot s.slots.s1⟩, splices := s.splices,
          inService := (s.heat.order.filter fun p => ((s.heat.zones.get p.1).get p.2).slotTimer.isSome).length,
          units := .tab fun st => flags (s.units.get st), lineUnit := flags s.lineUnit, stop := s.stopReq,
          settings := s.settings }))) ∧
    (s.takes hdr (.readFaultRecord · ib) → exec (.readFaultRecord hdr ib) s = .next (match unitOf ib with
      | some u => s.answered hdr 32 .ok (.faultUnit (s.unit u))
      | none => s.answered hdr 32 .range .empty)) ∧
    (s.takes hdr (.readWatch · ib) → exec (.readWatch hdr ib) s = .next (match idxOf ib with
      | some w => s.answered hdr 33 .ok (.watch (s.watches.get w))
      | none => s.answered hdr 33 .range .empty))

/-- A frame with its sync byte, a length of at most 2,048 and a CRC-16 that matches is the request its code and body are; one with a CRC
that does not match, or with a length above 2,048 whatever its CRC, is dropped (R187, R194). A receiver skips bytes up to a sync byte,
answers the frame it finds there, and after a dropped frame hunts again from the byte after that frame's sync; frames from a drive are
received as port frames are (R187, R192). When a length and when a CRC is judged is the model's choice (log entry 36). -/
def Obligations.FramesReachTheirCommand : Prop :=
  let master (tag : Tag) (code : Byte) (body : Bytes) : Bytes := u2 tag.toNat ++ [code] ++ u2 body.length ++ body
  let drive (type : Byte) (body : Bytes) : Bytes := [type] ++ u1 body.length ++ body
  (∀ (p : Port) (tag : Tag) (code : Byte) (body : Bytes), body.length ≤ 2048 →
    portFrame p (framed 126 (master tag code body)) =
      match requestOf code body with
      | some make => make { port := p, tag := tag, stage := .whole }
      | none => .portFrameDropped p) ∧
  (∀ (p : Port) (tag : Tag) (code : Byte) (body : Bytes), 2048 < body.length → body.length < 65536 →
    portFrame p (framed 126 (master tag code body)) = .portFrameDropped p) ∧
  (∀ (p : Port) (covered : Bytes) (crc : BitVec 16), crc ≠ crc16 covered →
    portFrame p (126 :: covered ++ u2 crc.toNat) = .portFrameDropped p) ∧
  (∀ (st : Idx) (type : Byte) (body : Bytes), body.length ≤ 32 →
    driveFrame st (framed 90 (drive type body)) = (driveBody st type body).getD (.stationFrameDropped st)) ∧
  (∀ (st : Idx) (covered : Bytes) (crc : BitVec 16), crc ≠ crc16 covered →
    driveFrame st (90 :: covered ++ u2 crc.toNat) = .stationFrameDropped st) ∧
  (∀ (k : FrameKind) (b : Byte) (v : Bytes), b ≠ k.sync → k.receive (b :: v) = k.receive v) ∧
  (∀ (p : Port) (tag : Tag) (code : Byte) (body v : Bytes) (make : ReqHdr → Instr), body.length ≤ 2048 →
    requestOf code body = some make → (portKind p).receive (framed 126 (master tag code body) ++ v) =
      (make { port := p, tag := tag, stage := .whole } :: ((portKind p).receive v).1, ((portKind p).receive v).2)) ∧
  (∀ (p : Port) (tag : Tag) (code : Byte) (body v : Bytes) (crc : BitVec 16), body.length ≤ 2048 →
    crc ≠ crc16 (master tag code body) ∨ requestOf code body = none →
    let rest := master tag code body ++ u2 crc.toNat ++ v
    (portKind p).receive (126 :: rest) = (.portFrameDropped p :: ((portKind p).receive rest).1, ((portKind p).receive rest).2)) ∧
  (∀ (p : Port) (t1 t0 code : Byte) (n : BitVec 16) (v : Bytes), 2048 < n.toNat →
    let rest := [t1, t0, code] ++ u2 n.toNat ++ v
    (portKind p).receive (126 :: rest) = (.portFrameDropped p :: ((portKind p).receive rest).1, ((portKind p).receive rest).2)) ∧
  (∀ (st : Idx) (type : Byte) (body v : Bytes) (c : Instr), driveBody st type body = some c → body.length ≤ 32 →
    (driveKind st).receive (framed 90 (drive type body) ++ v) =
      (c :: ((driveKind st).receive v).1, ((driveKind st).receive v).2)) ∧
  ∀ (st : Idx) (type : Byte) (body v : Bytes) (crc : BitVec 16), body.length ≤ 32 →
    crc ≠ crc16 (drive type body) ∨ driveBody st type body = none →
    let rest := drive type body ++ u2 crc.toNat ++ v
    (driveKind st).receive (90 :: rest) =
      (.stationFrameDropped st :: ((driveKind st).receive rest).1, ((driveKind st).receive rest).2)

/-- After power-on UNIT_TRIP is URGENT in every port's table and every other kind OFF. SET ROUTING gives each named kind the class in
the requesting port's own table and answers with the whole table; a kind beyond the twelve or a class not listed is refused RANGE
(R164). -/
def Obligations.SetRoutingClassesNamedKinds : Prop :=
  (∀ p k, (State.reset.ports.get p).routing.cls k = if k = .unitTrip then .urgent else .off) ∧
  (∀ (hdr : ReqHdr) (kinds : BitVec 16) (c : RouteClass) (s : State), s.takes hdr (.setRouting · kinds (some c)) →
    kinds.toNat < 4096 → ∃ r : Routing,
      (∀ k, r.cls k = if kinds.getLsbD k.place then c else (s.ports.get hdr.port).routing.cls k) ∧
      exec (.setRouting hdr kinds (some c)) s = .next
        ({ s with ports := s.ports.set hdr.port { s.ports.get hdr.port with routing := r } }.answered hdr 35 .ok (.routing r))) ∧
  ∀ (hdr : ReqHdr) (kinds : BitVec 16) (cls : Option RouteClass) (s : State), s.takes hdr (.setRouting · kinds cls) →
    cls = none ∨ 4096 ≤ kinds.toNat → exec (.setRouting hdr kinds cls) s = .next (s.answered hdr 35 .range .empty)

/-- A routed notice joins the pending set of its port with its class, or coalesces with its pair there, which is URGENT where either
is; a kind that is OFF leaves the set as it is, and no other pair of the set changes (R163, R164, R165). TAKE NOTICES answers OK with
every pair of the port's own set and empties it, so that both lines of the port are deasserted; the routing stays (R166). -/
def Obligations.NoticesCoalesceUntilTaken : Prop :=
  (∀ (p : PortState) (n : Notice), (p.pending.map fun x => x.notice.rank).Pairwise (· < ·) →
    (p.routing.cls n.kind = .off → p.offer n = p) ∧
    (p.routing.cls n.kind ≠ .off →
      (∀ x, x ∈ (p.offer n).pending ↔
        (x.notice ≠ n ∧ x ∈ p.pending) ∨
          x = ⟨n, decide (p.routing.cls n.kind = .urgent) || p.pending.any fun y => decide (y.notice = n) && y.urgent⟩) ∧
      ((p.offer n).pending.map fun x => x.notice.rank).Pairwise (· < ·) ∧
      p.offer n = { p with pending := (p.offer n).pending })) ∧
  ∀ (hdr : ReqHdr) (s : State), s.takes hdr .takeNotices →
    (let p := s.ports.get hdr.port
     exec (.takeNotices hdr) s = .next
      ({ s with ports := s.ports.set hdr.port { p with pending := [] } }.answered hdr 34 .ok (.notices p.pending))) ∧
    ∀ t, exec (.takeNotices hdr) s = .next t →
      (t.ports.get hdr.port).urgentLine = false ∧ (t.ports.get hdr.port).routineLine = false

/-- SUBSCRIBE OUTCOMES places the port's cursor just past the newest record with GAP clear; TAKE OUTCOMES is refused STATE to a
detached cursor and otherwise answers the records from the cursor on, oldest first and up to 8, GAP on the first of them where the
cursor held it, and moves the cursor past them. The records every subscribed cursor has then passed leave (R39, R40). Records leave
the Outcome List, oldest first, that all subscribed cursors have passed, and all of them where none is subscribed; an append to a full
list drops the oldest record, and a cursor that stood at it moves on and sets GAP (R37, R38). -/
def Obligations.OutcomesAreKeptForTheirCursors : Prop :=
  (∀ (hdr : ReqHdr) (s : State),
    let moved (c : Cursor) : OutcomeList :=
      { records := s.outcomes.records, cursors := s.outcomes.cursors.set hdr.port (some c) }
    (s.takes hdr .subscribeOutcomes → exec (.subscribeOutcomes hdr) s = .next
      (({ s with outcomes := (moved { pos := s.outcomes.records.length, gap := false }).prune } : State).answered hdr 36 .ok
        .empty)) ∧
    (s.takes hdr .takeOutcomes → s.outcomes.cursors.get hdr.port = none →
      exec (.takeOutcomes hdr) s = .next (s.answered hdr 37 .state .empty)) ∧
    ∀ c, s.takes hdr .takeOutcomes → s.outcomes.cursors.get hdr.port = some c →
      let got := (s.outcomes.records.drop c.pos).take 8
      exec (.takeOutcomes hdr) s = .next
        (({ s with outcomes := (moved { pos := c.pos + got.length, gap := c.gap && got.isEmpty }).prune } : State).answered
          hdr 37 .ok (.outcomes (got.mapIdx fun i r => (r, c.gap && i == 0))))) ∧
  (∀ o : OutcomeList, ∃ n, o.prune.records = o.records.drop n ∧
    (∀ p, o.prune.cursors.get p = (o.cursors.get p).map fun c => { c with pos := c.pos - n }) ∧
    (∀ p c, o.cursors.get p = some c → n ≤ c.pos) ∧
    (n = o.records.length ∨ ∃ p c, o.cursors.get p = some c ∧ n = c.pos)) ∧
  ∀ (o : OutcomeList) (r : OutcomeRecord), (∃ p c, o.cursors.get p = some c ∧ c.pos = 0) →
    (o.records.length < 64 → (o.append r).records = o.records ++ [r] ∧ (o.append r).cursors = o.cursors) ∧
    (64 ≤ o.records.length → (o.append r).records = o.records.drop 1 ++ [r] ∧
      ∀ p, (o.append r).cursors.get p = (o.cursors.get p).map fun c =>
        { pos := c.pos - 1, gap := c.gap || decide (c.pos = 0) })

/-! ### The line state -/

/-- A request that changes the line state is refused DENIED at the other ports, STATE in the line states that the table of R135 gives,
and ESTOP, BUSY or RANGE as its rule says; a refused one changes nothing, and its reply carries the line state and the E-stop level
(R135, R136, R145, R148, R149, R150), a DENIED one too, which is deduced (log entry 19). -/
def Obligations.RefusedLineRequestsChangeNothing : Prop :=
  ∀ (hdr : ReqHdr) (sb : Byte) (s : State), TripsMirrored s →
    let refused (code : Byte) (r : ResultCode) : Host.Outcome State Fault Refusal :=
      .next (s.answered hdr code r (.level s.line s.estop))
    (hdr.port ≠ .line →
      (s.takes hdr .start → exec (.start hdr) s = refused 1 .denied) ∧
      (s.takes hdr .hold → exec (.hold hdr) s = refused 2 .denied) ∧
      (s.takes hdr .resume → exec (.resume hdr) s = refused 3 .denied) ∧
      (s.takes hdr .stop → exec (.stop hdr) s = refused 4 .denied) ∧
      (s.takes hdr .lineReset → exec (.lineReset hdr) s = refused 5 .denied) ∧
      (s.takes hdr (.stationReset · sb) → exec (.stationReset hdr sb) s = refused 6 .denied)) ∧
    (hdr.port = .line →
      (s.takes hdr .start → s.line = .stopped → s.estop = true → exec (.start hdr) s = refused 1 .estop) ∧
      (s.takes hdr .start → s.line ≠ .stopped ∨ (s.estop = false ∧ (s.active = none ∨ s.lineUnit.tripped = true)) →
        exec (.start hdr) s = .next (s.answered hdr 1 .state (.startRefused s.line s.estop
          ⟨s.slots.s0.state, s.slots.s1.state⟩
          { soft := s.lineUnit.soft, hard := s.lineUnit.hard, tripped := s.lineUnit.tripped }))) ∧
      (s.takes hdr .hold → s.line = .stopped → exec (.hold hdr) s = refused 2 .state) ∧
      (s.takes hdr .hold → s.line = .hold → exec (.hold hdr) s = refused 2 .ok) ∧
      (s.takes hdr .resume → s.line ≠ .hold → exec (.resume hdr) s = refused 3 .state) ∧
      (s.takes hdr .resume → s.line = .hold → s.estop = true → exec (.resume hdr) s = refused 3 .estop) ∧
      (s.takes hdr .resume → s.line = .hold → s.estop = false → (∃ st, (s.seqr.get st).awaited = .abort) →
        exec (.resume hdr) s = refused 3 .busy) ∧
      (s.takes hdr .stop → s.line ≠ .hold → exec (.stop hdr) s = refused 4 .state) ∧
      (s.takes hdr .stop → s.line = .hold → (∃ st, (s.seqr.get st).awaited = .abort) →
        exec (.stop hdr) s = refused 4 .busy) ∧
      (s.takes hdr .lineReset → s.line ≠ .stopped → exec (.lineReset hdr) s = refused 5 .state) ∧
      (s.takes hdr (.stationReset · sb) → s.line = .run → exec (.stationReset hdr sb) s = refused 6 .state) ∧
      (s.takes hdr (.stationReset · sb) → s.line ≠ .run → idxOf sb = none → exec (.stationReset hdr sb) s = refused 6 .range))

/-- An accepted START takes the line to RUN, makes every station UNPHASED with its trim and its last order kept, and puts the reader into
ACQUIRE emptied; nothing else changes but the reply and what a reversal beyond REVERSE_LIMIT raises at U4 (R136, R137). -/
def Obligations.StartClearsPhasesAndReader : Prop :=
  ∀ (hdr : ReqHdr) (s : State), s.takes hdr .start → hdr.port = .line → TripsMirrored s → s.line = .stopped →
    s.estop = false → s.active ≠ none → s.lineUnit.tripped = false →
    ∃ t, exec (.start hdr) s = .next t ∧ t.line = .run ∧
      (∀ st, t.calcs.get st = { s.calcs.get st with phased := false }) ∧
      t.reader = { state := .acquire, last := none, lock := 0, coast := 0, e := 0, event := none } ∧
      (t.ports.get .line).tx = (s.ports.get .line).tx ++
        [{ tag := hdr.tag, code := 1, result := .ok, body := .level .run false }] ∧
      (s.settings.reverseLimit < s.web.reverse → s.web.reversalRaised = false →
        t.web = { s.web with reversalRaised := true } ∧ t.lineUnit.hard = true) ∧
      (s.web.reverse ≤ s.settings.reverseLimit ∨ s.web.reversalRaised = true →
        t.web = s.web ∧ t.lineUnit = s.lineUnit ∧ t.stopReq = s.stopReq) ∧
      t = { s with line := t.line, calcs := t.calcs, reader := t.reader, web := t.web, lineUnit := t.lineUnit,
                   stopReq := t.stopReq, ports := t.ports }

/-- The line enters HOLD from RUN at an accepted HOLD and at the E-stop's assertion alike: every station's context is saved with its trim,
its last order, its phase and its orders in flight, PENDING and SKIP; STOP REQUEST is deasserted and HOLD_ENTERED raised (R138, R139). At
a station with orders in flight and no abort outstanding the queued order is withdrawn and closed as if its abort report had said
NOT_MADE with advanced 0: MISSED, with that report, its feeds released, its first-off lanes OPEN again, its lanes taking the low test,
and its context entry NOT_MADE (R80, R94, R95, R140). The orders left are named in an ABORT ORDER whose timer starts; that the frame
lists their seqs oldest first is the model's choice (log entry 28). A trip of the station's unit and hold entry, one after the other,
leave the same context in both orders (R141). That this is the context of hold entry taken first, so that a hold entry after the trip
saves the phase state and the withdrawn queued order as the trip found them, and that a trip with nothing in flight counts as long as the
web stands as it did, is the model's choice (log entry 42). Outside RUN the assertion, and everywhere the change to clear, change only
the level. -/
def Obligations.HoldEntrySavesAndAborts : Prop :=
  ∀ s : State, TripsMirrored s →
    let withdrawn (st : Idx) : Option SeqNo :=
      if (s.seqr.get st).inFlight = [] ∨ (s.seqr.get st).awaited = .abort then none else (s.seqr.get st).queue
    let order (st : Idx) : Option TrackRecord := (withdrawn st).bind s.record
    let held (t : State) : Prop :=
      t.line = .hold ∧ t.stopReq = { asserted := false, trip := false, trackFull := false, watch := false } ∧
      (∀ st, let q := s.seqr.get st
        let c := s.calcs.get st
        let trip : Option BeforeTrip :=
          q.beforeTrip.filter fun b => decide (q.awaited = .abort ∨ (q.inFlight = [] ∧ b.idleAt = some s.web))
        let context : HoldContext :=
          { trim := c.trim, last := c.last.map fun l => (l.target, l.seq), phased := (trip.map (·.phased)).getD c.phased,
            entries := (q.inFlight.filterMap fun e => (s.record e.seq).map fun r =>
              { seq := r.seq, slot := r.slot, decision := (r.st.get st).decision, target := (r.st.get st).target.getD 0,
                feed := (r.st.get st).feed.getD (.all 0),
                outcome := if withdrawn st = some r.seq then .notMade else .pending, action := .skip }) ++
              (trip.bind (·.withdrawn)).toList }
        let left := q.inFlight.filter fun e => decide (withdrawn st ≠ some e.seq)
        let named := left.map (·.seq)
        if q.inFlight = [] ∨ q.awaited = .abort then
          t.seqr.get st = { q with context := some context, beforeTrip := none } ∧ t.links.get st = s.links.get st
        else if left = [] then
          t.seqr.get st = { q with context := some context, beforeTrip := none, inFlight := [], queue := none } ∧ t.links.get st = s.links.get st
        else
          t.seqr.get st = { q with context := some context, beforeTrip := none, inFlight := left, queue := none, awaited := .abort,
                                   abortSet := named, timer := some 500 } ∧
            t.links.get st = (s.links.get st).hand (.abortOrder named)) ∧
      (∃ mark : TrackRecord → Four Bool, t.track = s.track.map fun x =>
        { x with watchMark := mark x, st := .tab fun st =>
          if withdrawn st = some x.seq then
            { x.st.get st with status := .missed, report := some { outcome := .noContact, e := none, advanced := .all 0 } }
          else x.st.get st }) ∧
      (∀ st c, let l := s.lane st c
        t.lane st c = (match order st with
          | none => l
          | some r => { l with reserved := l.reserved - ((r.st.get st).feed.getD (.all 0)).get c,
                               state := if l.state = .ready ∧ l.remaining < (s.settings.low.get st).get c then .low
                                        else l.state })) ∧
      (∀ j st c, t.descriptor j st c = (s.descriptor j st c).map fun d =>
        if ∃ r ∈ order st, r.slot = j ∧ d.stage = .awaiting r.seq then { d with stage := .vacant } else d) ∧
      (∀ st, t.units.get st = { s.units.get st with latest := (t.units.get st).latest }) ∧
      (∀ j, t.slots.get j = { s.slots.get j with job := (t.slots.get j).job }) ∧
      (∀ p, (s.ports.get p).routing.cls .holdEntered ≠ .off → ∃ n ∈ (t.ports.get p).pending, n.notice = .holdEntered) ∧
      ((∀ st, order st = none) →
        (∀ p, (t.ports.get p).pending = ((s.ports.get p).offer .holdEntered).pending) ∧
        t = { s with line := t.line, seqr := t.seqr, stopReq := t.stopReq, ports := t.ports, links := t.links,
                     estop := t.estop }) ∧
      t = { s with line := t.line, seqr := t.seqr, stopReq := t.stopReq, ports := t.ports, links := t.links, estop := t.estop,
                   track := t.track, lanes := t.lanes, slots := t.slots, units := t.units, watches := t.watches }
    (s.line = .run →
      (∀ hdr : ReqHdr, s.takes hdr .hold → hdr.port = .line →
        ∃ t, exec (.hold hdr) s = .next t ∧ held t ∧ t.estop = s.estop ∧
          (t.ports.get .line).tx = (s.ports.get .line).tx ++
            [{ tag := hdr.tag, code := 2, result := .ok, body := .level .hold s.estop }]) ∧
      (∃ t, exec .estopAsserted s = .next t ∧ held t ∧ t.estop = true) ∧
      ∀ st, let q := s.seqr.get st
        q.awaited ≠ .abort →
        (q.queue = none ∨ ∃ left e, q.inFlight = left ++ [e] ∧ q.queue = some e.seq ∧ left ≠ [] ∧ ∀ x ∈ left, x.seq ≠ e.seq) →
        ((s.tripEffects st).enterHold.seqr.get st).context = ((s.enterHold.tripEffects st).seqr.get st).context) ∧
    (s.line ≠ .run → exec .estopAsserted s = .next { s with estop := true }) ∧
    exec .estopCleared s = .next { s with estop := false }

/-- EDIT HOLD CONTEXT at the Line Port: outside HOLD both forms are refused STATE, whatever they name; in HOLD a station index outside
0..3, or an action that is none, is RANGE. In HOLD a trim is stored clamped to the ACTIVE slot's TRIM_LIM and the reply carries it as
stored (R143); SKIP is accepted on any entry; RESTRIKE is BUSY on a PENDING entry, and CONTEXT unless the abort found NOT_MADE, the
decision is no LIFT, and the record stands in the track MISSED at the station (R144). Only the context changes. -/
def Obligations.HoldContextEditsAreJudged : Prop :=
  (∀ (hdr : ReqHdr) (sb : Byte) (v : BitVec 16) (q : SeqNo) (a : Option ResumeAction) (s : State), hdr.port = .line →
    (s.takes hdr (.editHoldContextTrim · sb v) →
      (s.line ≠ .hold → exec (.editHoldContextTrim hdr sb v) s = .next (s.answered hdr 7 .state .empty)) ∧
      (s.line = .hold → 3 < sb.toNat → exec (.editHoldContextTrim hdr sb v) s = .next (s.answered hdr 7 .range .empty))) ∧
    (s.takes hdr (.editHoldContextAction · sb q a) →
      (s.line ≠ .hold → exec (.editHoldContextAction hdr sb q a) s = .next (s.answered hdr 7 .state .empty)) ∧
      (s.line = .hold → 3 < sb.toNat ∨ a = none →
        exec (.editHoldContextAction hdr sb q a) s = .next (s.answered hdr 7 .range .empty)))) ∧
  ∀ (hdr : ReqHdr) (sb : Byte) (st : Idx) (c : HoldContext) (v : BitVec 16) (q : SeqNo) (s : State), hdr.port = .line →
    s.line = .hold → idxOf sb = some st → (s.seqr.get st).context = some c →
    let edited (c : HoldContext) : State := { s with seqr := s.seqr.set st { s.seqr.get st with context := some c } }
    let acted (a : ResumeAction) : State :=
      edited { c with entries := c.entries.map fun e => if e.seq = q then { e with action := a } else e }
    (s.takes hdr (.editHoldContextTrim · sb v) →
      exec (.editHoldContextTrim hdr sb v) s = .next
        ((edited { c with trim := clampAbs (s.trimLimit st) v.toInt }).answered hdr 7 .ok
          (.trim (clampAbs (s.trimLimit st) v.toInt)))) ∧
    ∀ a, s.takes hdr (.editHoldContextAction · sb q (some a)) →
      ((∀ e ∈ c.entries, e.seq ≠ q) →
        exec (.editHoldContextAction hdr sb q (some a)) s = .next (s.answered hdr 7 .noRepeat .empty)) ∧
      ∀ e, c.entries.find? (fun e => decide (e.seq = q)) = some e →
        exec (.editHoldContextAction hdr sb q (some a)) s = .next
          (if a = .skip then (acted .skip).answered hdr 7 .ok .empty
           else if e.outcome = .pending then s.answered hdr 7 .busy .empty
           else if e.outcome = .notMade ∧ e.decision ≠ .lift ∧
              (s.record q).map (fun r => (r.st.get st).status) = some .missed then
            (acted .restrike).answered hdr 7 .ok .empty
           else s.answered hdr 7 .context .empty)

/-- RESUME is answered CONTEXT, and the line stays in HOLD with nothing changed, at the first RESTRIKE entry, stations from S0 and
entries oldest first, whose record stands in the track, whose T' H has not reached, and whose station's unit or U4 is TRIPPED or whose
station is UNPHASED; the reply carries the station, the seq and the cause, which where several hold is the model's choice (log entry
26). With every entry SKIP, or RESTRIKE with its record gone or its T' reached, an accepted RESUME takes the line to RUN, loads each
station's trim from its context, clamped to the ACTIVE slot, discards the contexts and keeps phase states and last orders (R58, R145,
R146). -/
def Obligations.ResumeLoadsContextTrims : Prop :=
  ∀ (hdr : ReqHdr) (s : State), s.takes hdr .resume → hdr.port = .line → TripsMirrored s → s.line = .hold → s.estop = false →
    (∀ st, (s.seqr.get st).awaited ≠ .abort) →
    let stands (e : ContextEntry) : Prop :=
      e.action = .restrike ∧ s.record e.seq ≠ none ∧ reached s.web.h e.target = false
    let invalid (st : Idx) : Prop :=
      (s.units.get st).tripped = true ∨ s.lineUnit.tripped = true ∨ (s.calcs.get st).phased = false
    let passed (st : Idx) : Restruck :=
      { ordered := [], passed := ((s.entries st).filter fun e => decide (e.action = .restrike)).map (·.seq) }
    (∀ before after st e, (Idx.all.flatMap fun st => (s.entries st).map fun e => (st, e)) = before ++ (st, e) :: after →
      (∀ x ∈ before, ¬ (stands x.2 ∧ invalid x.1)) → stands e → invalid st →
      exec (.resume hdr) s = .next (s.answered hdr 3 .context (.resumeInvalid .hold false st e.seq
        (if (s.units.get st).tripped then .unitTripped else if s.lineUnit.tripped then .lineTripped else .unphased)))) ∧
    ((∀ st e, e ∈ s.entries st → ¬ stands e) → ∃ t, exec (.resume hdr) s = .next t ∧ t.line = .run ∧
      (∀ st, t.seqr.get st = { s.seqr.get st with context := none }) ∧
      (∀ st c, (s.seqr.get st).context = some c →
        t.calcs.get st = { s.calcs.get st with trim := clampAbs (s.trimLimit st) c.trim }) ∧
      (t.ports.get .line).tx = (s.ports.get .line).tx ++
        [{ tag := hdr.tag, code := 3, result := .ok, body := .resumed .run false (.tab passed) }] ∧
      t = { s with line := t.line, seqr := t.seqr, calcs := t.calcs, watches := t.watches, track := t.track, web := t.web,
                   lineUnit := t.lineUnit, stopReq := t.stopReq, ports := t.ports })

/-- RESUME re-orders the RESTRIKE entries of a station whose record stands in the track and whose T' H has not reached, oldest first, here
one or two of them, at a station PHASED and not TRIPPED with nothing in flight, the only one with entries. The recheck of each recorded
feed leaves 0 on a lane that cannot feed, on one that has too little unpromised foil, which runs OUT with the hard fault and the notice
FOIL_OUT, and on one whose first-off awaits approval of another seq; what is kept is reserved before the next entry is checked, with the
effects of its code (R90, R91, R92, R100). The record's status becomes COMMITTED with its T', the feeds that are kept and no report; its
decision stays, but for a STRIKE at a foil station all of whose feeds are 0, which becomes DRY. Its seq joins the in-flight list with no
phasing flag, the first order goes out and is awaited, the second waits in the link queue, and the calculator's last order stays (R68,
R146, R147). Where FOIL_OUT trips the station the first order is named in an abort and the second is withdrawn (R80, R84, R155). -/
def Obligations.ResumeReordersARestrike : Prop :=
  ∀ (hdr : ReqHdr) (s : State) (st : Idx) (context : HoldContext) (e : ContextEntry) (rest : List ContextEntry),
    s.takes hdr .resume → hdr.port = .line → TripsMirrored s → s.line = .hold → s.estop = false →
    (∀ v, (s.seqr.get v).awaited = .none ∧ (s.units.get v).tripped = false) → s.lineUnit.tripped = false →
    (s.calcs.get st).phased = true → (s.seqr.get st).inFlight = [] → (s.seqr.get st).context = some context →
    (∀ v, v ≠ st → s.entries v = []) →
    let stands (x : ContextEntry) : Bool :=
      decide (x.action = .restrike) && (s.record x.seq).isSome && decide (2 ^ 31 ≤ (s.web.h - x.target).toNat)
    context.entries.filter stands = e :: rest → rest.length ≤ 1 → (∀ x ∈ rest, x.seq ≠ e.seq) →
    let fed1 (c : Idx) : Nat := restrikeFeed (s.lane st c) (s.descriptor e.slot st c) e.seq (e.feed.get c)
    let lane1 (c : Idx) : Lane := restrikeLane (s.lane st c) (s.descriptor e.slot st c) e.seq (e.feed.get c)
    let code1 (j : Slot) (c : Idx) : Option Descriptor :=
      (s.descriptor j st c).map fun d => if j = e.slot then fedDescriptor d e.seq (fed1 c) else d
    let fed2 (x : ContextEntry) (c : Idx) : Nat := restrikeFeed (lane1 c) (code1 x.slot c) x.seq (x.feed.get c)
    let short (c : Idx) : Bool :=
      restrikeShort (s.lane st c) (e.feed.get c) || rest.any fun x => restrikeShort (lane1 c) (x.feed.get c)
    let shorts : Nat := (Idx.all.filter short).length
    let decision (x : ContextEntry) (fed : Idx → Nat) : Decision :=
      if x.decision = .strike ∧ (∃ p ∈ s.entry x.slot st, p.type ≠ .emboss) ∧ Idx.all.all (fun c => fed c == 0) then .dry
      else x.decision
    let noticed (t : State) (n : Notice) : Prop :=
      ∀ p, (s.ports.get p).routing.cls n.kind ≠ .off → ∃ x ∈ (t.ports.get p).pending, x.notice = n
    let sent (t : State) (x : ContextEntry) (code : Idx → Option Descriptor) (fed : Idx → Nat) : Prop :=
      (t.record x.seq).map (fun r => (r.st.get st, r.firstOff)) = (s.record x.seq).map (fun r =>
        ({ r.st.get st with decision := decision x fed, status := .committed, target := some x.target, feed := some (.tab fed),
                            report := none },
         r.firstOff.upd st fun row => .tab fun c => row.get c || startsFirstOff (code c) (fed c))) ∧
      ∀ c, (startsFirstOff (code c) (fed c) = true → noticed t (.firstOffStruck st c)) ∧
        ((∃ d ∈ code c, d.code = .onReport) → 0 < fed c → noticed t (.laneAttn st c))
    let first : InFlight := { seq := e.seq, phasing := false, restrike := true }
    (shorts = 0 ∨ (shorts = 1 ∧ (s.units.get st).hard = false) →
      ∃ t, exec (.resume hdr) s = .next t ∧ t.line = .run ∧
        sent t e (s.descriptor e.slot st) fed1 ∧ (∀ x ∈ rest, sent t x (code1 x.slot) (fed2 x)) ∧
        (∀ c, t.lane st c =
          (match rest with
            | [] => lane1 c
            | x :: _ => restrikeLane (lane1 c) (code1 x.slot c) x.seq (x.feed.get c))) ∧
        (∀ j c, t.descriptor j st c =
          (match rest with
            | [] => code1 j c
            | x :: _ => (code1 j c).map fun d => if j = x.slot then fedDescriptor d x.seq (fed2 x c) else d)) ∧
        t.seqr.get st = { s.seqr.get st with
          inFlight := first :: rest.map (fun x => { seq := x.seq, phasing := false, restrike := true }), awaited := .order e.seq,
          timer := some 500, queue := rest.head?.map (·.seq), context := none } ∧
        t.links.get st = (s.links.get st).hand (.strikeOrder e.seq (decision e fed1) false e.target (.tab fed1)) ∧
        (∀ v, v ≠ st → t.seqr.get v = { s.seqr.get v with context := none } ∧ t.lanes.get v = s.lanes.get v ∧
          t.units.get v = s.units.get v ∧ t.links.get v = s.links.get v) ∧
        (∀ c, short c = true → noticed t (.foilOut st c) ∧ (t.units.get st).hard = true ∧ (t.units.get st).first ≠ none ∧
          (t.units.get st).tripped = false) ∧
        (shorts = 0 → t.units = s.units) ∧
        (∀ v, t.calcs.get v = { s.calcs.get v with trim := match (s.seqr.get v).context with
          | some c => clampAbs (s.trimLimit v) c.trim
          | none => (s.calcs.get v).trim }) ∧
        (t.ports.get .line).tx = (s.ports.get .line).tx ++
          [{ tag := hdr.tag, code := 3, result := .ok, body := .resumed .run false (.tab fun v =>
              { ordered := if v = st then (e :: rest).map (·.seq) else [],
                passed := ((s.entries v).filter fun x => decide (x.action = .restrike) && !stands x).map (·.seq) }) }] ∧
        t = { s with line := t.line, seqr := t.seqr, calcs := t.calcs, watches := t.watches, track := t.track, web := t.web,
                     lineUnit := t.lineUnit, stopReq := t.stopReq, ports := t.ports, lanes := t.lanes, slots := t.slots,
                     units := t.units, links := t.links }) ∧
    (2 ≤ shorts ∨ (shorts = 1 ∧ (s.units.get st).hard = true) →
      ∃ t, exec (.resume hdr) s = .next t ∧ t.line = .run ∧ TripTaken s t st [first] ∧
        (t.record e.seq).map (fun r => ((r.st.get st).status, (r.st.get st).target)) = some (.committed, some e.target) ∧
        (∀ x ∈ rest, (t.record x.seq).map (fun r => (r.st.get st).status) = some .missed) ∧
        ∀ v, v ≠ st → t.lanes.get v = s.lanes.get v ∧ t.units.get v = s.units.get v ∧ t.links.get v = s.links.get v)

/-- An accepted STOP takes the line to STOPPED, empties the track and the Splice List, puts the reader into IDLE with E = 0, discards the
contexts and deasserts STOP REQUEST; the records leave head to tail, each with its outcome record appended and its statuses not yet final
MISSED; phase states, trims, heat, fault units and next seq are kept (R32, R148). -/
def Obligations.StopEmptiesTheLine : Prop :=
  ∀ (hdr : ReqHdr) (s : State), s.takes hdr .stop → hdr.port = .line → TripsMirrored s → s.line = .hold →
    (∀ st, (s.seqr.get st).awaited ≠ .abort) →
    ∃ t, exec (.stop hdr) s = .next t ∧ t.line = .stopped ∧ t.track = [] ∧ t.splices = [] ∧
      t.outcomes = s.track.foldl (fun o r => o.append (s.outcomeOf { r with st := .tab fun st => { r.st.get st with
        status := match (r.st.get st).status with
          | .pending | .committed | .acked => .missed
          | x => x } })) s.outcomes ∧
      t.reader = { state := .idle, last := none, lock := 0, coast := 0, e := 0, event := none } ∧
      (∀ st, (t.seqr.get st).context = none) ∧
      t.stopReq = { asserted := false, trip := false, trackFull := false, watch := false } ∧
      (t.ports.get .line).tx = (s.ports.get .line).tx ++
        [{ tag := hdr.tag, code := 4, result := .ok, body := .level .stopped s.estop }] ∧
      t = { s with line := t.line, track := t.track, splices := t.splices, reader := t.reader, seqr := t.seqr,
                   stopReq := t.stopReq, ports := t.ports, outcomes := t.outcomes, lanes := t.lanes, links := t.links,
                   slots := t.slots, watches := t.watches }

/-- An accepted LINE RESET empties the track, its records leaving head to tail as at STOP, and the Splice List, puts the reader into
IDLE, makes every station READY and UNPHASED with no order left and no reserved foil, clears every fault unit's flags and both
records, and deasserts STOP REQUEST; trims, lane states, remaining foil, heat, the settings, the E-stop level and next seq are kept
(R32, R85, R101, R149). -/
def Obligations.LineResetClearsTheLine : Prop :=
  ∀ (hdr : ReqHdr) (s : State), s.takes hdr .lineReset → hdr.port = .line → s.line = .stopped →
    ∃ t, exec (.lineReset hdr) s = .next t ∧ t.line = .stopped ∧ t.track = [] ∧ t.splices = [] ∧
      t.outcomes = s.track.foldl (fun o r => o.append (s.outcomeOf { r with st := .tab fun st => { r.st.get st with
        status := match (r.st.get st).status with
          | .pending | .committed | .acked => .missed
          | x => x } })) s.outcomes ∧
      t.reader = { state := .idle, last := none, lock := 0, coast := 0, e := 0, event := none } ∧
      (∀ st, t.seqr.get st = Sequencer.reset) ∧ (∀ st, t.calcs.get st = { s.calcs.get st with phased := false }) ∧
      (∀ st c, (t.lanes.get st).get c = { (s.lanes.get st).get c with reserved := 0 }) ∧
      (∀ u, t.unit u = { soft := false, hard := false, tripped := false, first := none, latest := none }) ∧
      t.stopReq = { asserted := false, trip := false, trackFull := false, watch := false } ∧
      (t.ports.get .line).tx = (s.ports.get .line).tx ++
        [{ tag := hdr.tag, code := 5, result := .ok, body := .level .stopped s.estop }] ∧
      t = { s with line := t.line, track := t.track, splices := t.splices, reader := t.reader, seqr := t.seqr,
                   calcs := t.calcs, units := t.units, lineUnit := t.lineUnit, stopReq := t.stopReq, ports := t.ports,
                   outcomes := t.outcomes, lanes := t.lanes, links := t.links, slots := t.slots, watches := t.watches }

/-- An accepted STATION RESET of a station clears its unit's flags and first-fault record, and keeps its latest-event record and every
port's pending set (R150, R161, R167). It empties the sequencer but for a context without entries, the orders in flight ending MISSED
(R85), and makes the station UNPHASED with its trim kept. Of its lanes the reserved foil becomes 0, and state and remaining stay; a
first-off that awaits approval of an order in flight or overdue returns to OPEN (R94, R101). That such an order's lanes take no low
test is the model's reading (log entry 13). The sequencers, calculators, fault units, lanes and links of the other stations stay. -/
def Obligations.StationResetClearsOneStation : Prop :=
  ∀ (hdr : ReqHdr) (sb : Byte) (st : Idx) (s : State), s.takes hdr (.stationReset · sb) → hdr.port = .line →
    TripsMirrored s → s.line ≠ .run → idxOf sb = some st →
    let sq := s.seqr.get st
    let ended (j : Slot) (q : SeqNo) : Prop :=
      (∃ r, s.record q = some r ∧ sq.holds q = true ∧ r.slot = j) ∨ ∃ x ∈ sq.overdue, x.seq = q ∧ x.slot = j
    ∃ t, exec (.stationReset hdr sb) s = .next t ∧
      t.units = s.units.set st { s.units.get st with soft := false, hard := false, tripped := false, first := none } ∧
      t.seqr.get st = { Sequencer.reset with context := sq.context.map fun c => { c with entries := [] } } ∧
      t.calcs.get st = { s.calcs.get st with phased := false } ∧
      t.track = s.track.map (fun x => if sq.holds x.seq then x.updStation st fun f => { f with status := .missed } else x) ∧
      (∀ c, (t.lanes.get st).get c = { (s.lanes.get st).get c with reserved := 0 }) ∧
      (∀ j v c d, s.descriptor j v c = some d →
        (v = st ∧ (∃ q, d.stage = .awaiting q ∧ ended j q) → t.descriptor j v c = some { d with stage := .vacant }) ∧
        (¬ (v = st ∧ ∃ q, d.stage = .awaiting q ∧ ended j q) → t.descriptor j v c = some d)) ∧
      (∀ v, v ≠ st → t.seqr.get v = s.seqr.get v ∧ t.calcs.get v = s.calcs.get v ∧ t.lanes.get v = s.lanes.get v ∧
        t.links.get v = s.links.get v) ∧
      (∀ p, (t.ports.get p).pending = (s.ports.get p).pending) ∧
      (t.ports.get .line).tx = (s.ports.get .line).tx ++
        [{ tag := hdr.tag, code := 6, result := .ok, body := .level s.line s.estop }] ∧
      t = { s with seqr := t.seqr, calcs := t.calcs, units := t.units, ports := t.ports, lanes := t.lanes, links := t.links,
                   slots := t.slots, track := t.track }

/-! ### Heat -/

/-- A HEAT READING frame gives the four zones of its station their readings, age 0, and clears the stale flag (R105). A zone that is
not enabled keeps its block and its demand. An enabled one that reads OPEN is blocked (R106), one above its setpoint by more than
OVER_LIMIT is blocked OVERHEAT and stays so down to its setpoint (R107), and neither waits for a slot nor holds one when the block
begins, which is a hard fault. Any other reading leaves it unblocked: in service it ends its slot at its setpoint (R108), and out of
service it asks for one at its threshold (R109). Those that finish are rotated to lowest in zone order (R104, R105, R108). The grant pass
that follows turns requests into slots and slots into requests, and changes no demand: the free slots go to the eligible zones of
highest rank, in QUEUED mode, and with MIN_HOLD at or above MAX_HOLD, nothing else changes hands, and each on-set that changed is handed
to its link (R110, R111, R112). -/
def Obligations.HeatReadingsJudgeTheZones : Prop :=
  ∀ (st : Idx) (v : Four (BitVec 16)) (s : State),
    let value (z : Idx) : Nat := min (v.get z).toNat 3000
    let holder (z : Idx) (loses : ZoneParams → Bool) : Bool := (s.zone st z).inService && (s.zoneParams st z).any loses
    let blocked (z : Idx) : Bool := holder z fun p =>
      if (v.get z).toNat = 65535 then decide ((s.zone st z).block ≠ .openCircuit)
      else decide (p.setpoint + s.settings.overLimit < value z ∧ (s.zone st z).block ≠ .overheat)
    let finishes (z : Idx) : Bool := holder z fun p =>
      decide ((v.get z).toNat ≠ 65535 ∧ value z ≤ p.setpoint + s.settings.overLimit ∧ p.setpoint ≤ value z ∧
        ((s.zone st z).block = .overheat → value z ≤ p.setpoint))
    let finished := Idx.all.filter finishes
    ∃ t, exec (.heatReading st v) s = .next t ∧
    t.heat.stale = s.heat.stale.set st false ∧
    (∀ a b, a ≠ st → (t.zone a b).reading = (s.zone a b).reading ∧ (t.zone a b).age = (s.zone a b).age ∧
      (t.zone a b).mask = (s.zone a b).mask ∧ (t.zone a b).block = (s.zone a b).block ∧
      (t.zone a b).demand = (s.zone a b).demand) ∧
    (∀ z, let q := s.zone st z
      let q' := t.zone st z
      let n := (v.get z).toNat
      q'.reading = some (if n = 65535 then .openCircuit else .temp (min n 3000)) ∧ q'.age = some 0 ∧ q'.mask = q.mask ∧
      (s.zoneParams st z = none → q'.block = q.block ∧ q'.demand = q.demand) ∧
      (∀ p, s.zoneParams st z = some p → n = 65535 → q'.block = .openCircuit ∧
        (q.block ≠ .openCircuit → q'.demand = false ∧ (t.units.get st).hard = true)) ∧
      ∀ p, s.zoneParams st z = some p → n ≠ 65535 →
        if p.setpoint + s.settings.overLimit < min n 3000 then
          q'.block = .overheat ∧ (q.block ≠ .overheat → q'.demand = false ∧ (t.units.get st).hard = true)
        else if q.block = .overheat ∧ p.setpoint < min n 3000 then q'.block = .overheat ∧ q'.demand = q.demand
        else q'.block = .none ∧ q'.demand =
          if q.inService then decide (min n 3000 < p.setpoint) || q.request
          else decide (min n 3000 + p.reqOffset ≤ p.setpoint) || (decide (p.mode = .latched) && q.request)) ∧
    t.heat.order = (s.heat.order.filter fun x => decide (x ∉ finished.map fun z => (st, z))) ++ finished.map (fun z => (st, z)) ∧
    (s.heat.order.Perm Heat.defaultOrder → 0 < s.settings.minHold → GrantsByRank s t fun p =>
      (s.zone p.1 p.2).inService && !(decide (p.1 = st) && (blocked p.2 || finishes p.2))) ∧
    (TripsMirrored s → (t.units.get st).tripped = (s.units.get st).tripped → OnSetsHanded s t ∧
      t = { s with heat := t.heat, links := t.links, units := t.units, ports := t.ports })

/-- A millisecond tick adds 1 to every running slot timer and to every reading's age, and both hold at 65,535 (R112, R117). A station
of which an enabled zone's age is above 500 ms goes stale once: its flag is set and STALE_HEAT, a soft fault, is raised at its unit
(R117, R154). A zone whose slot timer has reached MAX_HOLD ends its slot, goes to the lowest rank and records HEAT_SLOW as a warning;
the slot goes to the eligible zone of highest rank, in QUEUED mode, and with MIN_HOLD at or above MAX_HOLD, to it alone, and each on-set
that changed is handed to its link (R104, R110, R111, R112). In PREEMPT a zone whose timer has reached MIN_HOLD is followed by the grant
pass: each zone keeps its demand, its reading, its mask and its block, and after the pass no zone is eligible while a slot is free, nor
one that could displace another (R110, R112, R113). With MIN_HOLD at or above MAX_HOLD preemption never takes place: every zone in
service keeps its slot and its timer (R112). That the commands act at or above the value is the model's choice (log entry 15), and that a
timer which a settings write leaves above both is not preempted either is deduced (log entry 53). -/
def Obligations.TimeAgesZonesAndEndsTheirSlots : Prop :=
  (∀ s : State, exec .millisecondTick s = .next
    { s with heat := { s.heat with zones := .tab fun st => .tab fun z =>
        { s.zone st z with age := (s.zone st z).age.map fun n => min (n + 1) 65535,
                           slotTimer := (s.zone st z).slotTimer.map fun n => min (n + 1) 65535 } } }) ∧
  (∀ (st z : Idx) (n : Nat) (s : State), s.heat.stale.get st = false → (s.zoneParams st z).isSome = true →
    (s.zone st z).age = some n → 500 < n → TripsMirrored s → (s.units.get st).soft = false →
    exec (.staleHeat st) s = .next
      (let record : FaultRecord :=
        { kind := .staleHeat, effect := .setSoft, detail := none, h := s.web.h, seq := none, column := none, target := none,
          trim := some (s.calcs.get st).trim, line := s.line }
       ({ s with heat := { s.heat with stale := s.heat.stale.set st true },
                 units := s.units.set st { s.units.get st with soft := true, latest := some record } } : State).offer
        (.unitSoft (.station st)))) ∧
  (∀ (st z : Idx) (n : Nat) (s : State), (s.zone st z).slotTimer = some n → s.settings.maxHold ≤ n →
    ∃ t, exec (.maxHoldExpiry st z) s = .next t ∧ (t.zone st z).demand = (s.zone st z).request ∧
      (∀ a b, (a, b) ≠ (st, z) → (t.zone a b).demand = (s.zone a b).demand) ∧
      (∀ a b, (t.zone a b).block = (s.zone a b).block ∧ (t.zone a b).mask = (s.zone a b).mask ∧
        (t.zone a b).reading = (s.zone a b).reading ∧ (t.zone a b).age = (s.zone a b).age) ∧
      t.heat.order = (s.heat.order.filter fun x => decide (x ≠ (st, z))) ++ [(st, z)] ∧
      (s.heat.order.Perm Heat.defaultOrder → 0 < s.settings.minHold → GrantsByRank s t fun p =>
        (s.zone p.1 p.2).inService && decide (p ≠ (st, z))) ∧
      (TripsMirrored s → OnSetsHanded s t ∧ t.units = s.units.set st { s.units.get st with
          latest := some { kind := .heatSlow, effect := .warning, detail := some (.zone st z), h := s.web.h, seq := none,
                           column := none, target := none, trim := some (s.calcs.get st).trim, line := s.line } } ∧
        t = { s with heat := t.heat, links := t.links, units := t.units })) ∧
  ∀ (st z : Idx) (n : Nat) (s : State), (s.zone st z).slotTimer = some n → s.settings.minHold ≤ n →
    s.settings.arbMode = .preempt → 0 < s.settings.minHold → s.heat.order.Perm Heat.defaultOrder →
    ∃ t, exec (.minHoldReached st z) s = .next t ∧
      (∀ a b, (t.zone a b).demand = (s.zone a b).demand ∧ (t.zone a b).block = (s.zone a b).block ∧
        (t.zone a b).mask = (s.zone a b).mask ∧ (t.zone a b).reading = (s.zone a b).reading ∧
        (t.zone a b).age = (s.zone a b).age) ∧
      t.heat.order = s.heat.order ∧
      (∀ p, t.eligible p = true → s.settings.nSlot ≤ t.slotsHeld ∧ t.displaceable p = []) ∧
      (s.settings.maxHold ≤ s.settings.minHold → ∀ a b, (s.zone a b).inService = true →
        (t.zone a b).slotTimer = (s.zone a b).slotTimer) ∧
      t = { s with heat := t.heat, links := t.links }

/-- The Line Port's requests at a zone: SET ZONE MASK gives the zone the mask named, and a zone masked in service ends its slot and waits
(R114); FINISH ZONE ends the slot of a zone in service, which leaves the request as it stands and with rotate takes the zone to the lowest
rank, and is refused STATE out of service; SET LOWEST turns the order as a ring until the zone stands at rank 16 (R115). No other zone's
demand, mask or block changes. A zone or a station outside 0..3 is answered RANGE. -/
def Obligations.ZoneRequestsAreObeyed : Prop :=
  ∀ (hdr : ReqHdr) (sb zb : Byte) (s : State), hdr.port = .line →
    (idxOf sb = none ∨ idxOf zb = none →
      (∀ v, s.takes hdr (.setZoneMask · sb zb v) → exec (.setZoneMask hdr sb zb v) s = .next (s.answered hdr 11 .range .empty)) ∧
      (∀ r, s.takes hdr (.finishZone · sb zb r) → exec (.finishZone hdr sb zb r) s = .next (s.answered hdr 12 .range .empty)) ∧
      (s.takes hdr (.setLowest · sb zb) → exec (.setLowest hdr sb zb) s = .next (s.answered hdr 13 .range .empty))) ∧
    ∀ st z, idxOf sb = some st → idxOf zb = some z →
      let kept (t : State) (code : Byte) : Prop :=
        (∀ a b, (t.zone a b).block = (s.zone a b).block ∧ (t.zone a b).reading = (s.zone a b).reading ∧
          (t.zone a b).age = (s.zone a b).age ∧
          ((a, b) ≠ (st, z) → (t.zone a b).demand = (s.zone a b).demand ∧ (t.zone a b).mask = (s.zone a b).mask)) ∧
        (t.ports.get .line).tx = (s.ports.get .line).tx ++ [{ tag := hdr.tag, code := code, result := .ok, body := .empty }] ∧
        t = { s with heat := t.heat, links := t.links, ports := t.ports }
      (∀ v, s.takes hdr (.setZoneMask · sb zb (some v)) → ∃ t, exec (.setZoneMask hdr sb zb (some v)) s = .next t ∧ kept t 11 ∧
        (t.zone st z).mask = v ∧ (t.zone st z).demand = (s.zone st z).demand ∧ t.heat.order = s.heat.order ∧
        (v = true → (s.zone st z).mask = false → (t.zone st z).inService = false)) ∧
      (∀ r, s.takes hdr (.finishZone · sb zb (some r)) →
        ((s.zone st z).inService = false → exec (.finishZone hdr sb zb (some r)) s = .next (s.answered hdr 12 .state .empty)) ∧
        ((s.zone st z).inService = true → ∃ t, exec (.finishZone hdr sb zb (some r)) s = .next t ∧ kept t 12 ∧
          (t.zone st z).demand = (s.zone st z).request ∧ (t.zone st z).mask = (s.zone st z).mask ∧
          t.heat.order = if r then (s.heat.order.filter fun x => decide (x ≠ (st, z))) ++ [(st, z)] else s.heat.order)) ∧
      (s.takes hdr (.setLowest · sb zb) → ∀ above below, s.heat.order = above ++ (st, z) :: below → (st, z) ∉ above →
        ∃ t, exec (.setLowest hdr sb zb) s = .next t ∧ kept t 13 ∧ (t.zone st z).demand = (s.zone st z).demand ∧
          (t.zone st z).mask = (s.zone st z).mask ∧ t.heat.order = below ++ above ++ [(st, z)])

/-! ### Station sequencers -/

/-- The awaited ORDER ACK makes its order ACKED (R69) or FAULTED with a hard fault (R70); an ack timeout makes it FAULTED with a hard
fault and the station UNPHASED (R71). In each case nothing is awaited any more, the timer stops, and the queued order goes out as its
STRIKE ORDER and is awaited (R68). Where H has reached T' + REPORT_SPAN as the ack accepts, the deadline is taken at once: the order is
UNCONFIRMED with the soft fault NO_REPORT, and a copy of it is overdue (R69, R76). An order that leaves the in-flight list releases its
foil, with nothing consumed (R91, R94). Where HARD was set already a hard fault trips the unit instead, and the orders still in flight,
the one that has just gone out among them, are aborted (R84, R155). No other record changes, and nothing of another station. An ack of
any other seq changes nothing (R72). That an order still unsent is withdrawn as it is settled is deduced (log entry 9). -/
def Obligations.AcksSettleTheAwaitedOrder : Prop :=
  ∀ (st : Idx) (q : SeqNo) (s : State), TripsMirrored s →
    let sq := s.seqr.get st
    let unit := s.units.get st
    (sq.awaited ≠ .order q → ∀ res, exec (.orderAck st q res) s = .next s) ∧
    ∀ r, sq.awaited = .order q → s.record q = some r →
      let f := r.st.get st
      let left := sq.inFlight.filter fun e => decide (e.seq ≠ q)
      let free : Sequencer := { sq with awaited := .none, timer := none }
      let queuedStands : Prop := ∀ x, sq.queue = some x → (∃ e ∈ left, e.seq = x) ∧ (s.record x).isSome = true
      let due : Prop := reached s.web.h (plus (f.target.getD 0) (s.reportSpan r.slot st)) = true ∧ sq.holds q = true ∧ q ∉ sq.abortSet
      let copy : OverdueEntry :=
        { seq := r.seq, slot := r.slot, decision := f.decision, target := f.target.getD 0, feed := f.feed.getD (.all 0) }
      let late : Sequencer := { free with
        inFlight := left,
        overdue := (match sq.overdue with
          | [] => []
          | x :: xs => if 2 ≤ xs.length + 1 then xs else x :: xs) ++ [copy] }
      let closed (t : State) (status : Status) : Prop :=
        t.track = s.track.map (fun x => if x.seq = q then x.updStation st fun f => { f with status := status } else x) ∧
        (∀ c, ((t.lanes.get st).get c).reserved = ((s.lanes.get st).get c).reserved - (f.feed.getD (.all 0)).get c ∧
          ((t.lanes.get st).get c).remaining = ((s.lanes.get st).get c).remaining) ∧ SameElsewhere s t st
      (¬ due → ∃ t, exec (.orderAck st q .accepted) s = .next t ∧ QueuedGoesOut s t st free ∧ SameElsewhere s t st ∧
        t.track = s.track.map (fun x => if x.seq = q then x.updStation st fun f => { f with status := .acked } else x) ∧
        t = { s with track := t.track, seqr := t.seqr, links := t.links }) ∧
      (due → unit.soft = false ∨ unit.hard = false ∨ unit.tripped = true →
        ∃ t, exec (.orderAck st q .accepted) s = .next t ∧ closed t .unconfirmed ∧ QueuedGoesOut s t st late ∧
          (t.units.get st).soft = true ∧ (t.units.get st).hard = (unit.soft || unit.hard) ∧
          (t.units.get st).tripped = unit.tripped ∧
          (t.units.get st).latest.map (fun l => (l.kind, l.seq, l.target)) = some (.noReport, some q, f.target) ∧
          t = { s with track := t.track, seqr := t.seqr, lanes := t.lanes, slots := t.slots, units := t.units, ports := t.ports,
                       links := t.links }) ∧
      (due → unit.soft = true → unit.hard = true → unit.tripped = false → queuedStands →
        ∃ t, exec (.orderAck st q .accepted) s = .next t ∧ closed t .unconfirmed ∧ TripTaken s t st left ∧
          (t.seqr.get st).overdue = late.overdue) ∧
      (unit.hard = true → unit.tripped = false → queuedStands →
        (∀ res, res ≠ .accepted → ∃ t, exec (.orderAck st q res) s = .next t ∧ closed t .faulted ∧ TripTaken s t st left) ∧
        ∃ t, exec (.ackTimeout st) s = .next t ∧ closed t .faulted ∧ TripTaken s t st left ∧
          (t.seqr.get st).lastTimedOut = some q) ∧
      (unit.hard = false ∨ unit.tripped = true →
        let faulted (t : State) : Prop :=
          closed t .faulted ∧ (t.units.get st).hard = true ∧
          (t.units.get st).tripped = unit.tripped ∧ (t.units.get st).soft = unit.soft ∧
          t = { s with track := t.track, seqr := t.seqr, lanes := t.lanes, slots := t.slots, calcs := t.calcs, units := t.units,
                       ports := t.ports, links := t.links }
        (∀ res, res ≠ .accepted → ∃ t, exec (.orderAck st q res) s = .next t ∧ faulted t ∧ t.calcs = s.calcs ∧
          QueuedGoesOut s t st { free with inFlight := left }) ∧
        ∃ t, exec (.ackTimeout st) s = .next t ∧ faulted t ∧
          t.calcs = s.calcs.set st { s.calcs.get st with phased := false } ∧
          QueuedGoesOut s t st { free with inFlight := left, lastTimedOut := some q })

/-- A STRIKE REPORT for an order in flight that is ACKED, or awaited, when it is the ack too and the queued order goes out first
(R72), completes it: its report is stored, it leaves the in-flight list, its reserved foil is released and what it advanced is
consumed (R73, R74, R93). A STRIKE with CONTACT is DONE, and where the record is not COASTED the trim moves by the reported error
through GAIN, SLEW and TRIM_LIM (R53, R54); a STRIKE or DRY with CONTACT and an error beyond TOL raises the soft fault OFF_REGISTER
with the trim after the update (R55); a LIFT without contact is DONE and, with the phasing flag, makes the station PHASED (R51); a
LIFT that made contact and a STRIKE that did not are FAULTED with a hard fault, and the trim stays. The descriptor of a lane that was
fed and pulled foil has STRUCK set, and a first-off of this seq on a lane that pulled none is OPEN again; no other descriptor changes
(R93). Each column of the break mask whose lane is READY, LOW or OUT becomes BROKEN with the hard fault FOIL_BREAK (R96). Where these
make more hard faults than the unit takes without a trip, it trips and the orders still in flight are aborted (R84, R155). Another
record changes at most in its watch mark, and nothing of another station changes. A report that is neither for such an order nor for
an overdue one, an order in the link queue among them, is discarded (R72, R78). That an order not yet sent leaves the link's waiting
list as a report settles it is the model's choice (log entry 9). -/
def Obligations.StrikeReportsCompleteOrders : Prop :=
  ∀ (st : Idx) (fr : StrikeReportFrame) (s : State), TripsMirrored s →
    let sq := s.seqr.get st
    let unit := s.units.get st
    ((∀ x ∈ sq.overdue, x.seq ≠ fr.seq) →
      (sq.holds fr.seq = false ∨
        (sq.awaited ≠ .order fr.seq ∧ fr.seq ∉ sq.abortSet ∧
          (s.record fr.seq).map (fun r => (r.st.get st).status) ≠ some .acked)) →
      exec (.strikeReport st fr) s = .next s) ∧
    ∀ (r : TrackRecord) (p : StationEntry), s.record fr.seq = some r → s.entry r.slot st = some p → sq.holds fr.seq = true →
      fr.seq ∉ sq.abortSet → sq.queue ≠ some fr.seq → (r.st.get st).status = .acked ∨ sq.awaited = .order fr.seq →
      let f := r.st.get st
      let left := sq.inFlight.filter fun x => decide (x.seq ≠ fr.seq)
      let e := if fr.ePresent ∧ fr.e.toInt ≠ -32768 then some fr.e.toInt else none
      let d (e : Int) : Int := -(rha (e * p.gain) 16)
      let moved (e : Int) : Int := if p.slew < (d e).natAbs then signOf (d e) * p.slew else d e
      let advanced : Four Nat := .tab fun c => (fr.advanced.get c).toNat
      let mismatch : Bool := decide (f.decision = .lift ↔ fr.outcome = .contact)
      let off : Bool := decide (f.decision ≠ .lift) && decide (fr.outcome = .contact) && e.any fun n => decide (p.tol < n.natAbs)
      let lane (c : Idx) : Lane := (s.lanes.get st).get c
      let broken (c : Idx) : Bool :=
        fr.breakMask.get c && decide ((lane c).state = .ready ∨ (lane c).state = .low ∨ (lane c).state = .out)
      let hards : Nat := (Idx.all.filter broken).length + mismatch.toNat + (off && unit.soft).toNat
      let completed (t : State) : Prop :=
        (∃ mark : TrackRecord → Four Bool, t.track = s.track.map fun x =>
          { (if x.seq = fr.seq then x.updStation st fun f =>
              { f with status := if mismatch then .faulted else .done,
                       report := some { outcome := fr.outcome, e := e, advanced := advanced } } else x) with
            watchMark := mark x }) ∧ SameElsewhere s t st ∧
        (∀ c, (t.lanes.get st).get c =
          { lane c with
            remaining := (lane c).remaining - advanced.get c, reserved := (lane c).reserved - (f.feed.getD (.all 0)).get c,
            state := if broken c then .broken
              else if (lane c).state = .ready ∧ (lane c).remaining - advanced.get c < (s.settings.low.get st).get c then .low
              else (lane c).state }) ∧
        (f.decision = .strike → fr.outcome = .contact → r.origin ≠ .coasted → ∀ n, e = some n →
          (t.calcs.get st).trim = clampAbs (s.trimLimit st) ((s.calcs.get st).trim + moved n)) ∧
        (f.decision ≠ .strike ∨ r.origin = .coasted ∨ fr.outcome ≠ .contact ∨ e = none →
          (t.calcs.get st).trim = (s.calcs.get st).trim) ∧
        (t.calcs.get st).last = (s.calcs.get st).last ∧ (t.calcs.get st).missed = (s.calcs.get st).missed ∧
        (∀ j v c, t.descriptor j v c = (s.descriptor j v c).map fun x =>
          if j = r.slot ∧ v = st then
            { x with struck := x.struck || (decide (0 < advanced.get c) && decide (0 < (f.feed.getD (.all 0)).get c)),
                     stage := if advanced.get c = 0 ∧ x.stage = .awaiting fr.seq then .vacant else x.stage }
          else x) ∧
        ∀ j, t.slots.get j = { s.slots.get j with job := (t.slots.get j).job }
      (unit.tripped = false → 2 ≤ hards ∨ (unit.hard = true ∧ 1 ≤ hards) → sq.awaited ≠ .abort →
        (left ≠ [] ∨ sq.awaited = .none ∨ sq.awaited = .order fr.seq) →
        (sq.awaited ≠ .order fr.seq → sq.queue = none) →
        (∀ x, sq.queue = some x → (∃ y ∈ left, y.seq = x) ∧ (s.record x).isSome = true) →
        ∃ t, exec (.strikeReport st fr) s = .next t ∧ completed t ∧
          TripTaken { s with units := s.units.set st { unit with soft := unit.soft || off } } t st left) ∧
      (unit.tripped = true ∨ hards = 0 ∨ (unit.hard = false ∧ hards = 1) →
        ∃ t, exec (.strikeReport st fr) s = .next t ∧ completed t ∧
        (sq.awaited ≠ .order fr.seq → t.seqr.get st = { sq with inFlight := left } ∧ t.links = s.links) ∧
        (sq.awaited = .order fr.seq → QueuedGoesOut s t st { sq with awaited := .none, timer := none, inFlight := left }) ∧
        (t.calcs.get st).phased = ((s.calcs.get st).phased ||
          (decide (f.decision = .lift) && decide (fr.outcome ≠ .contact) && sq.phasing fr.seq && !unit.tripped)) ∧
        (t.units.get st).hard = (unit.hard || decide (0 < hards)) ∧ (t.units.get st).soft = (unit.soft || off) ∧
        (t.units.get st).tripped = unit.tripped ∧
        (∀ c, broken c = true → unit.first = none → hards = 1 →
          (t.units.get st).first.map (fun x => (x.kind, x.seq, x.column)) = some (.foilBreak, some fr.seq, some c)) ∧
        (off = true → (t.units.get st).latest.map (fun x => (x.kind, x.seq, x.target, x.trim)) =
          some (.offRegister, some fr.seq, f.target, some (t.calcs.get st).trim)) ∧
        t = { s with track := t.track, seqr := t.seqr, lanes := t.lanes, slots := t.slots, calcs := t.calcs, units := t.units,
                     ports := t.ports, watches := t.watches, stopReq := t.stopReq, links := t.links })

/-- A report deadline taken at its turn makes its order UNCONFIRMED with NO_REPORT, a soft fault: the order leaves the in-flight list, its
feeds are released, and a copy of it joins the overdue list, of which the older of two is dropped (R60, R76). The report that comes
after all is late: it leaves the overdue list, its foil is consumed, the record's report is stored with the status kept, and LATE_REPORT
is recorded as a warning (R77). Another record changes at most in its watch mark, and nothing of another station changes. -/
def Obligations.MissingReportsGoOverdue : Prop :=
  (∀ (st : Idx) (r : TrackRecord) (s : State), TripsMirrored s → s.deadlineTurn st = some r → s.record r.seq = some r →
    (s.units.get st).soft = false →
    let f := r.st.get st
    let copy : OverdueEntry :=
      { seq := r.seq, slot := r.slot, decision := f.decision, target := f.target.getD 0, feed := f.feed.getD (.all 0) }
    ∃ t, exec (.reportDeadline st r.seq) s = .next t ∧
      t.track = s.track.map (fun x => if x.seq = r.seq then x.updStation st fun f => { f with status := .unconfirmed } else x) ∧
      SameElsewhere s t st ∧
      t.seqr.get st = { s.seqr.get st with
        inFlight := (s.seqr.get st).inFlight.filter fun e => decide (e.seq ≠ r.seq),
        overdue := (match (s.seqr.get st).overdue with
          | [] => []
          | x :: xs => if 2 ≤ xs.length + 1 then xs else x :: xs) ++ [copy] } ∧
      (∀ c, ((t.lanes.get st).get c).reserved = ((s.lanes.get st).get c).reserved - (f.feed.getD (.all 0)).get c ∧
        ((t.lanes.get st).get c).remaining = ((s.lanes.get st).get c).remaining) ∧
      (t.units.get st).soft = true ∧ (t.units.get st).hard = (s.units.get st).hard ∧
      t = { s with track := t.track, seqr := t.seqr, lanes := t.lanes, slots := t.slots, units := t.units, ports := t.ports }) ∧
  ∀ (st : Idx) (fr : StrikeReportFrame) (x : OverdueEntry) (s : State), TripsMirrored s →
    (∀ e ∈ (s.seqr.get st).inFlight, e.seq ≠ fr.seq) → (s.seqr.get st).overdue = [x] → x.seq = fr.seq →
    fr.breakMask = .all false →
    ∃ t, exec (.strikeReport st fr) s = .next t ∧ t.seqr.get st = { s.seqr.get st with overdue := [] } ∧
      (∀ c, ((t.lanes.get st).get c).remaining = ((s.lanes.get st).get c).remaining - (fr.advanced.get c).toNat ∧
        ((t.lanes.get st).get c).reserved = ((s.lanes.get st).get c).reserved) ∧
      (∃ mark : TrackRecord → Four Bool, t.track = s.track.map fun y =>
        { (if y.seq = fr.seq then y.updStation st fun f =>
            { f with report := some { outcome := fr.outcome, e := if fr.ePresent ∧ fr.e.toInt ≠ -32768 then some fr.e.toInt else none,
                                      advanced := .tab fun c => (fr.advanced.get c).toNat } } else y) with
          watchMark := mark y }) ∧ SameElsewhere s t st ∧
      (t.units.get st).latest.map (fun l => (l.kind, l.effect, l.seq)) = some (.lateReport, .warning, some fr.seq) ∧
      (t.units.get st).soft = (s.units.get st).soft ∧ (t.units.get st).hard = (s.units.get st).hard ∧
      t = { s with track := t.track, seqr := t.seqr, lanes := t.lanes, slots := t.slots, units := t.units, ports := t.ports,
                   watches := t.watches, stopReq := t.stopReq }

/-- Aborts end (R80 to R83): the ABORT REPORT of a seq of the set closes its order as DONE where contact was made and MISSED where it was
not, with its foil released and consumed by what it advanced; a LIFT that made contact is FAULTED, a hard fault; one for another seq is
discarded. A STRIKE REPORT for a seq of the set completes its record by its outcome and settles the abort alike. When the set is empty
nothing is awaited and a queued order goes out. The abort timeout closes every order of the set MISSED with a hard fault and the station
UNPHASED. Each seq settled tells the hold context CONTACT_MADE or NOT_MADE, and UNKNOWN at a timeout or a link loss (R140). Loss of a
station link's carrier closes every order in flight, transmitted or queued, MISSED where an abort names it and FAULTED elsewhere, empties
the sequencer's lists and its queue, makes the station UNPHASED and is a hard fault (R79). Of a queued order that a commit measured as
PHASED R52 says that it goes out as computed: whether its frame still does when the carrier returns is a free value,
Config.linkLossSendsQueued, the model's choice (log entry 49). Where HARD was set already a hard fault trips the unit, and the orders
still in flight are aborted (R84, R155). Another record changes at most in its watch mark, and nothing of another station changes. That
the waiting list of the link is emptied of all else at the loss of carrier, and that an order which has not started to go out leaves it
when it is settled, is the model's choice (log entry 9). -/
def Obligations.AbortsAndLinkLossCloseOrders : Prop :=
  ∀ (st : Idx) (s : State), TripsMirrored s →
    let sq := s.seqr.get st
    let queuedStands (left : List InFlight) : Prop :=
      ∀ q, sq.queue = some q → (∃ e ∈ left, e.seq = q) ∧ (s.record q).isSome = true
    let steady : Prop := (s.units.get st).hard = false ∨ (s.units.get st).tripped = true
    (∀ q found n, q ∉ sq.abortSet → exec (.abortReport st q found n) s = .next s) ∧
    (∀ q found n r, q ∈ sq.abortSet → sq.awaited = .abort → s.record q = some r →
      let left := sq.inFlight.filter fun e => decide (e.seq ≠ q)
      let outcome : AbortOutcome := if found = .contactMade then .contactMade else .notMade
      let mismatch : Prop := found = .contactMade ∧ (r.st.get st).decision = .lift
      let closed (t : State) : Prop :=
        (∃ mark : TrackRecord → Four Bool, t.track = s.track.map fun x =>
          { (if x.seq = q then x.updStation st fun f =>
              { f with status := if found = .notMade then .missed else if (r.st.get st).decision = .lift then .faulted else .done,
                       report := some { outcome := if found = .notMade then .noContact else .contact, e := none,
                                        advanced := .tab fun c => (n.get c).toNat } } else x) with
            watchMark := mark x }) ∧ SameElsewhere s t st ∧
        ∀ c, ((t.lanes.get st).get c).remaining = ((s.lanes.get st).get c).remaining - (n.get c).toNat ∧
          ((t.lanes.get st).get c).reserved = ((s.lanes.get st).get c).reserved - s.feedsOf st c [q]
      (mismatch → ¬ steady → queuedStands left → ∃ t, exec (.abortReport st q found n) s = .next t ∧ closed t ∧
        UnitTripTaken s t st ∧ (t.seqr.get st).context = contextSettled sq.context [q] outcome ∧
        (if ∀ x ∈ sq.abortSet, x = q then TripTaken s t st left
         else t.seqr.get st = { sq with
            inFlight := left, abortSet := sq.abortSet.filter fun x => decide (x ≠ q), tripped := true,
            context := contextSettled sq.context [q] outcome, beforeTrip := (t.seqr.get st).beforeTrip } ∧
            (s.line = .run → (t.seqr.get st).beforeTrip = some { phased := (s.calcs.get st).phased, withdrawn := none,
                                                                 idleAt := if left = [] then some s.web else none }) ∧ t.links.get st = s.links.get st)) ∧
      (¬ mismatch ∨ steady → ∃ t, exec (.abortReport st q found n) s = .next t ∧ closed t ∧
        AbortSettled s t st sq q outcome ∧
        (mismatch → (t.units.get st).hard = true) ∧ (¬ mismatch → (t.units.get st).hard = (s.units.get st).hard) ∧
        (t.units.get st).tripped = (s.units.get st).tripped ∧
        t = { s with track := t.track, seqr := t.seqr, lanes := t.lanes, slots := t.slots, units := t.units, ports := t.ports,
                     links := t.links, watches := t.watches, stopReq := t.stopReq })) ∧
    (∀ (fr : StrikeReportFrame) r, fr.seq ∈ sq.abortSet → sq.awaited = .abort → sq.holds fr.seq = true →
      s.record fr.seq = some r → fr.breakMask = .all false → (s.units.get st).hard = false →
      let mismatch : Prop := (r.st.get st).decision = .lift ↔ fr.outcome = .contact
      ∃ t, exec (.strikeReport st fr) s = .next t ∧
        (∃ mark : TrackRecord → Four Bool, t.track = s.track.map fun x =>
          { (if x.seq = fr.seq then x.updStation st fun f =>
              { f with status := if mismatch then .faulted else .done,
                       report := some { outcome := fr.outcome, e := if fr.ePresent ∧ fr.e.toInt ≠ -32768 then some fr.e.toInt else none,
                                        advanced := .tab fun c => (fr.advanced.get c).toNat } } else x) with
            watchMark := mark x }) ∧ SameElsewhere s t st ∧
        AbortSettled s t st sq fr.seq (if fr.outcome = .contact then .contactMade else .notMade) ∧
        (∀ c, ((t.lanes.get st).get c).remaining = ((s.lanes.get st).get c).remaining - (fr.advanced.get c).toNat ∧
          ((t.lanes.get st).get c).reserved = ((s.lanes.get st).get c).reserved - s.feedsOf st c [fr.seq]) ∧
        t = { s with track := t.track, seqr := t.seqr, lanes := t.lanes, slots := t.slots, calcs := t.calcs, units := t.units,
                     ports := t.ports, links := t.links, watches := t.watches, stopReq := t.stopReq }) ∧
    (sq.awaited = .abort →
      let left := sq.inFlight.filter fun e => decide (e.seq ∉ sq.abortSet)
      let context := contextSettled sq.context sq.abortSet .unknown
      let closed (t : State) : Prop :=
        t.track = s.track.map (fun x =>
          if x.seq ∈ sq.abortSet then x.updStation st fun f => { f with status := .missed } else x) ∧
        (∀ c, ((t.lanes.get st).get c).remaining = ((s.lanes.get st).get c).remaining ∧
          ((t.lanes.get st).get c).reserved = ((s.lanes.get st).get c).reserved - s.feedsOf st c sq.abortSet) ∧
        SameElsewhere s t st
      (¬ steady → queuedStands left →
        ∃ t, exec (.abortTimeout st) s = .next t ∧ closed t ∧ TripTaken s t st left ∧ (t.seqr.get st).context = context) ∧
      (steady → ∃ t, exec (.abortTimeout st) s = .next t ∧ closed t ∧
        QueuedGoesOut s t st { sq with inFlight := left, abortSet := [], awaited := .none, timer := none, context := context } ∧
        t.calcs = s.calcs.set st { s.calcs.get st with phased := false } ∧ (t.units.get st).hard = true ∧
        (t.units.get st).tripped = (s.units.get st).tripped ∧
        t = { s with track := t.track, seqr := t.seqr, lanes := t.lanes, slots := t.slots, calcs := t.calcs, units := t.units,
                     ports := t.ports, links := t.links })) ∧
    ((s.links.get st).carrier = true →
      let context := contextSettled sq.context sq.abortSet .unknown
      let faulted := (sq.inFlight.map (·.seq)).filter fun q => decide (q ∉ sq.abortSet)
      let inPhase : Option SeqNo := sq.queue.filter fun q => !sq.phasing q && !sq.restruck q && Config.linkLossSendsQueued
      let closed (t : State) : Prop :=
        t.track = s.track.map (fun x =>
          if x.seq ∈ sq.abortSet then x.updStation st fun f => { f with status := .missed }
          else if x.seq ∈ faulted then x.updStation st fun f => { f with status := .faulted } else x) ∧
        (∀ c, ((t.lanes.get st).get c).remaining = ((s.lanes.get st).get c).remaining ∧
          ((t.lanes.get st).get c).reserved = ((s.lanes.get st).get c).reserved -
            (s.feedsOf st c faulted + s.feedsOf st c sq.abortSet)) ∧
        SameElsewhere s t st ∧
        t.links.get st = { carrier := false, sending := none, waiting := ((inPhase.bind s.record).toList.map fun r =>
          let f := r.st.get st
          .strikeOrder r.seq f.decision false (f.target.getD 0) (f.feed.getD (.all 0))) }
      let ended : Sequencer := { sq with
        inFlight := [], awaited := .none, queue := none, timer := none, abortSet := [], overdue := [], context := context }
      (¬ steady → ∃ t, exec (.stationLinkLoss st) s = .next t ∧ closed t ∧ TripTaken s t st [] ∧
        t.seqr.get st = { ended with tripped := true, beforeTrip := (t.seqr.get st).beforeTrip }) ∧
      (steady → ∃ t, exec (.stationLinkLoss st) s = .next t ∧ closed t ∧ t.seqr.get st = ended ∧
        t.calcs = s.calcs.set st { s.calcs.get st with phased := false } ∧ (t.units.get st).hard = true ∧
        (t.units.get st).tripped = (s.units.get st).tripped ∧
        t = { s with track := t.track, seqr := t.seqr, lanes := t.lanes, slots := t.slots, calcs := t.calcs, units := t.units,
                     ports := t.ports, links := t.links }))

/-! ### Commits -/

/-- A commit taken at its turn is MISSED without an order outside RUN and while the station or the line unit is TRIPPED, and MISSED with
ORDER_OVERRUN while two orders are in flight; the missed count goes up to 8 (R44, R63, R64). A phasing order is a LIFT at
T = M + D + A + RHA(A x E / 2^20) + trim, and the station becomes UNPHASED (R46, R47, R63). A STRIKE of an EMBOSS station that is PHASED,
within STEP_MAX of its last target and with every case 6 to 10 passed over goes out at T and keeps the phase (R48, R49, R63). An order
joins the in-flight list, and is transmitted where nothing is awaited and queued otherwise; the last order and the missed count follow it
(R67, R68). No other record of the track changes, and nothing of another station. -/
def Obligations.CommitsDecideAndOrder : Prop :=
  ∀ (st : Idx) (r : TrackRecord) (s : State), TripsMirrored s → s.commitTurn st = some r → s.record r.seq = some r →
    (s.line ≠ .run ∨ (s.units.get st).tripped = true ∨ s.lineUnit.tripped = true →
      ∃ t, exec (.commit st r.seq) s = .next t ∧
        RecordBecomes s t r.seq (fun x => x.updStation st fun f => { f with status := .missed }) ∧
        t.calcs = s.calcs.set st { s.calcs.get st with missed := min ((s.calcs.get st).missed + 1) 8 } ∧
        t = { s with track := t.track, calcs := t.calcs, watches := t.watches, stopReq := t.stopReq, ports := t.ports }) ∧
    (s.line = .run → (s.units.get st).tripped = false → s.lineUnit.tripped = false →
      (2 ≤ (s.seqr.get st).inFlight.length → (s.units.get st).soft = false →
        ∃ t, exec (.commit st r.seq) s = .next t ∧
          RecordBecomes s t r.seq (fun x => x.updStation st fun f => { f with status := .missed }) ∧ SameElsewhere s t st ∧
          t.calcs = s.calcs.set st { s.calcs.get st with missed := min ((s.calcs.get st).missed + 1) 8 } ∧
          (t.units.get st).soft = true ∧ (t.units.get st).hard = (s.units.get st).hard ∧
          t = { s with track := t.track, calcs := t.calcs, units := t.units, watches := t.watches, stopReq := t.stopReq,
                       ports := t.ports }) ∧
      ∀ e, (s.seqr.get st).inFlight.length < 2 → (∀ x ∈ (s.seqr.get st).inFlight, x.seq ≠ r.seq) →
        s.entry r.slot st = some e →
        let c := s.calcs.get st
        let target := plus r.mark ((e.d : Int) + e.a + rha (e.a * r.eSnap) (2 ^ 20) + c.trim)
        let ordered (decision : Decision) (phasing : Bool) : Prop :=
          ∃ t, exec (.commit st r.seq) s = .next t ∧
            RecordBecomes s t r.seq (fun x => x.updStation st fun f =>
              { f with status := .committed, decision := decision, target := some target, feed := some (.all 0) }) ∧
            t.calcs.get st = { c with phased := !phasing, last := some { target := target, seq := r.seq, slot := r.slot },
                                      missed := 0 } ∧
            OrderIssued s t st r.seq phasing (.strikeOrder r.seq decision phasing target (.all 0)) ∧ SameElsewhere s t st ∧
            t = { s with track := t.track, calcs := t.calcs, seqr := t.seqr, links := t.links, watches := t.watches,
                         stopReq := t.stopReq, ports := t.ports }
        (c.phased = false ∨ c.last = none → ordered .lift true) ∧
        ∀ l, c.phased = true → c.last = some l → (r.seq - l.seq).toNat ≤ 8 → c.missed < 8 → r.slot = l.slot →
          (target - plus l.target (((r.seq - l.seq).toNat : Int) * (s.globals r.slot).p)).toInt.natAbs ≤ e.stepMax →
          r.flagged = false → r.origin = .real → r.locked = true → (s.globals r.slot).strikeMinSpeed ≤ s.web.v →
          s.hot st = true → e.type = .emboss → e.liftOnReject = false → ordered .strike false)

/-- A commit at a PHASED station that has a last order. A gap above 8, 8 commits missed in a row, or another slot than the last
order's makes a phasing LIFT (R47). Otherwise T' is T where the step from the expected target is within STEP_MAX, and STEP_MAX from it
where it is not (R48), and the class is CLAMPED or BEYOND_TOL by what that leaves against TOL (R49). Cases 6 to 10 are LIFTs in their
order: a splice, LOST, UNLOCKED or unpredicted COASTED record; a web below STRIKE_MIN_SPEED; a station not HOT, with COLD_COMMIT;
BEYOND_TOL, with REGISTER_CLAMP, both soft faults, here first ones; and every used column REJECT under LIFT_ON_REJECT (R63, R65). None
of them, an EMBOSS station strikes, with the warning CLAMP_IN_TOL where the class is CLAMPED (R49). The order is issued as any other
(R67, R68); no other record of the track changes, and nothing of another station. -/
def Obligations.CommitsLiftAndClamp : Prop :=
  ∀ (st : Idx) (r : TrackRecord) (s : State) (e : StationEntry) (l : LastOrder), TripsMirrored s → s.commitTurn st = some r →
    s.record r.seq = some r → s.line = .run → (s.units.get st).tripped = false → s.lineUnit.tripped = false →
    (s.seqr.get st).inFlight.length < 2 → (∀ x ∈ (s.seqr.get st).inFlight, x.seq ≠ r.seq) → s.entry r.slot st = some e →
    (s.calcs.get st).phased = true → (s.calcs.get st).last = some l →
    let c := s.calcs.get st
    let g := s.globals r.slot
    let target := plus r.mark ((e.d : Int) + e.a + rha (e.a * r.eSnap) (2 ^ 20) + c.trim)
    let expected := plus l.target (((r.seq - l.seq).toNat : Int) * g.p)
    let step := (target - expected).toInt
    let clamped := e.stepMax < step.natAbs
    let aim := if clamped then plus expected (if 0 < step then (e.stepMax : Int) else -(e.stepMax : Int)) else target
    let beyond := clamped ∧ e.tol < (target - aim).toInt.natAbs
    let ordered (decision : Decision) (phasing : Bool) (aim : Pos) (fault : Option (FaultKind × Effect × Option Pos)) : Prop :=
      ∃ t, exec (.commit st r.seq) s = .next t ∧
        RecordBecomes s t r.seq (fun x => x.updStation st fun f =>
          { f with status := .committed, decision := decision, target := some aim, feed := some (.all 0) }) ∧
        t.calcs = s.calcs.set st { c with phased := !phasing, last := some { target := aim, seq := r.seq, slot := r.slot },
                                          missed := 0 } ∧
        OrderIssued s t st r.seq phasing (.strikeOrder r.seq decision phasing aim (.all 0)) ∧ SameElsewhere s t st ∧
        t.units = s.units.set st (match fault with
          | none => s.units.get st
          | some (kind, effect, at') =>
            { s.units.get st with
                soft := (s.units.get st).soft || decide (effect = .setSoft),
                latest := some { kind := kind, effect := effect, detail := none, h := s.web.h, seq := some r.seq, column := none,
                                 target := at', trim := some c.trim, line := .run } }) ∧
        t = { s with track := t.track, calcs := t.calcs, seqr := t.seqr, links := t.links, units := t.units,
                     watches := t.watches, stopReq := t.stopReq, ports := t.ports }
    (8 < (r.seq - l.seq).toNat ∨ 8 ≤ c.missed ∨ r.slot ≠ l.slot → ordered .lift true target none) ∧
    ((r.seq - l.seq).toNat ≤ 8 → c.missed < 8 → r.slot = l.slot →
      if r.flagged = true ∨ r.origin = .lost ∨ r.locked = false ∨ (r.origin = .coasted ∧ g.coastPredict = false) then
        ordered .lift false aim none
      else if s.web.v < g.strikeMinSpeed then ordered .lift false aim none
      else if s.hot st = false then
        (s.units.get st).soft = false → ordered .lift false aim (some (.coldCommit, .setSoft, none))
      else if beyond then
        (s.units.get st).soft = false → ordered .lift false aim (some (.registerClamp, .setSoft, some aim))
      else if e.liftOnReject = true ∧ (Idx.all.all fun k => decide (r.verdict.get k = none ∨ r.verdict.get k = some .reject)) = true then
        ordered .lift false aim none
      else e.type = .emboss →
        ordered .strike false aim (if clamped then some (.clampInTol, .warning, some aim) else none))

/-- A commit that reaches case 11 at a foil station takes a feed of each lane that the code, the verdict and the state of the lane
allow: the descriptor's length where that much of the remaining foil is unpromised (R89), and none where it is not, when the lane runs
OUT with the hard fault and the notice FOIL_OUT (R90; here on one lane at most, HARD being clear). With a feed it is a STRIKE, with
none DRY (R66). The feeds are reserved (R91); a first-off feed makes its lane AWAITING_APPROVAL of this seq with ATTN, joins first_off
and raises FIRST_OFF_STRUCK, and a feed on an ON_REPORT lane sets ATTN and raises LANE_ATTN (R92). The STRIKE ORDER carries the feeds
(R67, R68). Nothing else of a lane or a descriptor changes, no other record of the track, and nothing of another station. -/
def Obligations.FoilCommitsFeedTheirLanes : Prop :=
  ∀ (st : Idx) (r : TrackRecord) (s : State) (e : StationEntry) (l : LastOrder) (ds : Four Descriptor), TripsMirrored s →
    s.commitTurn st = some r → s.record r.seq = some r → s.line = .run → (s.units.get st).tripped = false →
    s.lineUnit.tripped = false → (s.seqr.get st).inFlight.length < 2 → (∀ x ∈ (s.seqr.get st).inFlight, x.seq ≠ r.seq) →
    s.entry r.slot st = some e → e.type ≠ .emboss → e.lanes = some ds → e.liftOnReject = false →
    (s.calcs.get st).phased = true → (s.calcs.get st).last = some l → (r.seq - l.seq).toNat ≤ 8 → (s.calcs.get st).missed < 8 →
    r.slot = l.slot → r.flagged = false → r.origin = .real → r.locked = true →
    (s.globals r.slot).strikeMinSpeed ≤ s.web.v → s.hot st = true →
    let g := s.globals r.slot
    let target := plus r.mark ((e.d : Int) + e.a + rha (e.a * r.eSnap) (2 ^ 20) + (s.calcs.get st).trim)
    (target - plus l.target (((r.seq - l.seq).toNat : Int) * g.p)).toInt.natAbs ≤ e.stepMax →
    let lane (c : Idx) : Lane := (s.lanes.get st).get c
    let length (c : Idx) : Nat := (ds.get c).lf + (ds.get c).gf
    let allowed (c : Idx) : Bool := g.uses c &&
      decide ((ds.get c).code = .on ∨ (ds.get c).code = .onReport ∨ ((ds.get c).code = .firstOff ∧ (ds.get c).stage = .vacant)) &&
      decide (r.verdict.get c = some .good ∨ (r.verdict.get c = some .unknown ∧ g.unknownFeed = true)) &&
      decide ((lane c).state = .ready ∨ (lane c).state = .low)
    let short (c : Idx) : Bool := allowed c && decide ((lane c).remaining < (lane c).reserved + length c)
    let fed (c : Idx) : Nat := if allowed c && !short c then length c else 0
    (∀ c c', short c = true → short c' = true → c = c') → (∀ c, short c = true → (s.units.get st).hard = false) →
    let decision : Decision := if (Idx.all.any fun c => decide (0 < fed c)) = true then .strike else .dry
    let noticed (t : State) (n : Notice) : Prop :=
      ∀ p, (s.ports.get p).routing.cls n.kind ≠ .off → ∃ x ∈ (t.ports.get p).pending, x.notice = n
    ∃ t, exec (.commit st r.seq) s = .next t ∧
      RecordBecomes s t r.seq (fun x => { x.updStation st fun f =>
          { f with status := .committed, decision := decision, target := some target, feed := some (.tab fed) } with
        firstOff := x.firstOff.upd st fun row => .tab fun c =>
          row.get c || (decide ((ds.get c).code = .firstOff) && decide (0 < fed c)) }) ∧
      (∀ c, (t.lanes.get st).get c = { lane c with
        state := if short c then .out else (lane c).state, reserved := (lane c).reserved + fed c }) ∧
      OrderIssued s t st r.seq false (.strikeOrder r.seq decision false target (.tab fed)) ∧ SameElsewhere s t st ∧
      (∀ c, t.descriptor r.slot st c = some { ds.get c with
        stage := if (ds.get c).code = .firstOff ∧ 0 < fed c then .awaiting r.seq else (ds.get c).stage,
        attn := (ds.get c).attn ||
          (decide ((ds.get c).code = .firstOff ∨ (ds.get c).code = .onReport) && decide (0 < fed c)) }) ∧
      (∀ v, v ≠ st → t.entry r.slot v = s.entry r.slot v) ∧ t.slots.get r.slot.other = s.slots.get r.slot.other ∧
      (∀ c, 0 < fed c → ((ds.get c).code = .firstOff → noticed t (.firstOffStruck st c)) ∧
        ((ds.get c).code = .onReport → noticed t (.laneAttn st c))) ∧
      (∀ c, short c = true → noticed t (.foilOut st c) ∧ (t.units.get st).hard = true ∧ (t.units.get st).first ≠ none ∧
        (t.units.get st).tripped = false) ∧
      ((∀ c, short c = false) → t.units = s.units) ∧
      t.calcs = s.calcs.set st { s.calcs.get st with
        last := some { target := target, seq := r.seq, slot := r.slot }, missed := 0 } ∧
      t = { s with track := t.track, calcs := t.calcs, seqr := t.seqr, links := t.links, lanes := t.lanes, slots := t.slots,
                   units := t.units, watches := t.watches, stopReq := t.stopReq, ports := t.ports }

/-! ### The Mark Reader -/

/-- In LOCKED an edge in the window makes a REAL record, a window close a COASTED one, and in SEARCH the synthesis a LOST one, the
last two at pred (R12, R13, R15 to R18). The record joins at the tail under the ACTIVE slot with next seq, every present station
PENDING at its K, every used column UNKNOWN, and its Z (R25). An edge taken in LOCKED whose last mark is REAL has a pitch p, and moves
E by the share 2^-STRETCH_SMOOTH, rounded down, of its difference to RHA((p - P) x 2^20 / P) held in -32,768..32,768; every other
record keeps E (R21). The reader takes it as its last mark with a new pred and schedules its next event there. A LOCKED edge outside
the window is recorded as STRAY_MARK and changes nothing else (R13); one captured while the web was reversed, and one in IDLE, change
nothing (R11). Here the track has room, and H has reached nothing that the new record or pred schedules. -/
def Obligations.EdgesAndWindowsMakeRecords : Prop :=
  (∀ (c : Pos) (s : State), exec (.markEdge c true) s = .next s) ∧
  ∀ (s : State) (j : Slot) (l : LastMark), TripsMirrored s →
    (∀ c, s.reader.state = .idle → exec (.markEdge c false) s = .next s) ∧
    (s.active = some j → s.reader.last = some l → s.track.length < 48 → (∀ r ∈ s.track, r.seq ≠ s.nextSeq) →
      let g := s.globals j
      let z (m : Pos) : Pos := plus m ((s.slots.get j).retireDist.getD 0)
      let pred (m : Pos) (e : Int) : Pos := plus m ((g.p : Int) + rha (g.p * e) (2 ^ 20))
      let quiet (m : Pos) (e : Int) (wait : Nat) : Prop :=
        (∀ st x, s.entry j st = some x → reached s.web.h (plus m ((x.d : Int) - x.lead)) = false) ∧
        reached s.web.h (z m) = false ∧ reached s.web.h (plus (pred m e) wait) = false
      let record (m : Pos) (o : Origin) (locked : Bool) (pitch : Option Nat) (e : Int) : TrackRecord :=
        { seq := s.nextSeq, mark := m, origin := o, locked := locked, pitch := pitch, eSnap := e, slot := j,
          flagged := s.splices.any fun x => decide ((m - x.start).toNat ≤ (x.stop - x.start).toNat),
          watchMark := .all false, firstOff := .all (.all false),
          verdict := .tab fun c => if g.uses c then some .unknown else none,
          st := .tab fun st => match s.entry j st with
            | some x => { k := some (plus m ((x.d : Int) - x.lead)), decision := .none, status := .pending, target := none,
                          feed := none, report := none }
            | none => { k := none, decision := .pass, status := .passed, target := none, feed := none, report := none },
          z := z m }
      let joined (r : TrackRecord) (state : ReaderState) (lock coast : Nat) (event : ReaderEvent) : State :=
        { s with track := s.track ++ [r], nextSeq := s.nextSeq + 1,
                 slots := s.slots.upd j fun sl => { sl with refs := sl.refs + 1 },
                 reader := { state := state, last := some { mark := r.mark, origin := r.origin, pred := pred r.mark r.eSnap },
                             lock := lock, coast := coast, e := r.eSnap, event := some event } }
      (s.reader.state = .locked → ∀ c,
        ((plus (c - l.pred) g.wWin).toNat ≤ 2 * g.wWin →
          let pitch := if l.origin = .real then some (c - l.mark).toNat else none
          let inst (p : Nat) : Int := max (-32768) (min 32768 (rha (((p : Int) - g.p) * 2 ^ 20) g.p))
          let e := match pitch with
            | some p => s.reader.e + Int.fdiv (inst p - s.reader.e) (2 ^ g.stretchSmooth)
            | none => s.reader.e
          quiet c e (g.wWin + 1) → exec (.markEdge c false) s = .next
            (joined (record c .real true pitch e) .locked s.reader.lock 0 (.windowClose (plus (pred c e) (g.wWin + 1))))) ∧
        (2 * g.wWin < (plus (c - l.pred) g.wWin).toNat → exec (.markEdge c false) s = .next
          { s with lineUnit := { s.lineUnit with
              latest := some { kind := .strayMark, effect := .warning, detail := some (.captured c), h := s.web.h, seq := none,
                               column := none, target := none, trim := none, line := s.line } } })) ∧
      (∀ x, s.reader.state = .locked → s.reader.event = some (.windowClose x) → reached s.web.h x = true → 1 ≤ g.coastMax →
        quiet l.pred s.reader.e (g.wWin + 1) → exec .windowClose s = .next
          (joined (record l.pred .coasted true none s.reader.e) .coast s.reader.lock 1
            (.windowClose (plus (pred l.pred s.reader.e) (g.wWin + 1))))) ∧
      ∀ x, s.reader.state = .search → s.reader.event = some (.synthesis x) → reached s.web.h x = true →
        quiet l.pred s.reader.e 0 → exec .searchSynthesis s = .next
          (joined (record l.pred .lost false none s.reader.e) .search s.reader.lock s.reader.coast
            (.synthesis (pred l.pred s.reader.e))))

/-- The reader's other states. In ACQUIRE the first edge is accepted anywhere and makes an UNLOCKED record; one in the window
counts toward lock, and makes a LOCKED record and LOCKED where the count reaches LOCK_N; a window close makes a COASTED UNLOCKED
record with the lock count 0 (R14, R15). In COAST an edge in the window makes a LOCKED record without a stretch update and returns
to LOCKED; a close makes a further COASTED record (R17). A close that takes the coast count above COAST_MAX, from LOCKED where it
is 0, takes the reader into SEARCH, from COAST and LOCKED with REGISTER_LOST, a soft fault at U4 (R15, R16, R17; here a first
one). In SEARCH an edge restarts ACQUIRE with both counts 0: it converts a LOST tail that lies within half a pitch and is PENDING
wherever it commits, and otherwise makes a new record (R19, R28). A record for a full track is refused with TRACK_FULL, a hard
fault at U4, and STOP REQUEST, while the reader goes on (R27). Here H has reached nothing that the new record or pred schedules,
and no seq of the track is next seq. -/
def Obligations.EdgesAcquireCoastAndRestart : Prop :=
  ∀ (s : State) (j : Slot), TripsMirrored s → s.active = some j → (∀ r ∈ s.track, r.seq ≠ s.nextSeq) →
    let g := s.globals j
    let k := s.reader
    let pred (m : Pos) : Pos := plus m ((g.p : Int) + rha (g.p * k.e) (2 ^ 20))
    let ahead (slot : Slot) (m : Pos) : Prop :=
      (∀ st x, s.entry slot st = some x → reached s.web.h (plus m ((x.d : Int) - x.lead)) = false) ∧
      reached s.web.h (plus m ((s.slots.get slot).retireDist.getD 0)) = false
    let next (state : ReaderState) (m : Pos) : ReaderEvent × Pos :=
      if state = .search then (.synthesis (pred m), pred m)
      else (.windowClose (plus (pred m) (g.wWin + 1)), plus (pred m) (g.wWin + 1))
    let read (m : Pos) (o : Origin) (state : ReaderState) (lock coast : Nat) : Reader :=
      { state := state, last := some { mark := m, origin := o, pred := pred m }, lock := lock, coast := coast, e := k.e,
        event := some (next state m).1 }
    let record (m : Pos) (o : Origin) (locked : Bool) (pitch : Option Nat) : TrackRecord :=
      { seq := s.nextSeq, mark := m, origin := o, locked := locked, pitch := pitch, eSnap := k.e, slot := j,
        flagged := s.splices.any fun x => decide ((m - x.start).toNat ≤ (x.stop - x.start).toNat),
        watchMark := .all false, firstOff := .all (.all false),
        verdict := .tab fun c => if g.uses c then some .unknown else none,
        st := .tab fun st => match s.entry j st with
          | some x => { k := some (plus m ((x.d : Int) - x.lead)), decision := .none, status := .pending, target := none,
                        feed := none, report := none }
          | none => { k := none, decision := .pass, status := .passed, target := none, feed := none, report := none },
        z := plus m ((s.slots.get j).retireDist.getD 0) }
    let joined (r : TrackRecord) (state : ReaderState) (lock coast : Nat) : State :=
      { s with track := s.track ++ [r], nextSeq := s.nextSeq + 1,
               slots := s.slots.upd j fun sl => { sl with refs := sl.refs + 1 },
               reader := read r.mark r.origin state lock coast }
    let registerLost : FaultRecord :=
      { kind := .registerLost, effect := .setSoft, detail := none, h := s.web.h, seq := none, column := none, target := none,
        trim := none, line := s.line }
    let lost (t : State) : State :=
      ({ t with lineUnit := { t.lineUnit with soft := true, latest := some registerLost } } : State).offer (.unitSoft .line)
    let quiet (m : Pos) (state : ReaderState) : Prop := ahead j m ∧ reached s.web.h (next state m).2 = false
    let pitch (c : Pos) : Option Nat :=
      k.last.bind fun l => if l.origin = .real then some (c - l.mark).toNat else none
    let inside (l : LastMark) (c : Pos) : Prop := (plus (c - l.pred) g.wWin).toNat ≤ 2 * g.wWin
    (s.track.length < 48 →
      (∀ c, k.state = .acquire → k.last = none → quiet c .acquire →
        exec (.markEdge c false) s = .next (joined (record c .real false none) .acquire k.lock 0)) ∧
      (∀ l, k.last = some l →
        (∀ c, inside l c →
          (k.state = .acquire → k.lock + 1 < g.lockN → quiet c .acquire →
            exec (.markEdge c false) s = .next (joined (record c .real false (pitch c)) .acquire (k.lock + 1) 0)) ∧
          (k.state = .acquire → g.lockN ≤ k.lock + 1 → quiet c .locked →
            exec (.markEdge c false) s = .next (joined (record c .real true (pitch c)) .locked (k.lock + 1) 0)) ∧
          (k.state = .coast → quiet c .locked →
            exec (.markEdge c false) s = .next (joined (record c .real true (pitch c)) .locked k.lock 0))) ∧
        (∀ x, k.event = some (.windowClose x) → reached s.web.h x = true →
          (k.state = .acquire →
            let state : ReaderState := if g.coastMax < k.coast + 1 then .search else .acquire
            quiet l.pred state → exec .windowClose s = .next (joined (record l.pred .coasted false none) state 0 (k.coast + 1))) ∧
          (k.state = .coast → k.coast + 1 ≤ g.coastMax → quiet l.pred .coast →
            exec .windowClose s = .next (joined (record l.pred .coasted true none) .coast k.lock (k.coast + 1))) ∧
          (quiet l.pred .search → s.lineUnit.soft = false →
            (k.state = .coast → g.coastMax < k.coast + 1 →
              exec .windowClose s = .next (lost (joined (record l.pred .coasted true none) .search k.lock (k.coast + 1)))) ∧
            (k.state = .locked → g.coastMax = 0 →
              exec .windowClose s = .next (lost (joined (record l.pred .coasted true none) .search k.lock 1)))))) ∧
      (∀ c, k.state = .search → quiet c .acquire →
        (∀ r, s.track.getLast? = some r → r.origin ≠ .lost ∨ g.p < 2 * (c - r.mark).toInt.natAbs ∨
          ∃ st, (r.st.get st).k ≠ none ∧ (r.st.get st).status ≠ .pending) →
        exec (.markEdge c false) s = .next (joined (record c .real false (pitch c)) .acquire 0 0))) ∧
    (∀ c r before, k.state = .search → s.track = before ++ [r] → (∀ x ∈ before, x.seq ≠ r.seq) → r.origin = .lost →
      2 * (c - r.mark).toInt.natAbs ≤ g.p → (∀ st, (r.st.get st).k = none ∨ (r.st.get st).status = .pending) →
      ahead r.slot c → reached s.web.h (next .acquire c).2 = false →
      exec (.markEdge c false) s = .next
        { s with
            reader := read c .real .acquire 0 0,
            track := before ++ [{ r with
              origin := .real, mark := c, z := plus c ((s.slots.get r.slot).retireDist.getD 0),
              flagged := r.flagged || (s.splices.any fun x => decide ((c - x.start).toNat ≤ (x.stop - x.start).toNat)),
              st := .tab fun st => match s.entry r.slot st with
                | some x => { r.st.get st with k := some (plus c ((x.d : Int) - x.lead)) }
                | none => r.st.get st }] }) ∧
    ∀ l c, 48 ≤ s.track.length → k.state = .coast → k.last = some l → inside l c → reached s.web.h (next .locked c).2 = false →
      s.lineUnit.tripped = false →
      ∃ t, exec (.markEdge c false) s = .next t ∧ t.reader = read c .real .locked k.lock 0 ∧ t.lineUnit.hard = true ∧
        t.lineUnit.tripped = s.lineUnit.hard ∧ t.stopReq.asserted = true ∧ t.stopReq.trackFull = true ∧
        t = { s with reader := t.reader, lineUnit := t.lineUnit, stopReq := t.stopReq, ports := t.ports }

/-! ### Leaving, splices, verdicts and foil -/

/-- The head leaves once H has reached its Z, here one behind which no record is due: its outcome record is appended with the statuses
not yet final UNCONFIRMED, its slot is referenced once less, a RETIRING slot that none references becomes READY, and the watch units
armed for it disarm (R30, R31, R173, R178). At a station where it was COMMITTED or ACKED its order leaves the in-flight list, its
feeds are released, and a copy joins the overdue list, of which the older of two is dropped and gives up its first-offs; a queued
order leaves the queue, an awaited one is awaited no more and the queued one goes out, and one named in an abort settles it as
UNKNOWN; no fault is raised (R31, R76, R94, R140). That the frame of an order or abort so settled, where it has not started to go out,
leaves the link's waiting list (QueuedGoesOut, AbortSettled) is the model's choice (log entry 9), and so is that the lanes keep their
state, with no low test as an order joins the overdue list or an entry is dropped from it (log entry 30). The outcome record copies
the record and gives every used column its verdict, the stations that fed it, the reasons, and the advice, which is yes where there is
a reason (R34, R35). A splice zone that H has passed leaves the Splice List (R132). -/
def Obligations.RecordsAndZonesLeaveBehind : Prop :=
  (∀ (r : TrackRecord) (rs : List TrackRecord) (s : State), s.track = r :: rs → reached s.web.h r.z = true →
    (∀ x xs, rs = x :: xs → reached s.web.h x.z = false) →
    let sent (st : Idx) : Prop := (r.st.get st).status = .committed ∨ (r.st.get st).status = .acked
    let dropped (st : Idx) : Option OverdueEntry :=
      match (s.seqr.get st).overdue with
      | x :: _ :: _ => if sent st then some x else none
      | _ => none
    let slots := s.slots.upd r.slot fun sl =>
      { sl with refs := sl.refs - 1, state := if sl.refs - 1 = 0 ∧ sl.state = .retiring then .ready else sl.state }
    ∃ t, exec .retire s = .next t ∧ t.track = rs ∧
      t.outcomes = s.outcomes.append (s.outcomeOf { r with st := .tab fun st => { r.st.get st with
        status := if (r.st.get st).status = .pending ∨ sent st then .unconfirmed else (r.st.get st).status } }) ∧
      (∀ j, t.slots.get j = { slots.get j with job := (t.slots.get j).job }) ∧
      (∀ j st c, t.descriptor j st c = (s.descriptor j st c).map fun d =>
        if ∃ x ∈ dropped st, x.slot = j ∧ d.stage = .awaiting x.seq then { d with stage := .vacant } else d) ∧
      ((∀ st, dropped st = none) → t.slots = slots) ∧
      (∀ w, t.watches.get w = { s.watches.get w with armed := (s.watches.get w).armed && (match (s.watches.get w).condition with
        | some (.repeatAtStation q _) => decide (q ≠ r.seq)
        | _ => true) }) ∧
      (∀ p, (s.outcomes.cursors.get p).isSome = false → t.ports.get p = s.ports.get p) ∧
      (∀ p, (s.outcomes.cursors.get p).isSome = true → t.ports.get p = (s.ports.get p).offer .outcomeReady) ∧
      (∀ st, ¬ sent st → t.seqr.get st = s.seqr.get st ∧ t.lanes.get st = s.lanes.get st ∧ t.links.get st = s.links.get st) ∧
      (∀ st, sent st →
        let f := r.st.get st
        let copy : OverdueEntry :=
          { seq := r.seq, slot := r.slot, decision := f.decision, target := f.target.getD 0, feed := f.feed.getD (.all 0) }
        let sq : Sequencer := { s.seqr.get st with
          inFlight := (s.seqr.get st).inFlight.filter fun e => decide (e.seq ≠ r.seq),
          overdue := (match (s.seqr.get st).overdue with
            | [] => []
            | x :: xs => if 2 ≤ xs.length + 1 then xs else x :: xs) ++ [copy] }
        (∀ c, t.lane st c = { s.lane st c with reserved := (s.lane st c).reserved - copy.feed.get c }) ∧
        (r.seq ∉ sq.abortSet → sq.queue = some r.seq →
          t.seqr.get st = { sq with queue := none } ∧ t.links.get st = s.links.get st) ∧
        (r.seq ∉ sq.abortSet → sq.queue ≠ some r.seq → sq.awaited = .order r.seq →
          QueuedGoesOut s t st { sq with awaited := .none, timer := none }) ∧
        (r.seq ∉ sq.abortSet → sq.queue ≠ some r.seq → sq.awaited ≠ .order r.seq →
          t.seqr.get st = sq ∧ t.links.get st = s.links.get st) ∧
        (r.seq ∈ sq.abortSet → sq.queue ≠ some r.seq → sq.awaited = .abort → AbortSettled s t st sq r.seq .unknown)) ∧
      t = { s with track := t.track, outcomes := t.outcomes, slots := t.slots, watches := t.watches, ports := t.ports,
                   seqr := t.seqr, lanes := t.lanes, links := t.links }) ∧
  (∀ (r : TrackRecord) (s : State),
    let feed (st c : Idx) : Nat := ((r.st.get st).feed.getD (.all 0)).get c
    let entry (st : Idx) : Option StationEntry := (s.slots.get r.slot).job.bind fun job => job.stations.get st
    let reasons (c : Idx) (v : Verdict) : Reasons :=
      { verdict := decide (v = .reject), splice := r.flagged, lost := decide (r.origin = .lost), unlocked := !r.locked,
        station := Idx.all.any fun st =>
          (entry st).isSome && decide ((r.st.get st).status ≠ .done) && decide ((r.st.get st).status ≠ .passed),
        embossLift := Idx.all.any fun st =>
          decide ((r.st.get st).decision = .lift) && ((entry st).map fun e => decide (e.type ≠ .foil)).getD false,
        foilMissing := Idx.all.any fun st => decide (feed st c = 0) &&
          (((entry st).bind (·.lanes)).map fun ls =>
            decide ((ls.get c).code = .on) || decide ((ls.get c).code = .onReport)).getD false }
    s.outcomeOf r =
      { seq := r.seq, mark := r.mark, origin := r.origin, locked := r.locked, flagged := r.flagged, slot := r.slot,
        st := .tab fun st =>
          { decision := (r.st.get st).decision, status := (r.st.get st).status, target := (r.st.get st).target,
            e := (r.st.get st).report.bind (·.e) },
        col := .tab fun c => (r.verdict.get c).map fun v =>
          { verdict := v, fedAt := .tab fun st => decide (0 < feed st c), reasons := reasons c v,
            advice := decide (reasons c v ≠ { verdict := false, splice := false, lost := false, unlocked := false,
                                              station := false, embossLift := false, foilMissing := false }) } }) ∧
  ∀ (x : SpliceEntry) (s : State), x ∈ s.splices → reached s.web.h x.stop = true →
    exec (.spliceZoneEnd x.stop) s = .next { s with splices := s.splices.filter fun y => decide (y.stop ≠ x.stop) }

/-- POST VERDICT: DENIED at the Roll Port, and for GOOD at the Line Port; NO_REPEAT where no record of the seq is in the track;
otherwise a named, used column takes the verdict unless it is REJECT, which stays, and the reply carries the verdicts, KEPT where a
GOOD met a REJECT (R122, R123, R124). A station whose commit sent an order gets the warning LATE_VERDICT, and no flag, exactly where
the posting would have changed that commit: a column fed there turns REJECT; one held at no feed by UNKNOWN turns GOOD while
UNKNOWN_FEED is clear; or a STRIKE or DRY would have been lifted as all REJECT (R126; a foil station is one that holds descriptors).
The column it names under the third is deduced (log entry 12). -/
def Obligations.PostedVerdictsKeepReject : Prop :=
  ∀ (hdr : ReqHdr) (q : SeqNo) (cols : Four Bool) (v : PostedVerdict) (s : State), s.takes hdr (.postVerdict · q cols (some v)) →
    (hdr.port = .roll ∨ (hdr.port = .line ∧ v = .good) →
      exec (.postVerdict hdr q cols (some v)) s = .next (s.answered hdr 19 .denied .empty)) ∧
    (hdr.port = .inspection ∨ (hdr.port = .line ∧ v = .reject) →
      (s.record q = none → exec (.postVerdict hdr q cols (some v)) s = .next (s.answered hdr 19 .noRepeat .empty)) ∧
      ∀ r, s.record q = some r → (∀ x ∈ s.track, x.seq = q → x = r) →
        let new : Four (Option Verdict) := .tab fun c => (r.verdict.get c).map fun old =>
          if cols.get c = true ∧ old ≠ .reject then (match v with | .good => .good | .reject => .reject) else old
        let kept := v = .good ∧ ∃ c, cols.get c = true ∧ r.verdict.get c = some .reject
        ∃ t, exec (.postVerdict hdr q cols (some v)) s = .next t ∧
          t.track = s.track.map (fun x => if x.seq = q then { x with verdict := new } else x) ∧
          (∀ res, (res = .kept ↔ kept) → (res = .ok ↔ ¬kept) → t.ports = s.ports.upd hdr.port fun p =>
            { p with inService := none, tx := p.tx ++ [{ tag := hdr.tag, code := 19, result := res, body := .verdicts q new }] }) ∧
          (∀ st, let f := r.st.get st
            let fed (c : Idx) : Nat := (f.feed.getD (.all 0)).get c
            let lost (c : Idx) : Prop :=
              s.descriptor r.slot st c ≠ none ∧ r.verdict.get c ≠ some .reject ∧ new.get c = some .reject ∧ 0 < fed c
            let possible (c : Idx) : Prop := (f.decision = .strike ∨ f.decision = .dry) ∧ r.verdict.get c = some .unknown ∧
              new.get c = some .good ∧ (s.globals r.slot).unknownFeed = false ∧ fed c = 0 ∧
              ∃ d, s.descriptor r.slot st c = some d ∧ (d.code = .on ∨ d.code = .onReport ∨ d.code = .firstOff)
            let lifted := (f.decision = .strike ∨ f.decision = .dry) ∧ (∃ e, s.entry r.slot st = some e ∧ e.liftOnReject = true) ∧
              (∀ c, new.get c = none ∨ new.get c = some .reject) ∧ ¬ ∀ c, r.verdict.get c = none ∨ r.verdict.get c = some .reject
            let concerned (c : Idx) : Prop := f.status ≠ .pending ∧ f.status ≠ .passed ∧ f.feed ≠ none ∧
              (lost c ∨ possible c ∨ (lifted ∧ r.verdict.get c ≠ new.get c))
            ((∀ c, ¬ concerned c) → t.units.get st = s.units.get st) ∧
            ∀ c, concerned c → (∀ c', c'.toNat < c.toNat → ¬ concerned c') →
              t.units.get st = { s.units.get st with
                latest := some { kind := .lateVerdict, effect := .warning, detail := none, h := s.web.h, seq := some q,
                                 column := some c, target := f.target, trim := some (s.calcs.get st).trim, line := s.line } }) ∧
          t.lineUnit = s.lineUnit ∧
          t = { s with track := t.track, units := t.units, ports := t.ports })

/-- APPROVE FIRST-OFF turns a FIRST_OFF lane of the ACTIVE slot that has struck into ON, with no first-off seq, and is refused
NOT_STRUCK before it has struck, STATE for a lane of any other code, and DENIED at the Roll Port (R97). REPORT FOIL ROLL at the Roll
Port gives a lane the length of its new roll and makes it READY, or LOW below its low threshold; in RUN it is refused BUSY while the
lane has foil reserved, and it is DENIED at the other ports (R99). -/
def Obligations.FoilIsApprovedAndReloaded : Prop :=
  ∀ (hdr : ReqHdr) (sb cb : Byte) (st c : Idx) (n : BitVec 32) (s : State), idxOf sb = some st → idxOf cb = some c →
    (s.takes hdr (.approveFirstOff · sb cb) →
      (hdr.port = .roll → exec (.approveFirstOff hdr sb cb) s = .next (s.answered hdr 20 .denied .empty)) ∧
      (hdr.port ≠ .roll → ∀ j d, s.active = some j → s.descriptor j st c = some d →
        exec (.approveFirstOff hdr sb cb) s = .next
          (if d.code ≠ .firstOff then s.answered hdr 20 .state .empty
           else if d.struck = false then s.answered hdr 20 .notStruck .empty
           else (s.setDescriptor j st c { d with code := .on, stage := .vacant }).answered hdr 20 .ok .empty))) ∧
    (s.takes hdr (.reportFoilRoll · sb cb n) →
      (hdr.port ≠ .roll → exec (.reportFoilRoll hdr sb cb n) s = .next (s.answered hdr 22 .denied .empty)) ∧
      (hdr.port = .roll → s.line = .run → 0 < ((s.lanes.get st).get c).reserved →
        exec (.reportFoilRoll hdr sb cb n) s = .next (s.answered hdr 22 .busy .empty)) ∧
      (hdr.port = .roll → s.line ≠ .run ∨ ((s.lanes.get st).get c).reserved = 0 →
        ∃ t, exec (.reportFoilRoll hdr sb cb n) s = .next t ∧
          t.lanes = s.lanes.set st ((s.lanes.get st).set c
            { state := if n.toNat < (s.settings.low.get st).get c then .low else .ready, remaining := n.toNat,
              reserved := ((s.lanes.get st).get c).reserved }) ∧
          (t.ports.get .roll).tx = (s.ports.get .roll).tx ++ [{ tag := hdr.tag, code := 22, result := .ok, body := .empty }] ∧
          t = { s with lanes := t.lanes, track := t.track, watches := t.watches, stopReq := t.stopReq, ports := t.ports }))

/-- REPORT SPLICE at the Roll Port, a slot ACTIVE and the zone's end within 2^23 counts of H: the zone merges with every entry from which
it is no more than 100 counts apart, into one entry with the nearest start, the furthest end and the sum of the reports, held at 255;
one that merges with none joins a list of fewer than four entries, and a full list answers FULL. The entry takes its place in the order
of distance, and leaves at once where H has reached its end. It flags every record of the track whose mark lies in it, and the reply
carries its start, its end and the number newly flagged. A station at which one of these has a status other than PENDING and PASSED
raises SPLICE_LATE once, a soft fault, with the seq and the target of the oldest such record; where SOFT and HARD were set already, the
unit trips. A zone too far answers RANGE, no ACTIVE slot STATE, and another port DENIED (R129, R130, R131, R154, R155). -/
def Obligations.SplicesFlagTheirZone : Prop :=
  ∀ (hdr : ReqHdr) (c : Pos) (s : State), TripsMirrored s → s.takes hdr (.reportSplice · c) →
    (hdr.port ≠ .roll → exec (.reportSplice hdr c) s = .next (s.answered hdr 21 .denied .empty)) ∧
    (hdr.port = .roll → s.active = none → exec (.reportSplice hdr c) s = .next (s.answered hdr 21 .state .empty)) ∧
    (hdr.port = .roll → ∀ j, s.active = some j →
      let g := s.globals j
      let distance (x : Pos) : Int := (x - s.web.h).toInt
      let zone : SpliceEntry :=
        { start := plus c ((s.settings.spliceDist : Int) - g.splBefore),
          stop := plus c ((s.settings.spliceDist : Int) + g.splAfter), reports := 1 }
      let merges (y : SpliceEntry) : Bool :=
        decide ((zone.start - y.stop).toInt ≤ 100) && decide ((y.start - zone.stop).toInt ≤ 100)
      let met := s.splices.filter merges
      let kept := s.splices.filter fun y => !merges y
      (8388608 < (distance zone.stop).natAbs → exec (.reportSplice hdr c) s = .next (s.answered hdr 21 .range .empty)) ∧
      ((distance zone.stop).natAbs ≤ 8388608 → met = [] → 4 ≤ s.splices.length →
        exec (.reportSplice hdr c) s = .next (s.answered hdr 21 .full .empty)) ∧
      ((distance zone.stop).natAbs ≤ 8388608 → met ≠ [] ∨ s.splices.length < 4 →
        ∃ entry : SpliceEntry,
          (∃ y ∈ zone :: met, entry.start = y.start) ∧ (∀ y ∈ zone :: met, distance entry.start ≤ distance y.start) ∧
          (∃ y ∈ zone :: met, entry.stop = y.stop) ∧ (∀ y ∈ zone :: met, distance y.stop ≤ distance entry.stop) ∧
          entry.reports = (if met = [] then 1 else min ((met.map (·.reports)).sum + 1) 255) ∧
          let covers (r : TrackRecord) : Bool := decide ((r.mark - entry.start).toNat ≤ (entry.stop - entry.start).toNat)
          let newly := s.track.filter fun r => !r.flagged && covers r
          let late (st : Idx) : Option TrackRecord :=
            newly.find? fun r => decide ((r.st.get st).status ≠ .pending) && decide ((r.st.get st).status ≠ .passed)
          let trips (st : Idx) : Prop :=
            late st ≠ none ∧ (s.units.get st).soft = true ∧ (s.units.get st).hard = true ∧ (s.units.get st).tripped = false
          ∃ t, exec (.reportSplice hdr c) s = .next t ∧
            (if reached s.web.h entry.stop then t.splices = kept.filter fun y => decide (y.stop ≠ entry.stop)
             else ∃ before after, kept = before ++ after ∧ t.splices = before ++ entry :: after ∧
              (∀ y ∈ before, distance y.start < distance entry.start) ∧
              ∀ y ys, after = y :: ys → distance entry.start ≤ distance y.start) ∧
            t.track.map (fun r => (r.seq, r.flagged)) = s.track.map (fun r => (r.seq, r.flagged || covers r)) ∧
            (t.ports.get .roll).tx = (s.ports.get .roll).tx ++
              [{ tag := hdr.tag, code := 21, result := .ok, body := .splice entry.start entry.stop newly.length }] ∧
            (∀ st, late st = none → t.units.get st = s.units.get st) ∧
            ((∀ st, late st = none) → ∀ p, p ≠ .roll → t.ports.get p = s.ports.get p) ∧
            (∀ st r, late st = some r →
              (t.units.get st).soft = true ∧ (t.units.get st).hard = ((s.units.get st).soft || (s.units.get st).hard) ∧
              (¬ trips st → (t.units.get st).tripped = (s.units.get st).tripped ∧
                (t.units.get st).latest.map (fun l => (l.kind, l.seq, l.target)) =
                  some (.spliceLate, some r.seq, (r.st.get st).target))) ∧
            (∀ st, trips st → UnitTripTaken s t st) ∧
            ((∀ st, ¬ trips st) →
              t.track = s.track.map (fun r => { r with flagged := r.flagged || covers r }) ∧
              t = { s with splices := t.splices, track := t.track, units := t.units, ports := t.ports }) ∧
            t = { s with splices := t.splices, track := t.track, units := t.units, ports := t.ports, seqr := t.seqr,
                         calcs := t.calcs, lanes := t.lanes, links := t.links, slots := t.slots, watches := t.watches,
                         stopReq := t.stopReq }))
/-! ### Whole-machine rules and invariants -/

/-- Once filled, the first-fault record of a unit stays through every command but CLEAR FAULT RECORD of that unit, STATION RESET of its
station, LINE RESET and power-on (R160). -/
def Obligations.FirstFaultRecordsStay : Prop :=
  ∀ (c : Instr) (u : UnitId) (f : FaultRecord) (s t : State), ¬ emptiesFirst u c → (s.unit u).first = some f → exec c s = .next t →
    (t.unit u).first = some f

/-- Only ENCODER_STEP and power-on move W or H, and only the E-stop's own events and power-on change the E-stop level (R4, R5, R138). -/
def Obligations.OnlyTheirEventsMoveTheWeb : Prop :=
  ∀ (c : Instr) (s t : State), exec c s = .next t → (∀ level, c ≠ .powerOn level) →
    ((∀ change, c ≠ .encoderStep change) → t.web.w = s.web.w ∧ t.web.h = s.web.h) ∧
    (c ≠ .estopAsserted → c ≠ .estopCleared → t.estop = s.estop)

/-- A column verdict that has become REJECT stays REJECT until its record leaves the track (R122). The commands that can make records
join, in which a sequence number may come round again (an encoder step where it hands an event of the reader over), and power-on,
which empties the track, are left out here. -/
def Obligations.RejectVerdictsStay : Prop :=
  ∀ (i : Instr) (q : SeqNo) (c : Idx) (r : TrackRecord) (s t : State), (∀ level, i ≠ .powerOn level) →
    (∀ x reversed, i ≠ .markEdge x reversed) → i ≠ .windowClose → i ≠ .searchSynthesis →
    (∀ change, i = .encoderStep change → s.readerEventDue = none) → TrackOrdered s →
    s.record q = some r → r.verdict.get c = some .reject → exec i s = .next t →
    t.record q = none ∨ ∃ r', t.record q = some r' ∧ r'.verdict.get c = some .reject

/-- The state after reset meets every invariant stated of the steps below. -/
def Obligations.ResetMeetsTheInvariants : Prop :=
  (TrackOrdered .reset ∧ SlotsReferenced .reset) ∧ (OrdersInFlight .reset ∧ OrdersAwaited .reset) ∧
  (TripsMirrored .reset ∧ StopHasCause .reset ∧ WatchesOwned .reset ∧ NoticesOrdered .reset) ∧
  StretchBounded .reset ∧ OutcomesBounded .reset ∧ PowerLimited .reset ∧ OverdueBounded .reset ∧ TrimsBounded .reset ∧
    SplicesBounded .reset

/-- Every step keeps the track in order and its references counted: at most 48 records with consecutive seqs up to next seq (R23),
each slot counting exactly the records that name it, a referenced slot ACTIVE or RETIRING, and not both slots ACTIVE (R177, R178). -/
def Obligations.EveryStepKeepsTheTrackAndItsSlots : Prop := Kept fun s => TrackOrdered s ∧ SlotsReferenced s

/-- Every step keeps the orders in flight: at most two at a station, and they are those of the records COMMITTED or ACKED there (R60),
and the reserved foil of each lane is the sum of their feeds (R91). The invariant that carries this says too what is awaited and
queued (R68), that an outstanding abort names exactly the orders in flight (R80), and that outside RUN nothing else is in flight. -/
def Obligations.EveryStepKeepsTheOrdersInFlight : Prop :=
  Kept fun s => TrackOrdered s ∧ TripsMirrored s ∧ OrdersInFlight s ∧ OrdersAwaited s

/-- Every step keeps each station state the mirror of its unit's TRIPPED (R61), STOP REQUEST asserted exactly while it has a cause
(R162), each pending pair once and in order (R165, R166), and a watch unit without an owner empty: R168 has its type absent, and that
it holds no action and no scope either, after RELEASE WATCH too, is deduced (log entry 17). -/
def Obligations.EveryStepKeepsUnitsNoticesAndWatches : Prop :=
  Kept fun s => TripsMirrored s ∧ StopHasCause s ∧ WatchesOwned s ∧ NoticesOrdered s

/-- Every step keeps the bounds of the manual: E within plus or minus 32,768 (R21), the Outcome List at 64 records with its cursors
inside and nothing in it that every cursor has passed (R36, R37), at most N_SLOT zones in service and none of them masked or blocked
(R110), at most two overdue orders per station (R60), each trim within TRIM_LIM of the ACTIVE slot and 2,000 (R54), and at most four
splice zones (R128). -/
def Obligations.EveryStepKeepsTheBounds : Prop :=
  Kept fun s => StretchBounded s ∧ OutcomesBounded s ∧ PowerLimited s ∧ OverdueBounded s ∧ TrimsBounded s ∧ SplicesBounded s
end

