-- ==== Sys2Proof/Laws/State.lean ====
section
/-! SUPPORT. The tables of the state read back at one index, and what each setter of the state leaves alone: one lemma for each
operation, for every field it does not write. -/

namespace Sys2Proof

@[simp] theorem Four.get_set_same {α : Type} (f : Four α) (i : Idx) (x : α) : (f.set i x).get i = x := by cases i <;> rfl

theorem Four.get_set {α : Type} (f : Four α) (i j : Idx) (x : α) : (f.set i x).get j = if j = i then x else f.get j := by
  cases i <;> cases j <;> rfl

@[simp] theorem Four.get_set_ne {α : Type} (f : Four α) {i j : Idx} (x : α) (h : j ≠ i) : (f.set i x).get j = f.get j := by
  simp [Four.get_set, h]

@[simp] theorem Four.get_tab {α : Type} (g : Idx → α) (i : Idx) : (Four.tab g).get i = g i := by cases i <;> rfl

@[simp] theorem Four.get_all {α : Type} (x : α) (i : Idx) : (Four.all x).get i = x := by cases i <;> rfl

@[simp] theorem Four.get_upd_same {α : Type} (f : Four α) (i : Idx) (g : α → α) : (f.upd i g).get i = g (f.get i) := by
  simp [Four.upd]

theorem Four.get_upd {α : Type} (f : Four α) (i j : Idx) (g : α → α) :
    (f.upd i g).get j = if j = i then g (f.get i) else f.get j := by simp [Four.upd, Four.get_set]

@[simp] theorem Four.get_upd_ne {α : Type} (f : Four α) {i j : Idx} (g : α → α) (h : j ≠ i) : (f.upd i g).get j = f.get j := by
  simp [Four.get_upd, h]

@[simp] theorem Four.set_get {α : Type} (f : Four α) (i : Idx) : f.set i (f.get i) = f := by cases i <;> rfl

@[simp] theorem Four.set_set {α : Type} (f : Four α) (i : Idx) (x y : α) : (f.set i x).set i y = f.set i y := by
  cases i <;> rfl

/-- Two updates of one item are one. -/
theorem Four.upd_upd {α : Type} (f : Four α) (st : Idx) (g h : α → α) :
    (f.upd st g).upd st h = f.upd st fun x => h (g x) := by
  simp [Four.upd]

/-- An update that leaves the item it updates leaves all. -/
theorem Four.upd_same {α : Type} {f : Four α} {st : Idx} {g : α → α} (h : g (f.get st) = f.get st) : f.upd st g = f := by
  unfold Four.upd; rw [h, Four.set_get]

theorem Four.ext_get {α : Type} {f g : Four α} (h : ∀ i, f.get i = g.get i) : f = g := by
  cases f; cases g
  have h0 := h .i0; have h1 := h .i1; have h2 := h .i2; have h3 := h .i3
  simp only [Four.get] at h0 h1 h2 h3
  simp [h0, h1, h2, h3]

@[simp] theorem Three.get_set_same {α : Type} (f : Three α) (i : Port) (x : α) : (f.set i x).get i = x := by cases i <;> rfl

theorem Three.get_set {α : Type} (f : Three α) (i j : Port) (x : α) : (f.set i x).get j = if j = i then x else f.get j := by
  cases i <;> cases j <;> rfl

@[simp] theorem Three.get_tab {α : Type} (g : Port → α) (i : Port) : (Three.tab g).get i = g i := by cases i <;> rfl

@[simp] theorem Three.get_all {α : Type} (x : α) (i : Port) : (Three.all x).get i = x := by cases i <;> rfl

@[simp] theorem Three.get_upd_same {α : Type} (f : Three α) (i : Port) (g : α → α) : (f.upd i g).get i = g (f.get i) := by
  simp [Three.upd]

theorem Three.get_upd {α : Type} (f : Three α) (i j : Port) (g : α → α) :
    (f.upd i g).get j = if j = i then g (f.get i) else f.get j := by simp [Three.upd, Three.get_set]

@[simp] theorem Three.set_get {α : Type} (f : Three α) (i : Port) : f.set i (f.get i) = f := by cases i <;> rfl

@[simp] theorem Three.set_set {α : Type} (f : Three α) (i : Port) (x y : α) : (f.set i x).set i y = f.set i y := by
  cases i <;> rfl

@[simp] theorem Two.get_set_same {α : Type} (f : Two α) (i : Slot) (x : α) : (f.set i x).get i = x := by cases i <;> rfl

theorem Two.get_set {α : Type} (f : Two α) (i j : Slot) (x : α) : (f.set i x).get j = if j = i then x else f.get j := by
  cases i <;> cases j <;> rfl

@[simp] theorem Two.get_tab {α : Type} (g : Slot → α) (i : Slot) : (Two.tab g).get i = g i := by cases i <;> rfl

@[simp] theorem Two.get_upd_same {α : Type} (f : Two α) (i : Slot) (g : α → α) : (f.upd i g).get i = g (f.get i) := by
  simp [Two.upd]

theorem Two.get_upd {α : Type} (f : Two α) (i j : Slot) (g : α → α) :
    (f.upd i g).get j = if j = i then g (f.get i) else f.get j := by simp [Two.upd, Two.get_set]

namespace Machine

/-- Two states with equal fields are equal. -/
theorem State.ext_fields {s t : State}
    (h0 : s.web = t.web) (h1 : s.reader = t.reader) (h2 : s.track = t.track) (h3 : s.nextSeq = t.nextSeq)
    (h4 : s.outcomes = t.outcomes) (h5 : s.calcs = t.calcs) (h6 : s.seqr = t.seqr) (h7 : s.lanes = t.lanes)
    (h8 : s.heat = t.heat) (h9 : s.splices = t.splices) (h10 : s.units = t.units) (h11 : s.lineUnit = t.lineUnit)
    (h12 : s.stopReq = t.stopReq) (h13 : s.watches = t.watches) (h14 : s.slots = t.slots)
    (h15 : s.settings = t.settings) (h16 : s.line = t.line) (h17 : s.estop = t.estop) (h18 : s.ports = t.ports)
    (h19 : s.links = t.links) (h20 : s.pending = t.pending) : s = t := by
  cases s
  cases t
  simp_all

/-- A fold keeps what each of its steps keeps. -/
theorem foldl_same {α β : Type} (f : State → β) (g : State → α → State) (h : ∀ s x, f (g s x) = f s) (l : List α) (s : State) :
    f (l.foldl g s) = f s := by
  induction l generalizing s with
  | nil => rfl
  | cons x xs ih => rw [List.foldl_cons, ih, h]

@[simp] theorem State.offerTo_frame (s : State) (p : Port) (n : Notice) :
    (s.offerTo p n).web = s.web ∧ (s.offerTo p n).reader = s.reader ∧ (s.offerTo p n).track = s.track ∧
    (s.offerTo p n).nextSeq = s.nextSeq ∧ (s.offerTo p n).outcomes = s.outcomes ∧ (s.offerTo p n).calcs = s.calcs ∧
    (s.offerTo p n).seqr = s.seqr ∧ (s.offerTo p n).lanes = s.lanes ∧ (s.offerTo p n).heat = s.heat ∧
    (s.offerTo p n).splices = s.splices ∧ (s.offerTo p n).units = s.units ∧ (s.offerTo p n).lineUnit = s.lineUnit ∧
    (s.offerTo p n).stopReq = s.stopReq ∧ (s.offerTo p n).watches = s.watches ∧ (s.offerTo p n).slots = s.slots ∧
    (s.offerTo p n).settings = s.settings ∧ (s.offerTo p n).line = s.line ∧ (s.offerTo p n).estop = s.estop ∧
    (s.offerTo p n).links = s.links ∧ (s.offerTo p n).pending = s.pending := by simp [State.offerTo]

@[simp] theorem State.offer_frame (s : State) (n : Notice) :
    (s.offer n).web = s.web ∧ (s.offer n).reader = s.reader ∧ (s.offer n).track = s.track ∧
    (s.offer n).nextSeq = s.nextSeq ∧ (s.offer n).outcomes = s.outcomes ∧ (s.offer n).calcs = s.calcs ∧
    (s.offer n).seqr = s.seqr ∧ (s.offer n).lanes = s.lanes ∧ (s.offer n).heat = s.heat ∧ (s.offer n).splices = s.splices ∧
    (s.offer n).units = s.units ∧ (s.offer n).lineUnit = s.lineUnit ∧ (s.offer n).stopReq = s.stopReq ∧
    (s.offer n).watches = s.watches ∧ (s.offer n).slots = s.slots ∧ (s.offer n).settings = s.settings ∧
    (s.offer n).line = s.line ∧ (s.offer n).estop = s.estop ∧ (s.offer n).links = s.links ∧ (s.offer n).pending = s.pending := by simp [State.offer]

@[simp] theorem State.assertStop_frame (s : State) (c : StopCause) :
    (s.assertStop c).web = s.web ∧ (s.assertStop c).reader = s.reader ∧ (s.assertStop c).track = s.track ∧
    (s.assertStop c).nextSeq = s.nextSeq ∧ (s.assertStop c).outcomes = s.outcomes ∧ (s.assertStop c).calcs = s.calcs ∧
    (s.assertStop c).seqr = s.seqr ∧ (s.assertStop c).lanes = s.lanes ∧ (s.assertStop c).heat = s.heat ∧
    (s.assertStop c).splices = s.splices ∧ (s.assertStop c).units = s.units ∧ (s.assertStop c).lineUnit = s.lineUnit ∧
    (s.assertStop c).watches = s.watches ∧ (s.assertStop c).slots = s.slots ∧ (s.assertStop c).settings = s.settings ∧
    (s.assertStop c).line = s.line ∧ (s.assertStop c).estop = s.estop ∧ (s.assertStop c).links = s.links ∧
    (s.assertStop c).pending = s.pending := by simp [State.assertStop]

@[simp] theorem State.deassertStop_frame (s : State) :
    (s.deassertStop).web = s.web ∧ (s.deassertStop).reader = s.reader ∧ (s.deassertStop).track = s.track ∧
    (s.deassertStop).nextSeq = s.nextSeq ∧ (s.deassertStop).outcomes = s.outcomes ∧ (s.deassertStop).calcs = s.calcs ∧
    (s.deassertStop).seqr = s.seqr ∧ (s.deassertStop).lanes = s.lanes ∧ (s.deassertStop).heat = s.heat ∧
    (s.deassertStop).splices = s.splices ∧ (s.deassertStop).units = s.units ∧ (s.deassertStop).lineUnit = s.lineUnit ∧
    (s.deassertStop).watches = s.watches ∧ (s.deassertStop).slots = s.slots ∧ (s.deassertStop).settings = s.settings ∧
    (s.deassertStop).line = s.line ∧ (s.deassertStop).estop = s.estop ∧ (s.deassertStop).ports = s.ports ∧
    (s.deassertStop).links = s.links ∧ (s.deassertStop).pending = s.pending := by simp [State.deassertStop]

@[simp] theorem State.setUnit_frame (s : State) (u : UnitId) (f : FaultUnit) :
    (s.setUnit u f).web = s.web ∧ (s.setUnit u f).reader = s.reader ∧ (s.setUnit u f).track = s.track ∧
    (s.setUnit u f).nextSeq = s.nextSeq ∧ (s.setUnit u f).outcomes = s.outcomes ∧ (s.setUnit u f).calcs = s.calcs ∧
    (s.setUnit u f).seqr = s.seqr ∧ (s.setUnit u f).lanes = s.lanes ∧ (s.setUnit u f).heat = s.heat ∧
    (s.setUnit u f).splices = s.splices ∧ (s.setUnit u f).stopReq = s.stopReq ∧ (s.setUnit u f).watches = s.watches ∧
    (s.setUnit u f).slots = s.slots ∧ (s.setUnit u f).settings = s.settings ∧ (s.setUnit u f).line = s.line ∧
    (s.setUnit u f).estop = s.estop ∧ (s.setUnit u f).ports = s.ports ∧ (s.setUnit u f).links = s.links ∧
    (s.setUnit u f).pending = s.pending := by
  cases u <;> simp [State.setUnit]

@[simp] theorem State.setEntry_frame (s : State) (j : Slot) (st : Idx) (e : StationEntry) :
    (s.setEntry j st e).web = s.web ∧ (s.setEntry j st e).reader = s.reader ∧ (s.setEntry j st e).track = s.track ∧
    (s.setEntry j st e).nextSeq = s.nextSeq ∧ (s.setEntry j st e).outcomes = s.outcomes ∧
    (s.setEntry j st e).calcs = s.calcs ∧ (s.setEntry j st e).seqr = s.seqr ∧ (s.setEntry j st e).lanes = s.lanes ∧
    (s.setEntry j st e).heat = s.heat ∧ (s.setEntry j st e).splices = s.splices ∧ (s.setEntry j st e).units = s.units ∧
    (s.setEntry j st e).lineUnit = s.lineUnit ∧ (s.setEntry j st e).stopReq = s.stopReq ∧
    (s.setEntry j st e).watches = s.watches ∧ (s.setEntry j st e).settings = s.settings ∧
    (s.setEntry j st e).line = s.line ∧ (s.setEntry j st e).estop = s.estop ∧ (s.setEntry j st e).ports = s.ports ∧
    (s.setEntry j st e).links = s.links ∧ (s.setEntry j st e).pending = s.pending := by simp [State.setEntry]

@[simp] theorem State.setDescriptor_frame (s : State) (j : Slot) (st c : Idx) (d : Descriptor) :
    (s.setDescriptor j st c d).web = s.web ∧ (s.setDescriptor j st c d).reader = s.reader ∧
    (s.setDescriptor j st c d).track = s.track ∧ (s.setDescriptor j st c d).nextSeq = s.nextSeq ∧
    (s.setDescriptor j st c d).outcomes = s.outcomes ∧ (s.setDescriptor j st c d).calcs = s.calcs ∧
    (s.setDescriptor j st c d).seqr = s.seqr ∧ (s.setDescriptor j st c d).lanes = s.lanes ∧
    (s.setDescriptor j st c d).heat = s.heat ∧ (s.setDescriptor j st c d).splices = s.splices ∧
    (s.setDescriptor j st c d).units = s.units ∧ (s.setDescriptor j st c d).lineUnit = s.lineUnit ∧
    (s.setDescriptor j st c d).stopReq = s.stopReq ∧ (s.setDescriptor j st c d).watches = s.watches ∧
    (s.setDescriptor j st c d).settings = s.settings ∧ (s.setDescriptor j st c d).line = s.line ∧
    (s.setDescriptor j st c d).estop = s.estop ∧ (s.setDescriptor j st c d).ports = s.ports ∧
    (s.setDescriptor j st c d).links = s.links ∧ (s.setDescriptor j st c d).pending = s.pending := by
  unfold State.setDescriptor
  split <;> simp

@[simp] theorem State.updRecord_frame (s : State) (q : SeqNo) (f : TrackRecord → TrackRecord) :
    (s.updRecord q f).web = s.web ∧ (s.updRecord q f).reader = s.reader ∧ (s.updRecord q f).nextSeq = s.nextSeq ∧
    (s.updRecord q f).outcomes = s.outcomes ∧ (s.updRecord q f).calcs = s.calcs ∧ (s.updRecord q f).seqr = s.seqr ∧
    (s.updRecord q f).lanes = s.lanes ∧ (s.updRecord q f).heat = s.heat ∧ (s.updRecord q f).splices = s.splices ∧
    (s.updRecord q f).units = s.units ∧ (s.updRecord q f).lineUnit = s.lineUnit ∧ (s.updRecord q f).stopReq = s.stopReq ∧
    (s.updRecord q f).watches = s.watches ∧ (s.updRecord q f).slots = s.slots ∧ (s.updRecord q f).settings = s.settings ∧
    (s.updRecord q f).line = s.line ∧ (s.updRecord q f).estop = s.estop ∧ (s.updRecord q f).ports = s.ports ∧
    (s.updRecord q f).links = s.links ∧ (s.updRecord q f).pending = s.pending := by simp [State.updRecord]

@[simp] theorem State.updField_frame (s : State) (q : SeqNo) (st : Idx) (f : StationField → StationField) :
    (s.updField q st f).web = s.web ∧ (s.updField q st f).reader = s.reader ∧ (s.updField q st f).nextSeq = s.nextSeq ∧
    (s.updField q st f).outcomes = s.outcomes ∧ (s.updField q st f).calcs = s.calcs ∧ (s.updField q st f).seqr = s.seqr ∧
    (s.updField q st f).lanes = s.lanes ∧ (s.updField q st f).heat = s.heat ∧ (s.updField q st f).splices = s.splices ∧
    (s.updField q st f).units = s.units ∧ (s.updField q st f).lineUnit = s.lineUnit ∧
    (s.updField q st f).stopReq = s.stopReq ∧ (s.updField q st f).watches = s.watches ∧
    (s.updField q st f).slots = s.slots ∧ (s.updField q st f).settings = s.settings ∧ (s.updField q st f).line = s.line ∧
    (s.updField q st f).estop = s.estop ∧ (s.updField q st f).ports = s.ports ∧ (s.updField q st f).links = s.links ∧
    (s.updField q st f).pending = s.pending := by simp [State.updField]

@[simp] theorem State.updWatch_frame (s : State) (w : Idx) (f : Watch → Watch) :
    (s.updWatch w f).web = s.web ∧ (s.updWatch w f).reader = s.reader ∧ (s.updWatch w f).track = s.track ∧
    (s.updWatch w f).nextSeq = s.nextSeq ∧ (s.updWatch w f).outcomes = s.outcomes ∧ (s.updWatch w f).calcs = s.calcs ∧
    (s.updWatch w f).seqr = s.seqr ∧ (s.updWatch w f).lanes = s.lanes ∧ (s.updWatch w f).heat = s.heat ∧
    (s.updWatch w f).splices = s.splices ∧ (s.updWatch w f).units = s.units ∧ (s.updWatch w f).lineUnit = s.lineUnit ∧
    (s.updWatch w f).stopReq = s.stopReq ∧ (s.updWatch w f).slots = s.slots ∧ (s.updWatch w f).settings = s.settings ∧
    (s.updWatch w f).line = s.line ∧ (s.updWatch w f).estop = s.estop ∧ (s.updWatch w f).ports = s.ports ∧
    (s.updWatch w f).links = s.links ∧ (s.updWatch w f).pending = s.pending := by simp [State.updWatch]

@[simp] theorem State.disarmFor_frame (s : State) (q : SeqNo) :
    (s.disarmFor q).web = s.web ∧ (s.disarmFor q).reader = s.reader ∧ (s.disarmFor q).track = s.track ∧
    (s.disarmFor q).nextSeq = s.nextSeq ∧ (s.disarmFor q).outcomes = s.outcomes ∧ (s.disarmFor q).calcs = s.calcs ∧
    (s.disarmFor q).seqr = s.seqr ∧ (s.disarmFor q).lanes = s.lanes ∧ (s.disarmFor q).heat = s.heat ∧
    (s.disarmFor q).splices = s.splices ∧ (s.disarmFor q).units = s.units ∧ (s.disarmFor q).lineUnit = s.lineUnit ∧
    (s.disarmFor q).stopReq = s.stopReq ∧ (s.disarmFor q).slots = s.slots ∧ (s.disarmFor q).settings = s.settings ∧
    (s.disarmFor q).line = s.line ∧ (s.disarmFor q).estop = s.estop ∧ (s.disarmFor q).ports = s.ports ∧
    (s.disarmFor q).links = s.links ∧ (s.disarmFor q).pending = s.pending := by simp [State.disarmFor]

@[simp] theorem State.updLane_frame (s : State) (st c : Idx) (f : Lane → Lane) :
    (s.updLane st c f).web = s.web ∧ (s.updLane st c f).reader = s.reader ∧ (s.updLane st c f).track = s.track ∧
    (s.updLane st c f).nextSeq = s.nextSeq ∧ (s.updLane st c f).outcomes = s.outcomes ∧
    (s.updLane st c f).calcs = s.calcs ∧ (s.updLane st c f).seqr = s.seqr ∧ (s.updLane st c f).heat = s.heat ∧
    (s.updLane st c f).splices = s.splices ∧ (s.updLane st c f).units = s.units ∧
    (s.updLane st c f).lineUnit = s.lineUnit ∧ (s.updLane st c f).stopReq = s.stopReq ∧
    (s.updLane st c f).watches = s.watches ∧ (s.updLane st c f).slots = s.slots ∧
    (s.updLane st c f).settings = s.settings ∧ (s.updLane st c f).line = s.line ∧ (s.updLane st c f).estop = s.estop ∧
    (s.updLane st c f).ports = s.ports ∧ (s.updLane st c f).links = s.links ∧ (s.updLane st c f).pending = s.pending := by simp [State.updLane]

@[simp] theorem State.updLanes_frame (s : State) (st : Idx) (f : Idx → Lane → Lane) :
    (s.updLanes st f).web = s.web ∧ (s.updLanes st f).reader = s.reader ∧ (s.updLanes st f).track = s.track ∧
    (s.updLanes st f).nextSeq = s.nextSeq ∧ (s.updLanes st f).outcomes = s.outcomes ∧ (s.updLanes st f).calcs = s.calcs ∧
    (s.updLanes st f).seqr = s.seqr ∧ (s.updLanes st f).heat = s.heat ∧ (s.updLanes st f).splices = s.splices ∧
    (s.updLanes st f).units = s.units ∧ (s.updLanes st f).lineUnit = s.lineUnit ∧ (s.updLanes st f).stopReq = s.stopReq ∧
    (s.updLanes st f).watches = s.watches ∧ (s.updLanes st f).slots = s.slots ∧ (s.updLanes st f).settings = s.settings ∧
    (s.updLanes st f).line = s.line ∧ (s.updLanes st f).estop = s.estop ∧ (s.updLanes st f).ports = s.ports ∧
    (s.updLanes st f).links = s.links ∧ (s.updLanes st f).pending = s.pending := by simp [State.updLanes]

@[simp] theorem State.reserve_frame (s : State) (st : Idx) (n : Four Nat) :
    (s.reserve st n).web = s.web ∧ (s.reserve st n).reader = s.reader ∧ (s.reserve st n).track = s.track ∧
    (s.reserve st n).nextSeq = s.nextSeq ∧ (s.reserve st n).outcomes = s.outcomes ∧ (s.reserve st n).calcs = s.calcs ∧
    (s.reserve st n).seqr = s.seqr ∧ (s.reserve st n).heat = s.heat ∧ (s.reserve st n).splices = s.splices ∧
    (s.reserve st n).units = s.units ∧ (s.reserve st n).lineUnit = s.lineUnit ∧ (s.reserve st n).stopReq = s.stopReq ∧
    (s.reserve st n).watches = s.watches ∧ (s.reserve st n).slots = s.slots ∧ (s.reserve st n).settings = s.settings ∧
    (s.reserve st n).line = s.line ∧ (s.reserve st n).estop = s.estop ∧ (s.reserve st n).ports = s.ports ∧
    (s.reserve st n).links = s.links ∧ (s.reserve st n).pending = s.pending := by simp [State.reserve]

@[simp] theorem State.release_frame (s : State) (st : Idx) (n : Four Nat) :
    (s.release st n).web = s.web ∧ (s.release st n).reader = s.reader ∧ (s.release st n).track = s.track ∧
    (s.release st n).nextSeq = s.nextSeq ∧ (s.release st n).outcomes = s.outcomes ∧ (s.release st n).calcs = s.calcs ∧
    (s.release st n).seqr = s.seqr ∧ (s.release st n).heat = s.heat ∧ (s.release st n).splices = s.splices ∧
    (s.release st n).units = s.units ∧ (s.release st n).lineUnit = s.lineUnit ∧ (s.release st n).stopReq = s.stopReq ∧
    (s.release st n).watches = s.watches ∧ (s.release st n).slots = s.slots ∧ (s.release st n).settings = s.settings ∧
    (s.release st n).line = s.line ∧ (s.release st n).estop = s.estop ∧ (s.release st n).ports = s.ports ∧
    (s.release st n).links = s.links ∧ (s.release st n).pending = s.pending := by simp [State.release]

@[simp] theorem State.unreserve_frame (s : State) (st : Idx) :
    (s.unreserve st).web = s.web ∧ (s.unreserve st).reader = s.reader ∧ (s.unreserve st).track = s.track ∧
    (s.unreserve st).nextSeq = s.nextSeq ∧ (s.unreserve st).outcomes = s.outcomes ∧ (s.unreserve st).calcs = s.calcs ∧
    (s.unreserve st).seqr = s.seqr ∧ (s.unreserve st).heat = s.heat ∧ (s.unreserve st).splices = s.splices ∧
    (s.unreserve st).units = s.units ∧ (s.unreserve st).lineUnit = s.lineUnit ∧ (s.unreserve st).stopReq = s.stopReq ∧
    (s.unreserve st).watches = s.watches ∧ (s.unreserve st).slots = s.slots ∧ (s.unreserve st).settings = s.settings ∧
    (s.unreserve st).line = s.line ∧ (s.unreserve st).estop = s.estop ∧ (s.unreserve st).ports = s.ports ∧
    (s.unreserve st).links = s.links ∧ (s.unreserve st).pending = s.pending := by simp [State.unreserve]

@[simp] theorem State.giveUpFirstOff_frame (s : State) (j : Slot) (st : Idx) (q : SeqNo) :
    (s.giveUpFirstOff j st q).web = s.web ∧ (s.giveUpFirstOff j st q).reader = s.reader ∧
    (s.giveUpFirstOff j st q).track = s.track ∧ (s.giveUpFirstOff j st q).nextSeq = s.nextSeq ∧
    (s.giveUpFirstOff j st q).outcomes = s.outcomes ∧ (s.giveUpFirstOff j st q).calcs = s.calcs ∧
    (s.giveUpFirstOff j st q).seqr = s.seqr ∧ (s.giveUpFirstOff j st q).lanes = s.lanes ∧
    (s.giveUpFirstOff j st q).heat = s.heat ∧ (s.giveUpFirstOff j st q).splices = s.splices ∧
    (s.giveUpFirstOff j st q).units = s.units ∧ (s.giveUpFirstOff j st q).lineUnit = s.lineUnit ∧
    (s.giveUpFirstOff j st q).stopReq = s.stopReq ∧ (s.giveUpFirstOff j st q).watches = s.watches ∧
    (s.giveUpFirstOff j st q).settings = s.settings ∧ (s.giveUpFirstOff j st q).line = s.line ∧
    (s.giveUpFirstOff j st q).estop = s.estop ∧ (s.giveUpFirstOff j st q).ports = s.ports ∧
    (s.giveUpFirstOff j st q).links = s.links ∧ (s.giveUpFirstOff j st q).pending = s.pending := by
  unfold State.giveUpFirstOff
  split <;> simp

@[simp] theorem State.settleUnreported_frame (s : State) (st : Idx) (j : Slot) (q : SeqNo) (n : Four Nat) :
    (s.settleUnreported st j q n).web = s.web ∧ (s.settleUnreported st j q n).reader = s.reader ∧
    (s.settleUnreported st j q n).track = s.track ∧ (s.settleUnreported st j q n).nextSeq = s.nextSeq ∧
    (s.settleUnreported st j q n).outcomes = s.outcomes ∧ (s.settleUnreported st j q n).calcs = s.calcs ∧
    (s.settleUnreported st j q n).seqr = s.seqr ∧ (s.settleUnreported st j q n).heat = s.heat ∧
    (s.settleUnreported st j q n).splices = s.splices ∧ (s.settleUnreported st j q n).units = s.units ∧
    (s.settleUnreported st j q n).lineUnit = s.lineUnit ∧ (s.settleUnreported st j q n).stopReq = s.stopReq ∧
    (s.settleUnreported st j q n).watches = s.watches ∧ (s.settleUnreported st j q n).settings = s.settings ∧
    (s.settleUnreported st j q n).line = s.line ∧ (s.settleUnreported st j q n).estop = s.estop ∧
    (s.settleUnreported st j q n).ports = s.ports ∧ (s.settleUnreported st j q n).links = s.links ∧
    (s.settleUnreported st j q n).pending = s.pending := by
  unfold State.settleUnreported
  simp

@[simp] theorem State.updLink_frame (s : State) (st : Idx) (f : Link → Link) :
    (s.updLink st f).web = s.web ∧ (s.updLink st f).reader = s.reader ∧ (s.updLink st f).track = s.track ∧
    (s.updLink st f).nextSeq = s.nextSeq ∧ (s.updLink st f).outcomes = s.outcomes ∧ (s.updLink st f).calcs = s.calcs ∧
    (s.updLink st f).seqr = s.seqr ∧ (s.updLink st f).lanes = s.lanes ∧ (s.updLink st f).heat = s.heat ∧
    (s.updLink st f).splices = s.splices ∧ (s.updLink st f).units = s.units ∧ (s.updLink st f).lineUnit = s.lineUnit ∧
    (s.updLink st f).stopReq = s.stopReq ∧ (s.updLink st f).watches = s.watches ∧ (s.updLink st f).slots = s.slots ∧
    (s.updLink st f).settings = s.settings ∧ (s.updLink st f).line = s.line ∧ (s.updLink st f).estop = s.estop ∧
    (s.updLink st f).ports = s.ports ∧ (s.updLink st f).pending = s.pending := by simp [State.updLink]

@[simp] theorem State.updPort_frame (s : State) (p : Port) (f : PortState → PortState) :
    (s.updPort p f).web = s.web ∧ (s.updPort p f).reader = s.reader ∧ (s.updPort p f).track = s.track ∧
    (s.updPort p f).nextSeq = s.nextSeq ∧ (s.updPort p f).outcomes = s.outcomes ∧ (s.updPort p f).calcs = s.calcs ∧
    (s.updPort p f).seqr = s.seqr ∧ (s.updPort p f).lanes = s.lanes ∧ (s.updPort p f).heat = s.heat ∧
    (s.updPort p f).splices = s.splices ∧ (s.updPort p f).units = s.units ∧ (s.updPort p f).lineUnit = s.lineUnit ∧
    (s.updPort p f).stopReq = s.stopReq ∧ (s.updPort p f).watches = s.watches ∧ (s.updPort p f).slots = s.slots ∧
    (s.updPort p f).settings = s.settings ∧ (s.updPort p f).line = s.line ∧ (s.updPort p f).estop = s.estop ∧
    (s.updPort p f).links = s.links ∧ (s.updPort p f).pending = s.pending := by simp [State.updPort]

@[simp] theorem State.reply_frame (s : State) (p : Port) (tag : Tag) (code : Byte) (x : Answer) :
    (s.reply p tag code x).web = s.web ∧ (s.reply p tag code x).reader = s.reader ∧
    (s.reply p tag code x).track = s.track ∧ (s.reply p tag code x).nextSeq = s.nextSeq ∧
    (s.reply p tag code x).outcomes = s.outcomes ∧ (s.reply p tag code x).calcs = s.calcs ∧
    (s.reply p tag code x).seqr = s.seqr ∧ (s.reply p tag code x).lanes = s.lanes ∧ (s.reply p tag code x).heat = s.heat ∧
    (s.reply p tag code x).splices = s.splices ∧ (s.reply p tag code x).units = s.units ∧
    (s.reply p tag code x).lineUnit = s.lineUnit ∧ (s.reply p tag code x).stopReq = s.stopReq ∧
    (s.reply p tag code x).watches = s.watches ∧ (s.reply p tag code x).slots = s.slots ∧
    (s.reply p tag code x).settings = s.settings ∧ (s.reply p tag code x).line = s.line ∧
    (s.reply p tag code x).estop = s.estop ∧ (s.reply p tag code x).links = s.links ∧
    (s.reply p tag code x).pending = s.pending := by simp [State.reply]

@[simp] theorem State.updCalc_frame (s : State) (st : Idx) (f : Calc → Calc) :
    (s.updCalc st f).web = s.web ∧ (s.updCalc st f).reader = s.reader ∧ (s.updCalc st f).track = s.track ∧
    (s.updCalc st f).nextSeq = s.nextSeq ∧ (s.updCalc st f).outcomes = s.outcomes ∧ (s.updCalc st f).seqr = s.seqr ∧
    (s.updCalc st f).lanes = s.lanes ∧ (s.updCalc st f).heat = s.heat ∧ (s.updCalc st f).splices = s.splices ∧
    (s.updCalc st f).units = s.units ∧ (s.updCalc st f).lineUnit = s.lineUnit ∧ (s.updCalc st f).stopReq = s.stopReq ∧
    (s.updCalc st f).watches = s.watches ∧ (s.updCalc st f).slots = s.slots ∧ (s.updCalc st f).settings = s.settings ∧
    (s.updCalc st f).line = s.line ∧ (s.updCalc st f).estop = s.estop ∧ (s.updCalc st f).ports = s.ports ∧
    (s.updCalc st f).links = s.links ∧ (s.updCalc st f).pending = s.pending := by simp [State.updCalc]

@[simp] theorem State.unphase_frame (s : State) (st : Idx) :
    (s.unphase st).web = s.web ∧ (s.unphase st).reader = s.reader ∧ (s.unphase st).track = s.track ∧
    (s.unphase st).nextSeq = s.nextSeq ∧ (s.unphase st).outcomes = s.outcomes ∧ (s.unphase st).seqr = s.seqr ∧
    (s.unphase st).lanes = s.lanes ∧ (s.unphase st).heat = s.heat ∧ (s.unphase st).splices = s.splices ∧
    (s.unphase st).units = s.units ∧ (s.unphase st).lineUnit = s.lineUnit ∧ (s.unphase st).stopReq = s.stopReq ∧
    (s.unphase st).watches = s.watches ∧ (s.unphase st).slots = s.slots ∧ (s.unphase st).settings = s.settings ∧
    (s.unphase st).line = s.line ∧ (s.unphase st).estop = s.estop ∧ (s.unphase st).ports = s.ports ∧
    (s.unphase st).links = s.links ∧ (s.unphase st).pending = s.pending := by simp [State.unphase]

@[simp] theorem State.unphaseAll_frame (s : State) :
    (s.unphaseAll).web = s.web ∧ (s.unphaseAll).reader = s.reader ∧ (s.unphaseAll).track = s.track ∧
    (s.unphaseAll).nextSeq = s.nextSeq ∧ (s.unphaseAll).outcomes = s.outcomes ∧ (s.unphaseAll).seqr = s.seqr ∧
    (s.unphaseAll).lanes = s.lanes ∧ (s.unphaseAll).heat = s.heat ∧ (s.unphaseAll).splices = s.splices ∧
    (s.unphaseAll).units = s.units ∧ (s.unphaseAll).lineUnit = s.lineUnit ∧ (s.unphaseAll).stopReq = s.stopReq ∧
    (s.unphaseAll).watches = s.watches ∧ (s.unphaseAll).slots = s.slots ∧ (s.unphaseAll).settings = s.settings ∧
    (s.unphaseAll).line = s.line ∧ (s.unphaseAll).estop = s.estop ∧ (s.unphaseAll).ports = s.ports ∧
    (s.unphaseAll).links = s.links ∧ (s.unphaseAll).pending = s.pending := by simp [State.unphaseAll]

@[simp] theorem State.updSeqr_frame (s : State) (st : Idx) (f : Sequencer → Sequencer) :
    (s.updSeqr st f).web = s.web ∧ (s.updSeqr st f).reader = s.reader ∧ (s.updSeqr st f).track = s.track ∧
    (s.updSeqr st f).nextSeq = s.nextSeq ∧ (s.updSeqr st f).outcomes = s.outcomes ∧ (s.updSeqr st f).calcs = s.calcs ∧
    (s.updSeqr st f).lanes = s.lanes ∧ (s.updSeqr st f).heat = s.heat ∧ (s.updSeqr st f).splices = s.splices ∧
    (s.updSeqr st f).units = s.units ∧ (s.updSeqr st f).lineUnit = s.lineUnit ∧ (s.updSeqr st f).stopReq = s.stopReq ∧
    (s.updSeqr st f).watches = s.watches ∧ (s.updSeqr st f).slots = s.slots ∧ (s.updSeqr st f).settings = s.settings ∧
    (s.updSeqr st f).line = s.line ∧ (s.updSeqr st f).estop = s.estop ∧ (s.updSeqr st f).ports = s.ports ∧
    (s.updSeqr st f).links = s.links ∧ (s.updSeqr st f).pending = s.pending := by simp [State.updSeqr]

@[simp] theorem State.leaveInFlight_frame (s : State) (st : Idx) (q : SeqNo) :
    (s.leaveInFlight st q).web = s.web ∧ (s.leaveInFlight st q).reader = s.reader ∧
    (s.leaveInFlight st q).track = s.track ∧ (s.leaveInFlight st q).nextSeq = s.nextSeq ∧
    (s.leaveInFlight st q).outcomes = s.outcomes ∧ (s.leaveInFlight st q).calcs = s.calcs ∧
    (s.leaveInFlight st q).lanes = s.lanes ∧ (s.leaveInFlight st q).heat = s.heat ∧
    (s.leaveInFlight st q).splices = s.splices ∧ (s.leaveInFlight st q).units = s.units ∧
    (s.leaveInFlight st q).lineUnit = s.lineUnit ∧ (s.leaveInFlight st q).stopReq = s.stopReq ∧
    (s.leaveInFlight st q).watches = s.watches ∧ (s.leaveInFlight st q).slots = s.slots ∧
    (s.leaveInFlight st q).settings = s.settings ∧ (s.leaveInFlight st q).line = s.line ∧
    (s.leaveInFlight st q).estop = s.estop ∧ (s.leaveInFlight st q).ports = s.ports ∧
    (s.leaveInFlight st q).links = s.links ∧ (s.leaveInFlight st q).pending = s.pending := by simp [State.leaveInFlight]

@[simp] theorem State.settleContext_frame (s : State) (st : Idx) (q : SeqNo) (o : AbortOutcome) :
    (s.settleContext st q o).web = s.web ∧ (s.settleContext st q o).reader = s.reader ∧
    (s.settleContext st q o).track = s.track ∧ (s.settleContext st q o).nextSeq = s.nextSeq ∧
    (s.settleContext st q o).outcomes = s.outcomes ∧ (s.settleContext st q o).calcs = s.calcs ∧
    (s.settleContext st q o).lanes = s.lanes ∧ (s.settleContext st q o).heat = s.heat ∧
    (s.settleContext st q o).splices = s.splices ∧ (s.settleContext st q o).units = s.units ∧
    (s.settleContext st q o).lineUnit = s.lineUnit ∧ (s.settleContext st q o).stopReq = s.stopReq ∧
    (s.settleContext st q o).watches = s.watches ∧ (s.settleContext st q o).slots = s.slots ∧
    (s.settleContext st q o).settings = s.settings ∧ (s.settleContext st q o).line = s.line ∧
    (s.settleContext st q o).estop = s.estop ∧ (s.settleContext st q o).ports = s.ports ∧
    (s.settleContext st q o).links = s.links ∧ (s.settleContext st q o).pending = s.pending := by simp [State.settleContext]

@[simp] theorem State.leaveAbortSet_frame (s : State) (st : Idx) (q : SeqNo) :
    (s.leaveAbortSet st q).web = s.web ∧ (s.leaveAbortSet st q).reader = s.reader ∧
    (s.leaveAbortSet st q).track = s.track ∧ (s.leaveAbortSet st q).nextSeq = s.nextSeq ∧
    (s.leaveAbortSet st q).outcomes = s.outcomes ∧ (s.leaveAbortSet st q).calcs = s.calcs ∧
    (s.leaveAbortSet st q).lanes = s.lanes ∧ (s.leaveAbortSet st q).heat = s.heat ∧
    (s.leaveAbortSet st q).splices = s.splices ∧ (s.leaveAbortSet st q).units = s.units ∧
    (s.leaveAbortSet st q).lineUnit = s.lineUnit ∧ (s.leaveAbortSet st q).stopReq = s.stopReq ∧
    (s.leaveAbortSet st q).watches = s.watches ∧ (s.leaveAbortSet st q).slots = s.slots ∧
    (s.leaveAbortSet st q).settings = s.settings ∧ (s.leaveAbortSet st q).line = s.line ∧
    (s.leaveAbortSet st q).estop = s.estop ∧ (s.leaveAbortSet st q).ports = s.ports ∧
    (s.leaveAbortSet st q).links = s.links ∧ (s.leaveAbortSet st q).pending = s.pending := by simp [State.leaveAbortSet]

@[simp] theorem State.updContext_frame (s : State) (st : Idx) (f : HoldContext → HoldContext) :
    (s.updContext st f).web = s.web ∧ (s.updContext st f).reader = s.reader ∧ (s.updContext st f).track = s.track ∧
    (s.updContext st f).nextSeq = s.nextSeq ∧ (s.updContext st f).outcomes = s.outcomes ∧
    (s.updContext st f).calcs = s.calcs ∧ (s.updContext st f).lanes = s.lanes ∧ (s.updContext st f).heat = s.heat ∧
    (s.updContext st f).splices = s.splices ∧ (s.updContext st f).units = s.units ∧
    (s.updContext st f).lineUnit = s.lineUnit ∧ (s.updContext st f).stopReq = s.stopReq ∧
    (s.updContext st f).watches = s.watches ∧ (s.updContext st f).slots = s.slots ∧
    (s.updContext st f).settings = s.settings ∧ (s.updContext st f).line = s.line ∧ (s.updContext st f).estop = s.estop ∧
    (s.updContext st f).ports = s.ports ∧ (s.updContext st f).links = s.links ∧ (s.updContext st f).pending = s.pending := by simp [State.updContext]

@[simp] theorem State.setAction_frame (s : State) (st : Idx) (q : SeqNo) (x : ResumeAction) :
    (s.setAction st q x).web = s.web ∧ (s.setAction st q x).reader = s.reader ∧ (s.setAction st q x).track = s.track ∧
    (s.setAction st q x).nextSeq = s.nextSeq ∧ (s.setAction st q x).outcomes = s.outcomes ∧
    (s.setAction st q x).calcs = s.calcs ∧ (s.setAction st q x).lanes = s.lanes ∧ (s.setAction st q x).heat = s.heat ∧
    (s.setAction st q x).splices = s.splices ∧ (s.setAction st q x).units = s.units ∧
    (s.setAction st q x).lineUnit = s.lineUnit ∧ (s.setAction st q x).stopReq = s.stopReq ∧
    (s.setAction st q x).watches = s.watches ∧ (s.setAction st q x).slots = s.slots ∧
    (s.setAction st q x).settings = s.settings ∧ (s.setAction st q x).line = s.line ∧
    (s.setAction st q x).estop = s.estop ∧ (s.setAction st q x).ports = s.ports ∧ (s.setAction st q x).links = s.links ∧
    (s.setAction st q x).pending = s.pending := by simp [State.setAction]

@[simp] theorem State.saveContexts_frame (s : State) :
    (s.saveContexts).web = s.web ∧ (s.saveContexts).reader = s.reader ∧ (s.saveContexts).track = s.track ∧
    (s.saveContexts).nextSeq = s.nextSeq ∧ (s.saveContexts).outcomes = s.outcomes ∧ (s.saveContexts).calcs = s.calcs ∧
    (s.saveContexts).lanes = s.lanes ∧ (s.saveContexts).heat = s.heat ∧ (s.saveContexts).splices = s.splices ∧
    (s.saveContexts).units = s.units ∧ (s.saveContexts).lineUnit = s.lineUnit ∧ (s.saveContexts).stopReq = s.stopReq ∧
    (s.saveContexts).watches = s.watches ∧ (s.saveContexts).slots = s.slots ∧ (s.saveContexts).settings = s.settings ∧
    (s.saveContexts).line = s.line ∧ (s.saveContexts).estop = s.estop ∧ (s.saveContexts).ports = s.ports ∧
    (s.saveContexts).links = s.links ∧ (s.saveContexts).pending = s.pending := by simp [State.saveContexts]

@[simp] theorem State.dropContexts_frame (s : State) :
    (s.dropContexts).web = s.web ∧ (s.dropContexts).reader = s.reader ∧ (s.dropContexts).track = s.track ∧
    (s.dropContexts).nextSeq = s.nextSeq ∧ (s.dropContexts).outcomes = s.outcomes ∧ (s.dropContexts).calcs = s.calcs ∧
    (s.dropContexts).lanes = s.lanes ∧ (s.dropContexts).heat = s.heat ∧ (s.dropContexts).splices = s.splices ∧
    (s.dropContexts).units = s.units ∧ (s.dropContexts).lineUnit = s.lineUnit ∧ (s.dropContexts).stopReq = s.stopReq ∧
    (s.dropContexts).watches = s.watches ∧ (s.dropContexts).slots = s.slots ∧ (s.dropContexts).settings = s.settings ∧
    (s.dropContexts).line = s.line ∧ (s.dropContexts).estop = s.estop ∧ (s.dropContexts).ports = s.ports ∧
    (s.dropContexts).links = s.links ∧ (s.dropContexts).pending = s.pending := by simp [State.dropContexts]

@[simp] theorem State.clearAwaited_frame (s : State) (st : Idx) :
    (s.clearAwaited st).web = s.web ∧ (s.clearAwaited st).reader = s.reader ∧ (s.clearAwaited st).track = s.track ∧
    (s.clearAwaited st).nextSeq = s.nextSeq ∧ (s.clearAwaited st).outcomes = s.outcomes ∧
    (s.clearAwaited st).calcs = s.calcs ∧ (s.clearAwaited st).lanes = s.lanes ∧ (s.clearAwaited st).heat = s.heat ∧
    (s.clearAwaited st).splices = s.splices ∧ (s.clearAwaited st).units = s.units ∧
    (s.clearAwaited st).lineUnit = s.lineUnit ∧ (s.clearAwaited st).stopReq = s.stopReq ∧
    (s.clearAwaited st).watches = s.watches ∧ (s.clearAwaited st).slots = s.slots ∧
    (s.clearAwaited st).settings = s.settings ∧ (s.clearAwaited st).line = s.line ∧ (s.clearAwaited st).estop = s.estop ∧
    (s.clearAwaited st).ports = s.ports ∧ (s.clearAwaited st).pending = s.pending := by simp [State.clearAwaited]

@[simp] theorem State.updZone_frame (s : State) (st z : Idx) (f : Zone → Zone) :
    (s.updZone st z f).web = s.web ∧ (s.updZone st z f).reader = s.reader ∧ (s.updZone st z f).track = s.track ∧
    (s.updZone st z f).nextSeq = s.nextSeq ∧ (s.updZone st z f).outcomes = s.outcomes ∧
    (s.updZone st z f).calcs = s.calcs ∧ (s.updZone st z f).seqr = s.seqr ∧ (s.updZone st z f).lanes = s.lanes ∧
    (s.updZone st z f).splices = s.splices ∧ (s.updZone st z f).units = s.units ∧
    (s.updZone st z f).lineUnit = s.lineUnit ∧ (s.updZone st z f).stopReq = s.stopReq ∧
    (s.updZone st z f).watches = s.watches ∧ (s.updZone st z f).slots = s.slots ∧
    (s.updZone st z f).settings = s.settings ∧ (s.updZone st z f).line = s.line ∧ (s.updZone st z f).estop = s.estop ∧
    (s.updZone st z f).ports = s.ports ∧ (s.updZone st z f).links = s.links ∧ (s.updZone st z f).pending = s.pending := by simp [State.updZone]

@[simp] theorem State.setOrder_frame (s : State) (f : List (Idx × Idx) → List (Idx × Idx)) :
    (s.setOrder f).web = s.web ∧ (s.setOrder f).reader = s.reader ∧ (s.setOrder f).track = s.track ∧
    (s.setOrder f).nextSeq = s.nextSeq ∧ (s.setOrder f).outcomes = s.outcomes ∧ (s.setOrder f).calcs = s.calcs ∧
    (s.setOrder f).seqr = s.seqr ∧ (s.setOrder f).lanes = s.lanes ∧ (s.setOrder f).splices = s.splices ∧
    (s.setOrder f).units = s.units ∧ (s.setOrder f).lineUnit = s.lineUnit ∧ (s.setOrder f).stopReq = s.stopReq ∧
    (s.setOrder f).watches = s.watches ∧ (s.setOrder f).slots = s.slots ∧ (s.setOrder f).settings = s.settings ∧
    (s.setOrder f).line = s.line ∧ (s.setOrder f).estop = s.estop ∧ (s.setOrder f).ports = s.ports ∧
    (s.setOrder f).links = s.links ∧ (s.setOrder f).pending = s.pending := by simp [State.setOrder]

@[simp] theorem State.endSlot_frame (s : State) (st z : Idx) (b : Bool) :
    (s.endSlot st z b).web = s.web ∧ (s.endSlot st z b).reader = s.reader ∧ (s.endSlot st z b).track = s.track ∧
    (s.endSlot st z b).nextSeq = s.nextSeq ∧ (s.endSlot st z b).outcomes = s.outcomes ∧
    (s.endSlot st z b).calcs = s.calcs ∧ (s.endSlot st z b).seqr = s.seqr ∧ (s.endSlot st z b).lanes = s.lanes ∧
    (s.endSlot st z b).splices = s.splices ∧ (s.endSlot st z b).units = s.units ∧
    (s.endSlot st z b).lineUnit = s.lineUnit ∧ (s.endSlot st z b).stopReq = s.stopReq ∧
    (s.endSlot st z b).watches = s.watches ∧ (s.endSlot st z b).slots = s.slots ∧
    (s.endSlot st z b).settings = s.settings ∧ (s.endSlot st z b).line = s.line ∧ (s.endSlot st z b).estop = s.estop ∧
    (s.endSlot st z b).ports = s.ports ∧ (s.endSlot st z b).links = s.links ∧ (s.endSlot st z b).pending = s.pending := by simp [State.endSlot]

@[simp] theorem State.finishSlot_frame (s : State) (st z : Idx) :
    (s.finishSlot st z).web = s.web ∧ (s.finishSlot st z).reader = s.reader ∧ (s.finishSlot st z).track = s.track ∧
    (s.finishSlot st z).nextSeq = s.nextSeq ∧ (s.finishSlot st z).outcomes = s.outcomes ∧
    (s.finishSlot st z).calcs = s.calcs ∧ (s.finishSlot st z).seqr = s.seqr ∧ (s.finishSlot st z).lanes = s.lanes ∧
    (s.finishSlot st z).splices = s.splices ∧ (s.finishSlot st z).units = s.units ∧
    (s.finishSlot st z).lineUnit = s.lineUnit ∧ (s.finishSlot st z).stopReq = s.stopReq ∧
    (s.finishSlot st z).watches = s.watches ∧ (s.finishSlot st z).slots = s.slots ∧
    (s.finishSlot st z).settings = s.settings ∧ (s.finishSlot st z).line = s.line ∧ (s.finishSlot st z).estop = s.estop ∧
    (s.finishSlot st z).ports = s.ports ∧ (s.finishSlot st z).links = s.links ∧ (s.finishSlot st z).pending = s.pending := by simp [State.finishSlot]

@[simp] theorem State.grant_frame (s : State) (p : Idx × Idx) :
    (s.grant p).web = s.web ∧ (s.grant p).reader = s.reader ∧ (s.grant p).track = s.track ∧
    (s.grant p).nextSeq = s.nextSeq ∧ (s.grant p).outcomes = s.outcomes ∧ (s.grant p).calcs = s.calcs ∧
    (s.grant p).seqr = s.seqr ∧ (s.grant p).lanes = s.lanes ∧ (s.grant p).splices = s.splices ∧
    (s.grant p).units = s.units ∧ (s.grant p).lineUnit = s.lineUnit ∧ (s.grant p).stopReq = s.stopReq ∧
    (s.grant p).watches = s.watches ∧ (s.grant p).slots = s.slots ∧ (s.grant p).settings = s.settings ∧
    (s.grant p).line = s.line ∧ (s.grant p).estop = s.estop ∧ (s.grant p).ports = s.ports ∧ (s.grant p).links = s.links ∧
    (s.grant p).pending = s.pending := by simp [State.grant]

@[simp] theorem State.setStale_frame (s : State) (st : Idx) (b : Bool) :
    (s.setStale st b).web = s.web ∧ (s.setStale st b).reader = s.reader ∧ (s.setStale st b).track = s.track ∧
    (s.setStale st b).nextSeq = s.nextSeq ∧ (s.setStale st b).outcomes = s.outcomes ∧ (s.setStale st b).calcs = s.calcs ∧
    (s.setStale st b).seqr = s.seqr ∧ (s.setStale st b).lanes = s.lanes ∧ (s.setStale st b).splices = s.splices ∧
    (s.setStale st b).units = s.units ∧ (s.setStale st b).lineUnit = s.lineUnit ∧ (s.setStale st b).stopReq = s.stopReq ∧
    (s.setStale st b).watches = s.watches ∧ (s.setStale st b).slots = s.slots ∧ (s.setStale st b).settings = s.settings ∧
    (s.setStale st b).line = s.line ∧ (s.setStale st b).estop = s.estop ∧ (s.setStale st b).ports = s.ports ∧
    (s.setStale st b).links = s.links ∧ (s.setStale st b).pending = s.pending := by simp [State.setStale]

@[simp] theorem State.appendRecord_frame (s : State) (r : TrackRecord) :
    (s.appendRecord r).web = s.web ∧ (s.appendRecord r).reader = s.reader ∧ (s.appendRecord r).outcomes = s.outcomes ∧
    (s.appendRecord r).calcs = s.calcs ∧ (s.appendRecord r).seqr = s.seqr ∧ (s.appendRecord r).lanes = s.lanes ∧
    (s.appendRecord r).heat = s.heat ∧ (s.appendRecord r).splices = s.splices ∧ (s.appendRecord r).units = s.units ∧
    (s.appendRecord r).lineUnit = s.lineUnit ∧ (s.appendRecord r).stopReq = s.stopReq ∧
    (s.appendRecord r).watches = s.watches ∧ (s.appendRecord r).settings = s.settings ∧ (s.appendRecord r).line = s.line ∧
    (s.appendRecord r).estop = s.estop ∧ (s.appendRecord r).ports = s.ports ∧ (s.appendRecord r).links = s.links ∧
    (s.appendRecord r).pending = s.pending := by simp [State.appendRecord]

@[simp] theorem State.dropRef_frame (s : State) (j : Slot) :
    (s.dropRef j).web = s.web ∧ (s.dropRef j).reader = s.reader ∧ (s.dropRef j).track = s.track ∧
    (s.dropRef j).nextSeq = s.nextSeq ∧ (s.dropRef j).outcomes = s.outcomes ∧ (s.dropRef j).calcs = s.calcs ∧
    (s.dropRef j).seqr = s.seqr ∧ (s.dropRef j).lanes = s.lanes ∧ (s.dropRef j).heat = s.heat ∧
    (s.dropRef j).splices = s.splices ∧ (s.dropRef j).units = s.units ∧ (s.dropRef j).lineUnit = s.lineUnit ∧
    (s.dropRef j).stopReq = s.stopReq ∧ (s.dropRef j).watches = s.watches ∧ (s.dropRef j).settings = s.settings ∧
    (s.dropRef j).line = s.line ∧ (s.dropRef j).estop = s.estop ∧ (s.dropRef j).ports = s.ports ∧
    (s.dropRef j).links = s.links ∧ (s.dropRef j).pending = s.pending := by simp [State.dropRef]

@[simp] theorem State.setReader_frame (s : State) (m : Pos) (o : Origin) (x : ReaderState) (l n : Nat) :
    (s.setReader m o x l n).web = s.web ∧ (s.setReader m o x l n).track = s.track ∧
    (s.setReader m o x l n).nextSeq = s.nextSeq ∧ (s.setReader m o x l n).outcomes = s.outcomes ∧
    (s.setReader m o x l n).calcs = s.calcs ∧ (s.setReader m o x l n).seqr = s.seqr ∧
    (s.setReader m o x l n).lanes = s.lanes ∧ (s.setReader m o x l n).heat = s.heat ∧
    (s.setReader m o x l n).splices = s.splices ∧ (s.setReader m o x l n).units = s.units ∧
    (s.setReader m o x l n).lineUnit = s.lineUnit ∧ (s.setReader m o x l n).stopReq = s.stopReq ∧
    (s.setReader m o x l n).watches = s.watches ∧ (s.setReader m o x l n).slots = s.slots ∧
    (s.setReader m o x l n).settings = s.settings ∧ (s.setReader m o x l n).line = s.line ∧
    (s.setReader m o x l n).estop = s.estop ∧ (s.setReader m o x l n).ports = s.ports ∧
    (s.setReader m o x l n).links = s.links ∧ (s.setReader m o x l n).pending = s.pending := by simp [State.setReader]

@[simp] theorem State.removeSplice_frame (s : State) (x : Pos) :
    (s.removeSplice x).web = s.web ∧ (s.removeSplice x).reader = s.reader ∧ (s.removeSplice x).track = s.track ∧
    (s.removeSplice x).nextSeq = s.nextSeq ∧ (s.removeSplice x).outcomes = s.outcomes ∧
    (s.removeSplice x).calcs = s.calcs ∧ (s.removeSplice x).seqr = s.seqr ∧ (s.removeSplice x).lanes = s.lanes ∧
    (s.removeSplice x).heat = s.heat ∧ (s.removeSplice x).units = s.units ∧ (s.removeSplice x).lineUnit = s.lineUnit ∧
    (s.removeSplice x).stopReq = s.stopReq ∧ (s.removeSplice x).watches = s.watches ∧ (s.removeSplice x).slots = s.slots ∧
    (s.removeSplice x).settings = s.settings ∧ (s.removeSplice x).line = s.line ∧ (s.removeSplice x).estop = s.estop ∧
    (s.removeSplice x).ports = s.ports ∧ (s.removeSplice x).links = s.links ∧ (s.removeSplice x).pending = s.pending := by simp [State.removeSplice]

@[simp] theorem State.updSlot_frame (s : State) (j : Slot) (f : JobSlot → JobSlot) :
    (s.updSlot j f).web = s.web ∧ (s.updSlot j f).reader = s.reader ∧ (s.updSlot j f).track = s.track ∧
    (s.updSlot j f).nextSeq = s.nextSeq ∧ (s.updSlot j f).outcomes = s.outcomes ∧ (s.updSlot j f).calcs = s.calcs ∧
    (s.updSlot j f).seqr = s.seqr ∧ (s.updSlot j f).lanes = s.lanes ∧ (s.updSlot j f).heat = s.heat ∧
    (s.updSlot j f).splices = s.splices ∧ (s.updSlot j f).units = s.units ∧ (s.updSlot j f).lineUnit = s.lineUnit ∧
    (s.updSlot j f).stopReq = s.stopReq ∧ (s.updSlot j f).watches = s.watches ∧ (s.updSlot j f).settings = s.settings ∧
    (s.updSlot j f).line = s.line ∧ (s.updSlot j f).estop = s.estop ∧ (s.updSlot j f).ports = s.ports ∧
    (s.updSlot j f).links = s.links ∧ (s.updSlot j f).pending = s.pending := by simp [State.updSlot]

@[simp] theorem State.updJob_frame (s : State) (j : Slot) (f : JobRecord → JobRecord) :
    (s.updJob j f).web = s.web ∧ (s.updJob j f).reader = s.reader ∧ (s.updJob j f).track = s.track ∧
    (s.updJob j f).nextSeq = s.nextSeq ∧ (s.updJob j f).outcomes = s.outcomes ∧ (s.updJob j f).calcs = s.calcs ∧
    (s.updJob j f).seqr = s.seqr ∧ (s.updJob j f).lanes = s.lanes ∧ (s.updJob j f).heat = s.heat ∧
    (s.updJob j f).splices = s.splices ∧ (s.updJob j f).units = s.units ∧ (s.updJob j f).lineUnit = s.lineUnit ∧
    (s.updJob j f).stopReq = s.stopReq ∧ (s.updJob j f).watches = s.watches ∧ (s.updJob j f).settings = s.settings ∧
    (s.updJob j f).line = s.line ∧ (s.updJob j f).estop = s.estop ∧ (s.updJob j f).ports = s.ports ∧
    (s.updJob j f).links = s.links ∧ (s.updJob j f).pending = s.pending := by simp [State.updJob]

@[simp] theorem State.putStation_frame (s : State) (j : Slot) (st : Idx) (e : Option StationEntry) :
    (s.putStation j st e).web = s.web ∧ (s.putStation j st e).reader = s.reader ∧ (s.putStation j st e).track = s.track ∧
    (s.putStation j st e).nextSeq = s.nextSeq ∧ (s.putStation j st e).outcomes = s.outcomes ∧
    (s.putStation j st e).calcs = s.calcs ∧ (s.putStation j st e).seqr = s.seqr ∧ (s.putStation j st e).lanes = s.lanes ∧
    (s.putStation j st e).heat = s.heat ∧ (s.putStation j st e).splices = s.splices ∧
    (s.putStation j st e).units = s.units ∧ (s.putStation j st e).lineUnit = s.lineUnit ∧
    (s.putStation j st e).stopReq = s.stopReq ∧ (s.putStation j st e).watches = s.watches ∧
    (s.putStation j st e).settings = s.settings ∧ (s.putStation j st e).line = s.line ∧
    (s.putStation j st e).estop = s.estop ∧ (s.putStation j st e).ports = s.ports ∧ (s.putStation j st e).links = s.links ∧
    (s.putStation j st e).pending = s.pending := by simp [State.putStation]

@[simp] theorem State.beginSlot_frame (s : State) (j : Slot) (x : JobSource) :
    (s.beginSlot j x).web = s.web ∧ (s.beginSlot j x).reader = s.reader ∧ (s.beginSlot j x).track = s.track ∧
    (s.beginSlot j x).nextSeq = s.nextSeq ∧ (s.beginSlot j x).outcomes = s.outcomes ∧ (s.beginSlot j x).calcs = s.calcs ∧
    (s.beginSlot j x).seqr = s.seqr ∧ (s.beginSlot j x).lanes = s.lanes ∧ (s.beginSlot j x).heat = s.heat ∧
    (s.beginSlot j x).splices = s.splices ∧ (s.beginSlot j x).units = s.units ∧ (s.beginSlot j x).lineUnit = s.lineUnit ∧
    (s.beginSlot j x).stopReq = s.stopReq ∧ (s.beginSlot j x).watches = s.watches ∧
    (s.beginSlot j x).settings = s.settings ∧ (s.beginSlot j x).line = s.line ∧ (s.beginSlot j x).estop = s.estop ∧
    (s.beginSlot j x).ports = s.ports ∧ (s.beginSlot j x).links = s.links ∧ (s.beginSlot j x).pending = s.pending := by simp [State.beginSlot]

@[simp] theorem State.activate_frame (s : State) (j : Slot) :
    (s.activate j).web = s.web ∧ (s.activate j).reader = s.reader ∧ (s.activate j).track = s.track ∧
    (s.activate j).nextSeq = s.nextSeq ∧ (s.activate j).outcomes = s.outcomes ∧ (s.activate j).calcs = s.calcs ∧
    (s.activate j).seqr = s.seqr ∧ (s.activate j).lanes = s.lanes ∧ (s.activate j).heat = s.heat ∧
    (s.activate j).splices = s.splices ∧ (s.activate j).units = s.units ∧ (s.activate j).lineUnit = s.lineUnit ∧
    (s.activate j).stopReq = s.stopReq ∧ (s.activate j).watches = s.watches ∧ (s.activate j).settings = s.settings ∧
    (s.activate j).line = s.line ∧ (s.activate j).estop = s.estop ∧ (s.activate j).ports = s.ports ∧
    (s.activate j).links = s.links ∧ (s.activate j).pending = s.pending := by simp [State.activate]

@[simp] theorem State.disableJobWatches_frame (s : State) :
    (s.disableJobWatches).web = s.web ∧ (s.disableJobWatches).reader = s.reader ∧ (s.disableJobWatches).track = s.track ∧
    (s.disableJobWatches).nextSeq = s.nextSeq ∧ (s.disableJobWatches).outcomes = s.outcomes ∧
    (s.disableJobWatches).calcs = s.calcs ∧ (s.disableJobWatches).seqr = s.seqr ∧ (s.disableJobWatches).lanes = s.lanes ∧
    (s.disableJobWatches).heat = s.heat ∧ (s.disableJobWatches).splices = s.splices ∧
    (s.disableJobWatches).units = s.units ∧ (s.disableJobWatches).lineUnit = s.lineUnit ∧
    (s.disableJobWatches).stopReq = s.stopReq ∧ (s.disableJobWatches).slots = s.slots ∧
    (s.disableJobWatches).settings = s.settings ∧ (s.disableJobWatches).line = s.line ∧
    (s.disableJobWatches).estop = s.estop ∧ (s.disableJobWatches).ports = s.ports ∧ (s.disableJobWatches).links = s.links ∧
    (s.disableJobWatches).pending = s.pending := by simp [State.disableJobWatches]

@[simp] theorem State.restartReader_frame (s : State) :
    (s.restartReader).web = s.web ∧ (s.restartReader).track = s.track ∧ (s.restartReader).nextSeq = s.nextSeq ∧
    (s.restartReader).outcomes = s.outcomes ∧ (s.restartReader).calcs = s.calcs ∧ (s.restartReader).seqr = s.seqr ∧
    (s.restartReader).lanes = s.lanes ∧ (s.restartReader).heat = s.heat ∧ (s.restartReader).splices = s.splices ∧
    (s.restartReader).units = s.units ∧ (s.restartReader).lineUnit = s.lineUnit ∧ (s.restartReader).stopReq = s.stopReq ∧
    (s.restartReader).watches = s.watches ∧ (s.restartReader).slots = s.slots ∧ (s.restartReader).settings = s.settings ∧
    (s.restartReader).line = s.line ∧ (s.restartReader).estop = s.estop ∧ (s.restartReader).ports = s.ports ∧
    (s.restartReader).links = s.links ∧ (s.restartReader).pending = s.pending := by simp [State.restartReader]

@[simp] theorem State.offerIf_frame (s : State) (b : Bool) (n : Notice) :
    (s.offerIf b n).web = s.web ∧ (s.offerIf b n).reader = s.reader ∧ (s.offerIf b n).track = s.track ∧
    (s.offerIf b n).nextSeq = s.nextSeq ∧ (s.offerIf b n).outcomes = s.outcomes ∧ (s.offerIf b n).calcs = s.calcs ∧
    (s.offerIf b n).seqr = s.seqr ∧ (s.offerIf b n).lanes = s.lanes ∧ (s.offerIf b n).heat = s.heat ∧
    (s.offerIf b n).splices = s.splices ∧ (s.offerIf b n).units = s.units ∧ (s.offerIf b n).lineUnit = s.lineUnit ∧
    (s.offerIf b n).stopReq = s.stopReq ∧ (s.offerIf b n).watches = s.watches ∧ (s.offerIf b n).slots = s.slots ∧
    (s.offerIf b n).settings = s.settings ∧ (s.offerIf b n).line = s.line ∧ (s.offerIf b n).estop = s.estop ∧
    (s.offerIf b n).links = s.links ∧ (s.offerIf b n).pending = s.pending := by
  cases b <;> simp [State.offerIf]

@[simp] theorem State.clearFlagsAt_frame (s : State) (u : UnitId) (f : FlagSet) :
    (s.clearFlagsAt u f).web = s.web ∧ (s.clearFlagsAt u f).reader = s.reader ∧ (s.clearFlagsAt u f).track = s.track ∧
    (s.clearFlagsAt u f).nextSeq = s.nextSeq ∧ (s.clearFlagsAt u f).outcomes = s.outcomes ∧
    (s.clearFlagsAt u f).calcs = s.calcs ∧ (s.clearFlagsAt u f).seqr = s.seqr ∧ (s.clearFlagsAt u f).lanes = s.lanes ∧
    (s.clearFlagsAt u f).heat = s.heat ∧ (s.clearFlagsAt u f).splices = s.splices ∧
    (s.clearFlagsAt u f).stopReq = s.stopReq ∧ (s.clearFlagsAt u f).watches = s.watches ∧
    (s.clearFlagsAt u f).slots = s.slots ∧ (s.clearFlagsAt u f).settings = s.settings ∧
    (s.clearFlagsAt u f).line = s.line ∧ (s.clearFlagsAt u f).estop = s.estop ∧ (s.clearFlagsAt u f).ports = s.ports ∧
    (s.clearFlagsAt u f).links = s.links ∧ (s.clearFlagsAt u f).pending = s.pending := by simp [State.clearFlagsAt]

@[simp] theorem State.setFlagsAt_frame (s : State) (u : UnitId) (f g : FlagSet) :
    (s.setFlagsAt u f g).web = s.web ∧ (s.setFlagsAt u f g).reader = s.reader ∧ (s.setFlagsAt u f g).track = s.track ∧
    (s.setFlagsAt u f g).nextSeq = s.nextSeq ∧ (s.setFlagsAt u f g).outcomes = s.outcomes ∧
    (s.setFlagsAt u f g).calcs = s.calcs ∧ (s.setFlagsAt u f g).seqr = s.seqr ∧ (s.setFlagsAt u f g).lanes = s.lanes ∧
    (s.setFlagsAt u f g).heat = s.heat ∧ (s.setFlagsAt u f g).splices = s.splices ∧
    (s.setFlagsAt u f g).stopReq = s.stopReq ∧ (s.setFlagsAt u f g).watches = s.watches ∧
    (s.setFlagsAt u f g).slots = s.slots ∧ (s.setFlagsAt u f g).settings = s.settings ∧
    (s.setFlagsAt u f g).line = s.line ∧ (s.setFlagsAt u f g).estop = s.estop ∧ (s.setFlagsAt u f g).links = s.links ∧
    (s.setFlagsAt u f g).pending = s.pending := by simp [State.setFlagsAt]

end Machine

end Sys2Proof
end

