-- ==== Sys2Proof/Laws/Frames.lean ====
section
/-! SUPPORT. What each shared operation leaves alone: one lemma for each operation, for every field of the state it can never
write. -/

namespace Sys2Proof.Machine

@[simp] theorem State.writeLatest_frame (s : State) (ev : FaultEvent) (e : Effect) :
    (s.writeLatest ev e).web = s.web ∧ (s.writeLatest ev e).reader = s.reader ∧ (s.writeLatest ev e).track = s.track ∧
    (s.writeLatest ev e).nextSeq = s.nextSeq ∧ (s.writeLatest ev e).outcomes = s.outcomes ∧
    (s.writeLatest ev e).calcs = s.calcs ∧ (s.writeLatest ev e).seqr = s.seqr ∧ (s.writeLatest ev e).lanes = s.lanes ∧
    (s.writeLatest ev e).heat = s.heat ∧ (s.writeLatest ev e).splices = s.splices ∧
    (s.writeLatest ev e).stopReq = s.stopReq ∧ (s.writeLatest ev e).watches = s.watches ∧
    (s.writeLatest ev e).slots = s.slots ∧ (s.writeLatest ev e).settings = s.settings ∧
    (s.writeLatest ev e).line = s.line ∧ (s.writeLatest ev e).estop = s.estop ∧ (s.writeLatest ev e).ports = s.ports ∧
    (s.writeLatest ev e).links = s.links ∧ (s.writeLatest ev e).pending = s.pending := by
  unfold State.writeLatest
  try dsimp only
  repeat' split
  all_goals simp

@[simp] theorem State.raiseHard_frame (s : State) (ev : FaultEvent) :
    (s.raiseHard ev).web = s.web ∧ (s.raiseHard ev).reader = s.reader ∧ (s.raiseHard ev).track = s.track ∧
    (s.raiseHard ev).nextSeq = s.nextSeq ∧ (s.raiseHard ev).outcomes = s.outcomes ∧ (s.raiseHard ev).calcs = s.calcs ∧
    (s.raiseHard ev).seqr = s.seqr ∧ (s.raiseHard ev).lanes = s.lanes ∧ (s.raiseHard ev).heat = s.heat ∧
    (s.raiseHard ev).splices = s.splices ∧ (s.raiseHard ev).watches = s.watches ∧ (s.raiseHard ev).slots = s.slots ∧
    (s.raiseHard ev).settings = s.settings ∧ (s.raiseHard ev).line = s.line ∧ (s.raiseHard ev).estop = s.estop ∧
    (s.raiseHard ev).links = s.links ∧ (s.raiseHard ev).pending = s.pending := by
  unfold State.raiseHard
  try dsimp only
  repeat' split
  all_goals simp

@[simp] theorem State.raise_frame (s : State) (ev : FaultEvent) :
    (s.raise ev).web = s.web ∧ (s.raise ev).reader = s.reader ∧ (s.raise ev).track = s.track ∧
    (s.raise ev).nextSeq = s.nextSeq ∧ (s.raise ev).outcomes = s.outcomes ∧ (s.raise ev).calcs = s.calcs ∧
    (s.raise ev).seqr = s.seqr ∧ (s.raise ev).lanes = s.lanes ∧ (s.raise ev).heat = s.heat ∧
    (s.raise ev).splices = s.splices ∧ (s.raise ev).watches = s.watches ∧ (s.raise ev).slots = s.slots ∧
    (s.raise ev).settings = s.settings ∧ (s.raise ev).line = s.line ∧ (s.raise ev).estop = s.estop ∧
    (s.raise ev).links = s.links ∧ (s.raise ev).pending = s.pending := by
  unfold State.raise
  try dsimp only
  repeat' split
  all_goals simp

@[simp] theorem State.meetWatch_frame (s : State) (w : Idx) (q : Option SeqNo) :
    (s.meetWatch w q).web = s.web ∧ (s.meetWatch w q).reader = s.reader ∧ (s.meetWatch w q).nextSeq = s.nextSeq ∧
    (s.meetWatch w q).outcomes = s.outcomes ∧ (s.meetWatch w q).calcs = s.calcs ∧ (s.meetWatch w q).seqr = s.seqr ∧
    (s.meetWatch w q).lanes = s.lanes ∧ (s.meetWatch w q).heat = s.heat ∧ (s.meetWatch w q).splices = s.splices ∧
    (s.meetWatch w q).units = s.units ∧ (s.meetWatch w q).lineUnit = s.lineUnit ∧ (s.meetWatch w q).slots = s.slots ∧
    (s.meetWatch w q).settings = s.settings ∧ (s.meetWatch w q).line = s.line ∧ (s.meetWatch w q).estop = s.estop ∧
    (s.meetWatch w q).links = s.links ∧ (s.meetWatch w q).pending = s.pending := by
  unfold State.meetWatch
  try dsimp only
  repeat' split
  all_goals simp

@[simp] theorem State.testLevel_frame (s : State) (w : Idx) (b : Bool) :
    (s.testLevel w b).web = s.web ∧ (s.testLevel w b).reader = s.reader ∧ (s.testLevel w b).nextSeq = s.nextSeq ∧
    (s.testLevel w b).outcomes = s.outcomes ∧ (s.testLevel w b).calcs = s.calcs ∧ (s.testLevel w b).seqr = s.seqr ∧
    (s.testLevel w b).lanes = s.lanes ∧ (s.testLevel w b).heat = s.heat ∧ (s.testLevel w b).splices = s.splices ∧
    (s.testLevel w b).units = s.units ∧ (s.testLevel w b).lineUnit = s.lineUnit ∧ (s.testLevel w b).slots = s.slots ∧
    (s.testLevel w b).settings = s.settings ∧ (s.testLevel w b).line = s.line ∧ (s.testLevel w b).estop = s.estop ∧
    (s.testLevel w b).links = s.links ∧ (s.testLevel w b).pending = s.pending := by
  unfold State.testLevel
  try dsimp only
  repeat' split
  all_goals simp

@[simp] theorem State.laneChanged_frame (s : State) (st c : Idx) :
    (s.laneChanged st c).web = s.web ∧ (s.laneChanged st c).reader = s.reader ∧ (s.laneChanged st c).nextSeq = s.nextSeq ∧
    (s.laneChanged st c).outcomes = s.outcomes ∧ (s.laneChanged st c).calcs = s.calcs ∧
    (s.laneChanged st c).seqr = s.seqr ∧ (s.laneChanged st c).lanes = s.lanes ∧ (s.laneChanged st c).heat = s.heat ∧
    (s.laneChanged st c).splices = s.splices ∧ (s.laneChanged st c).units = s.units ∧
    (s.laneChanged st c).lineUnit = s.lineUnit ∧ (s.laneChanged st c).slots = s.slots ∧
    (s.laneChanged st c).settings = s.settings ∧ (s.laneChanged st c).line = s.line ∧
    (s.laneChanged st c).estop = s.estop ∧ (s.laneChanged st c).links = s.links ∧ (s.laneChanged st c).pending = s.pending := by
  unfold State.laneChanged
  refine ⟨?_, ?_, ?_, ?_, ?_, ?_, ?_, ?_, ?_, ?_, ?_, ?_, ?_, ?_, ?_, ?_, ?_⟩
  · exact foldl_same State.web _ (by intro s x; (try dsimp only); (repeat' split) <;> simp) _ _
  · exact foldl_same State.reader _ (by intro s x; (try dsimp only); (repeat' split) <;> simp) _ _
  · exact foldl_same State.nextSeq _ (by intro s x; (try dsimp only); (repeat' split) <;> simp) _ _
  · exact foldl_same State.outcomes _ (by intro s x; (try dsimp only); (repeat' split) <;> simp) _ _
  · exact foldl_same State.calcs _ (by intro s x; (try dsimp only); (repeat' split) <;> simp) _ _
  · exact foldl_same State.seqr _ (by intro s x; (try dsimp only); (repeat' split) <;> simp) _ _
  · exact foldl_same State.lanes _ (by intro s x; (try dsimp only); (repeat' split) <;> simp) _ _
  · exact foldl_same State.heat _ (by intro s x; (try dsimp only); (repeat' split) <;> simp) _ _
  · exact foldl_same State.splices _ (by intro s x; (try dsimp only); (repeat' split) <;> simp) _ _
  · exact foldl_same State.units _ (by intro s x; (try dsimp only); (repeat' split) <;> simp) _ _
  · exact foldl_same State.lineUnit _ (by intro s x; (try dsimp only); (repeat' split) <;> simp) _ _
  · exact foldl_same State.slots _ (by intro s x; (try dsimp only); (repeat' split) <;> simp) _ _
  · exact foldl_same State.settings _ (by intro s x; (try dsimp only); (repeat' split) <;> simp) _ _
  · exact foldl_same State.line _ (by intro s x; (try dsimp only); (repeat' split) <;> simp) _ _
  · exact foldl_same State.estop _ (by intro s x; (try dsimp only); (repeat' split) <;> simp) _ _
  · exact foldl_same State.links _ (by intro s x; (try dsimp only); (repeat' split) <;> simp) _ _
  · exact foldl_same State.pending _ (by intro s x; (try dsimp only); (repeat' split) <;> simp) _ _

@[simp] theorem State.trimChanged_frame (s : State) (st : Idx) :
    (s.trimChanged st).web = s.web ∧ (s.trimChanged st).reader = s.reader ∧ (s.trimChanged st).nextSeq = s.nextSeq ∧
    (s.trimChanged st).outcomes = s.outcomes ∧ (s.trimChanged st).calcs = s.calcs ∧ (s.trimChanged st).seqr = s.seqr ∧
    (s.trimChanged st).lanes = s.lanes ∧ (s.trimChanged st).heat = s.heat ∧ (s.trimChanged st).splices = s.splices ∧
    (s.trimChanged st).units = s.units ∧ (s.trimChanged st).lineUnit = s.lineUnit ∧ (s.trimChanged st).slots = s.slots ∧
    (s.trimChanged st).settings = s.settings ∧ (s.trimChanged st).line = s.line ∧ (s.trimChanged st).estop = s.estop ∧
    (s.trimChanged st).links = s.links ∧ (s.trimChanged st).pending = s.pending := by
  unfold State.trimChanged
  refine ⟨?_, ?_, ?_, ?_, ?_, ?_, ?_, ?_, ?_, ?_, ?_, ?_, ?_, ?_, ?_, ?_, ?_⟩
  · exact foldl_same State.web _ (by intro s x; (try dsimp only); (repeat' split) <;> simp) _ _
  · exact foldl_same State.reader _ (by intro s x; (try dsimp only); (repeat' split) <;> simp) _ _
  · exact foldl_same State.nextSeq _ (by intro s x; (try dsimp only); (repeat' split) <;> simp) _ _
  · exact foldl_same State.outcomes _ (by intro s x; (try dsimp only); (repeat' split) <;> simp) _ _
  · exact foldl_same State.calcs _ (by intro s x; (try dsimp only); (repeat' split) <;> simp) _ _
  · exact foldl_same State.seqr _ (by intro s x; (try dsimp only); (repeat' split) <;> simp) _ _
  · exact foldl_same State.lanes _ (by intro s x; (try dsimp only); (repeat' split) <;> simp) _ _
  · exact foldl_same State.heat _ (by intro s x; (try dsimp only); (repeat' split) <;> simp) _ _
  · exact foldl_same State.splices _ (by intro s x; (try dsimp only); (repeat' split) <;> simp) _ _
  · exact foldl_same State.units _ (by intro s x; (try dsimp only); (repeat' split) <;> simp) _ _
  · exact foldl_same State.lineUnit _ (by intro s x; (try dsimp only); (repeat' split) <;> simp) _ _
  · exact foldl_same State.slots _ (by intro s x; (try dsimp only); (repeat' split) <;> simp) _ _
  · exact foldl_same State.settings _ (by intro s x; (try dsimp only); (repeat' split) <;> simp) _ _
  · exact foldl_same State.line _ (by intro s x; (try dsimp only); (repeat' split) <;> simp) _ _
  · exact foldl_same State.estop _ (by intro s x; (try dsimp only); (repeat' split) <;> simp) _ _
  · exact foldl_same State.links _ (by intro s x; (try dsimp only); (repeat' split) <;> simp) _ _
  · exact foldl_same State.pending _ (by intro s x; (try dsimp only); (repeat' split) <;> simp) _ _

@[simp] theorem State.commitWatched_frame (s : State) (st : Idx) (q : SeqNo) :
    (s.commitWatched st q).web = s.web ∧ (s.commitWatched st q).reader = s.reader ∧
    (s.commitWatched st q).nextSeq = s.nextSeq ∧ (s.commitWatched st q).outcomes = s.outcomes ∧
    (s.commitWatched st q).calcs = s.calcs ∧ (s.commitWatched st q).seqr = s.seqr ∧
    (s.commitWatched st q).lanes = s.lanes ∧ (s.commitWatched st q).heat = s.heat ∧
    (s.commitWatched st q).splices = s.splices ∧ (s.commitWatched st q).units = s.units ∧
    (s.commitWatched st q).lineUnit = s.lineUnit ∧ (s.commitWatched st q).slots = s.slots ∧
    (s.commitWatched st q).settings = s.settings ∧ (s.commitWatched st q).line = s.line ∧
    (s.commitWatched st q).estop = s.estop ∧ (s.commitWatched st q).links = s.links ∧
    (s.commitWatched st q).pending = s.pending := by
  unfold State.commitWatched
  refine ⟨?_, ?_, ?_, ?_, ?_, ?_, ?_, ?_, ?_, ?_, ?_, ?_, ?_, ?_, ?_, ?_, ?_⟩
  · exact foldl_same State.web _ (by intro s x; (try dsimp only); (repeat' split) <;> simp) _ _
  · exact foldl_same State.reader _ (by intro s x; (try dsimp only); (repeat' split) <;> simp) _ _
  · exact foldl_same State.nextSeq _ (by intro s x; (try dsimp only); (repeat' split) <;> simp) _ _
  · exact foldl_same State.outcomes _ (by intro s x; (try dsimp only); (repeat' split) <;> simp) _ _
  · exact foldl_same State.calcs _ (by intro s x; (try dsimp only); (repeat' split) <;> simp) _ _
  · exact foldl_same State.seqr _ (by intro s x; (try dsimp only); (repeat' split) <;> simp) _ _
  · exact foldl_same State.lanes _ (by intro s x; (try dsimp only); (repeat' split) <;> simp) _ _
  · exact foldl_same State.heat _ (by intro s x; (try dsimp only); (repeat' split) <;> simp) _ _
  · exact foldl_same State.splices _ (by intro s x; (try dsimp only); (repeat' split) <;> simp) _ _
  · exact foldl_same State.units _ (by intro s x; (try dsimp only); (repeat' split) <;> simp) _ _
  · exact foldl_same State.lineUnit _ (by intro s x; (try dsimp only); (repeat' split) <;> simp) _ _
  · exact foldl_same State.slots _ (by intro s x; (try dsimp only); (repeat' split) <;> simp) _ _
  · exact foldl_same State.settings _ (by intro s x; (try dsimp only); (repeat' split) <;> simp) _ _
  · exact foldl_same State.line _ (by intro s x; (try dsimp only); (repeat' split) <;> simp) _ _
  · exact foldl_same State.estop _ (by intro s x; (try dsimp only); (repeat' split) <;> simp) _ _
  · exact foldl_same State.links _ (by intro s x; (try dsimp only); (repeat' split) <;> simp) _ _
  · exact foldl_same State.pending _ (by intro s x; (try dsimp only); (repeat' split) <;> simp) _ _

@[simp] theorem State.runOut_frame (s : State) (st c : Idx) (q : SeqNo) :
    (s.runOut st c q).web = s.web ∧ (s.runOut st c q).reader = s.reader ∧ (s.runOut st c q).track = s.track ∧
    (s.runOut st c q).nextSeq = s.nextSeq ∧ (s.runOut st c q).outcomes = s.outcomes ∧ (s.runOut st c q).calcs = s.calcs ∧
    (s.runOut st c q).seqr = s.seqr ∧ (s.runOut st c q).heat = s.heat ∧ (s.runOut st c q).splices = s.splices ∧
    (s.runOut st c q).watches = s.watches ∧ (s.runOut st c q).slots = s.slots ∧ (s.runOut st c q).settings = s.settings ∧
    (s.runOut st c q).line = s.line ∧ (s.runOut st c q).estop = s.estop ∧ (s.runOut st c q).links = s.links ∧
    (s.runOut st c q).pending = s.pending := by
  unfold State.runOut
  try dsimp only
  repeat' split
  all_goals simp

@[simp] theorem State.lowTest_frame (s : State) (st c : Idx) :
    (s.lowTest st c).web = s.web ∧ (s.lowTest st c).reader = s.reader ∧ (s.lowTest st c).track = s.track ∧
    (s.lowTest st c).nextSeq = s.nextSeq ∧ (s.lowTest st c).outcomes = s.outcomes ∧ (s.lowTest st c).calcs = s.calcs ∧
    (s.lowTest st c).seqr = s.seqr ∧ (s.lowTest st c).heat = s.heat ∧ (s.lowTest st c).splices = s.splices ∧
    (s.lowTest st c).watches = s.watches ∧ (s.lowTest st c).slots = s.slots ∧ (s.lowTest st c).settings = s.settings ∧
    (s.lowTest st c).line = s.line ∧ (s.lowTest st c).estop = s.estop ∧ (s.lowTest st c).links = s.links ∧
    (s.lowTest st c).pending = s.pending := by
  unfold State.lowTest
  try dsimp only
  repeat' split
  all_goals simp

@[simp] theorem State.breakLane_frame (s : State) (st c : Idx) (q : SeqNo) :
    (s.breakLane st c q).web = s.web ∧ (s.breakLane st c q).reader = s.reader ∧ (s.breakLane st c q).track = s.track ∧
    (s.breakLane st c q).nextSeq = s.nextSeq ∧ (s.breakLane st c q).outcomes = s.outcomes ∧
    (s.breakLane st c q).calcs = s.calcs ∧ (s.breakLane st c q).seqr = s.seqr ∧ (s.breakLane st c q).heat = s.heat ∧
    (s.breakLane st c q).splices = s.splices ∧ (s.breakLane st c q).watches = s.watches ∧
    (s.breakLane st c q).slots = s.slots ∧ (s.breakLane st c q).settings = s.settings ∧
    (s.breakLane st c q).line = s.line ∧ (s.breakLane st c q).estop = s.estop ∧ (s.breakLane st c q).links = s.links ∧
    (s.breakLane st c q).pending = s.pending := by
  unfold State.breakLane
  try dsimp only
  repeat' split
  all_goals simp

@[simp] theorem State.consume_frame (s : State) (st c : Idx) (n : Nat) :
    (s.consume st c n).web = s.web ∧ (s.consume st c n).reader = s.reader ∧ (s.consume st c n).nextSeq = s.nextSeq ∧
    (s.consume st c n).outcomes = s.outcomes ∧ (s.consume st c n).calcs = s.calcs ∧ (s.consume st c n).seqr = s.seqr ∧
    (s.consume st c n).heat = s.heat ∧ (s.consume st c n).splices = s.splices ∧ (s.consume st c n).units = s.units ∧
    (s.consume st c n).lineUnit = s.lineUnit ∧ (s.consume st c n).slots = s.slots ∧
    (s.consume st c n).settings = s.settings ∧ (s.consume st c n).line = s.line ∧ (s.consume st c n).estop = s.estop ∧
    (s.consume st c n).links = s.links ∧ (s.consume st c n).pending = s.pending := by
  unfold State.consume
  try dsimp only
  repeat' split
  all_goals simp

@[simp] theorem State.applyFoil_frame (s : State) (st : Idx) (r : FoilReport) (c : Idx) :
    (s.applyFoil st r c).web = s.web ∧ (s.applyFoil st r c).reader = s.reader ∧ (s.applyFoil st r c).nextSeq = s.nextSeq ∧
    (s.applyFoil st r c).outcomes = s.outcomes ∧ (s.applyFoil st r c).calcs = s.calcs ∧
    (s.applyFoil st r c).seqr = s.seqr ∧ (s.applyFoil st r c).heat = s.heat ∧ (s.applyFoil st r c).splices = s.splices ∧
    (s.applyFoil st r c).settings = s.settings ∧ (s.applyFoil st r c).line = s.line ∧
    (s.applyFoil st r c).estop = s.estop ∧ (s.applyFoil st r c).links = s.links ∧ (s.applyFoil st r c).pending = s.pending := by
  unfold State.applyFoil
  try dsimp only
  repeat' split
  all_goals simp

@[simp] theorem State.applyFoilAll_frame (s : State) (st : Idx) (r : FoilReport) :
    (s.applyFoilAll st r).web = s.web ∧ (s.applyFoilAll st r).reader = s.reader ∧
    (s.applyFoilAll st r).nextSeq = s.nextSeq ∧ (s.applyFoilAll st r).outcomes = s.outcomes ∧
    (s.applyFoilAll st r).calcs = s.calcs ∧ (s.applyFoilAll st r).seqr = s.seqr ∧ (s.applyFoilAll st r).heat = s.heat ∧
    (s.applyFoilAll st r).splices = s.splices ∧ (s.applyFoilAll st r).settings = s.settings ∧
    (s.applyFoilAll st r).line = s.line ∧ (s.applyFoilAll st r).estop = s.estop ∧ (s.applyFoilAll st r).links = s.links ∧
    (s.applyFoilAll st r).pending = s.pending := by
  unfold State.applyFoilAll
  refine ⟨?_, ?_, ?_, ?_, ?_, ?_, ?_, ?_, ?_, ?_, ?_, ?_, ?_⟩
  · exact foldl_same State.web _ (by intro s x; (try dsimp only); (repeat' split) <;> simp) _ _
  · exact foldl_same State.reader _ (by intro s x; (try dsimp only); (repeat' split) <;> simp) _ _
  · exact foldl_same State.nextSeq _ (by intro s x; (try dsimp only); (repeat' split) <;> simp) _ _
  · exact foldl_same State.outcomes _ (by intro s x; (try dsimp only); (repeat' split) <;> simp) _ _
  · exact foldl_same State.calcs _ (by intro s x; (try dsimp only); (repeat' split) <;> simp) _ _
  · exact foldl_same State.seqr _ (by intro s x; (try dsimp only); (repeat' split) <;> simp) _ _
  · exact foldl_same State.heat _ (by intro s x; (try dsimp only); (repeat' split) <;> simp) _ _
  · exact foldl_same State.splices _ (by intro s x; (try dsimp only); (repeat' split) <;> simp) _ _
  · exact foldl_same State.settings _ (by intro s x; (try dsimp only); (repeat' split) <;> simp) _ _
  · exact foldl_same State.line _ (by intro s x; (try dsimp only); (repeat' split) <;> simp) _ _
  · exact foldl_same State.estop _ (by intro s x; (try dsimp only); (repeat' split) <;> simp) _ _
  · exact foldl_same State.links _ (by intro s x; (try dsimp only); (repeat' split) <;> simp) _ _
  · exact foldl_same State.pending _ (by intro s x; (try dsimp only); (repeat' split) <;> simp) _ _

@[simp] theorem State.endUnreported_frame (s : State) (st : Idx) (j : Slot) (q : SeqNo) (n : Four Nat) :
    (s.endUnreported st j q n).web = s.web ∧ (s.endUnreported st j q n).reader = s.reader ∧
    (s.endUnreported st j q n).track = s.track ∧ (s.endUnreported st j q n).nextSeq = s.nextSeq ∧
    (s.endUnreported st j q n).outcomes = s.outcomes ∧ (s.endUnreported st j q n).calcs = s.calcs ∧
    (s.endUnreported st j q n).seqr = s.seqr ∧ (s.endUnreported st j q n).heat = s.heat ∧
    (s.endUnreported st j q n).splices = s.splices ∧ (s.endUnreported st j q n).watches = s.watches ∧
    (s.endUnreported st j q n).settings = s.settings ∧ (s.endUnreported st j q n).line = s.line ∧
    (s.endUnreported st j q n).estop = s.estop ∧ (s.endUnreported st j q n).links = s.links ∧
    (s.endUnreported st j q n).pending = s.pending := by
  unfold State.endUnreported
  refine ⟨?_, ?_, ?_, ?_, ?_, ?_, ?_, ?_, ?_, ?_, ?_, ?_, ?_, ?_, ?_⟩
  · exact (foldl_same State.web _ (by intro s x; simp) _ _).trans (by simp)
  · exact (foldl_same State.reader _ (by intro s x; simp) _ _).trans (by simp)
  · exact (foldl_same State.track _ (by intro s x; simp) _ _).trans (by simp)
  · exact (foldl_same State.nextSeq _ (by intro s x; simp) _ _).trans (by simp)
  · exact (foldl_same State.outcomes _ (by intro s x; simp) _ _).trans (by simp)
  · exact (foldl_same State.calcs _ (by intro s x; simp) _ _).trans (by simp)
  · exact (foldl_same State.seqr _ (by intro s x; simp) _ _).trans (by simp)
  · exact (foldl_same State.heat _ (by intro s x; simp) _ _).trans (by simp)
  · exact (foldl_same State.splices _ (by intro s x; simp) _ _).trans (by simp)
  · exact (foldl_same State.watches _ (by intro s x; simp) _ _).trans (by simp)
  · exact (foldl_same State.settings _ (by intro s x; simp) _ _).trans (by simp)
  · exact (foldl_same State.line _ (by intro s x; simp) _ _).trans (by simp)
  · exact (foldl_same State.estop _ (by intro s x; simp) _ _).trans (by simp)
  · exact (foldl_same State.links _ (by intro s x; simp) _ _).trans (by simp)
  · exact (foldl_same State.pending _ (by intro s x; simp) _ _).trans (by simp)

@[simp] theorem State.setTrim_frame (s : State) (st : Idx) (t : Int) :
    (s.setTrim st t).web = s.web ∧ (s.setTrim st t).reader = s.reader ∧ (s.setTrim st t).nextSeq = s.nextSeq ∧
    (s.setTrim st t).outcomes = s.outcomes ∧ (s.setTrim st t).seqr = s.seqr ∧ (s.setTrim st t).lanes = s.lanes ∧
    (s.setTrim st t).heat = s.heat ∧ (s.setTrim st t).splices = s.splices ∧ (s.setTrim st t).units = s.units ∧
    (s.setTrim st t).lineUnit = s.lineUnit ∧ (s.setTrim st t).slots = s.slots ∧ (s.setTrim st t).settings = s.settings ∧
    (s.setTrim st t).line = s.line ∧ (s.setTrim st t).estop = s.estop ∧ (s.setTrim st t).links = s.links ∧
    (s.setTrim st t).pending = s.pending := by
  unfold State.setTrim
  try dsimp only
  repeat' split
  all_goals simp

@[simp] theorem State.transmit_frame (s : State) (st : Idx) (q : SeqNo) :
    (s.transmit st q).web = s.web ∧ (s.transmit st q).reader = s.reader ∧ (s.transmit st q).track = s.track ∧
    (s.transmit st q).nextSeq = s.nextSeq ∧ (s.transmit st q).outcomes = s.outcomes ∧ (s.transmit st q).calcs = s.calcs ∧
    (s.transmit st q).lanes = s.lanes ∧ (s.transmit st q).heat = s.heat ∧ (s.transmit st q).splices = s.splices ∧
    (s.transmit st q).units = s.units ∧ (s.transmit st q).lineUnit = s.lineUnit ∧ (s.transmit st q).stopReq = s.stopReq ∧
    (s.transmit st q).watches = s.watches ∧ (s.transmit st q).slots = s.slots ∧ (s.transmit st q).settings = s.settings ∧
    (s.transmit st q).line = s.line ∧ (s.transmit st q).estop = s.estop ∧ (s.transmit st q).ports = s.ports ∧
    (s.transmit st q).pending = s.pending := by
  unfold State.transmit
  try dsimp only
  repeat' split
  all_goals simp

@[simp] theorem State.issue_frame (s : State) (st : Idx) (q : SeqNo) :
    (s.issue st q).web = s.web ∧ (s.issue st q).reader = s.reader ∧ (s.issue st q).track = s.track ∧
    (s.issue st q).nextSeq = s.nextSeq ∧ (s.issue st q).outcomes = s.outcomes ∧ (s.issue st q).calcs = s.calcs ∧
    (s.issue st q).lanes = s.lanes ∧ (s.issue st q).heat = s.heat ∧ (s.issue st q).splices = s.splices ∧
    (s.issue st q).units = s.units ∧ (s.issue st q).lineUnit = s.lineUnit ∧ (s.issue st q).stopReq = s.stopReq ∧
    (s.issue st q).watches = s.watches ∧ (s.issue st q).slots = s.slots ∧ (s.issue st q).settings = s.settings ∧
    (s.issue st q).line = s.line ∧ (s.issue st q).estop = s.estop ∧ (s.issue st q).ports = s.ports ∧
    (s.issue st q).pending = s.pending := by
  unfold State.issue
  try dsimp only
  repeat' split
  all_goals simp

@[simp] theorem State.releaseQueue_frame (s : State) (st : Idx) :
    (s.releaseQueue st).web = s.web ∧ (s.releaseQueue st).reader = s.reader ∧ (s.releaseQueue st).track = s.track ∧
    (s.releaseQueue st).nextSeq = s.nextSeq ∧ (s.releaseQueue st).outcomes = s.outcomes ∧
    (s.releaseQueue st).calcs = s.calcs ∧ (s.releaseQueue st).lanes = s.lanes ∧ (s.releaseQueue st).heat = s.heat ∧
    (s.releaseQueue st).splices = s.splices ∧ (s.releaseQueue st).units = s.units ∧
    (s.releaseQueue st).lineUnit = s.lineUnit ∧ (s.releaseQueue st).stopReq = s.stopReq ∧
    (s.releaseQueue st).watches = s.watches ∧ (s.releaseQueue st).slots = s.slots ∧
    (s.releaseQueue st).settings = s.settings ∧ (s.releaseQueue st).line = s.line ∧ (s.releaseQueue st).estop = s.estop ∧
    (s.releaseQueue st).ports = s.ports ∧ (s.releaseQueue st).pending = s.pending := by
  unfold State.releaseQueue
  try dsimp only
  repeat' split
  all_goals simp

@[simp] theorem State.closeUnreported_frame (s : State) (st : Idx) (q : SeqNo) (x : Status) :
    (s.closeUnreported st q x).web = s.web ∧ (s.closeUnreported st q x).reader = s.reader ∧
    (s.closeUnreported st q x).nextSeq = s.nextSeq ∧ (s.closeUnreported st q x).outcomes = s.outcomes ∧
    (s.closeUnreported st q x).calcs = s.calcs ∧ (s.closeUnreported st q x).heat = s.heat ∧
    (s.closeUnreported st q x).splices = s.splices ∧ (s.closeUnreported st q x).watches = s.watches ∧
    (s.closeUnreported st q x).settings = s.settings ∧ (s.closeUnreported st q x).line = s.line ∧
    (s.closeUnreported st q x).estop = s.estop ∧ (s.closeUnreported st q x).links = s.links ∧
    (s.closeUnreported st q x).pending = s.pending := by
  unfold State.closeUnreported
  try dsimp only
  repeat' split
  all_goals simp

@[simp] theorem State.closeAtReset_frame (s : State) (st : Idx) (q : SeqNo) :
    (s.closeAtReset st q).web = s.web ∧ (s.closeAtReset st q).reader = s.reader ∧
    (s.closeAtReset st q).nextSeq = s.nextSeq ∧ (s.closeAtReset st q).outcomes = s.outcomes ∧
    (s.closeAtReset st q).calcs = s.calcs ∧ (s.closeAtReset st q).heat = s.heat ∧
    (s.closeAtReset st q).splices = s.splices ∧ (s.closeAtReset st q).units = s.units ∧
    (s.closeAtReset st q).lineUnit = s.lineUnit ∧ (s.closeAtReset st q).stopReq = s.stopReq ∧
    (s.closeAtReset st q).watches = s.watches ∧ (s.closeAtReset st q).settings = s.settings ∧
    (s.closeAtReset st q).line = s.line ∧ (s.closeAtReset st q).estop = s.estop ∧
    (s.closeAtReset st q).ports = s.ports ∧ (s.closeAtReset st q).links = s.links ∧
    (s.closeAtReset st q).pending = s.pending := by
  unfold State.closeAtReset
  split <;> simp

@[simp] theorem State.pushOverdue_frame (s : State) (st : Idx) (e : OverdueEntry) :
    (s.pushOverdue st e).web = s.web ∧ (s.pushOverdue st e).reader = s.reader ∧ (s.pushOverdue st e).track = s.track ∧
    (s.pushOverdue st e).nextSeq = s.nextSeq ∧ (s.pushOverdue st e).outcomes = s.outcomes ∧
    (s.pushOverdue st e).calcs = s.calcs ∧ (s.pushOverdue st e).lanes = s.lanes ∧ (s.pushOverdue st e).heat = s.heat ∧
    (s.pushOverdue st e).splices = s.splices ∧ (s.pushOverdue st e).units = s.units ∧
    (s.pushOverdue st e).lineUnit = s.lineUnit ∧ (s.pushOverdue st e).stopReq = s.stopReq ∧
    (s.pushOverdue st e).watches = s.watches ∧ (s.pushOverdue st e).settings = s.settings ∧
    (s.pushOverdue st e).line = s.line ∧ (s.pushOverdue st e).estop = s.estop ∧ (s.pushOverdue st e).ports = s.ports ∧
    (s.pushOverdue st e).links = s.links ∧ (s.pushOverdue st e).pending = s.pending := by
  unfold State.pushOverdue
  try dsimp only
  repeat' split
  all_goals simp

@[simp] theorem State.emptyOverdue_frame (s : State) (st : Idx) :
    (s.emptyOverdue st).web = s.web ∧ (s.emptyOverdue st).reader = s.reader ∧ (s.emptyOverdue st).track = s.track ∧
    (s.emptyOverdue st).nextSeq = s.nextSeq ∧ (s.emptyOverdue st).outcomes = s.outcomes ∧
    (s.emptyOverdue st).calcs = s.calcs ∧ (s.emptyOverdue st).lanes = s.lanes ∧ (s.emptyOverdue st).heat = s.heat ∧
    (s.emptyOverdue st).splices = s.splices ∧ (s.emptyOverdue st).units = s.units ∧
    (s.emptyOverdue st).lineUnit = s.lineUnit ∧ (s.emptyOverdue st).stopReq = s.stopReq ∧
    (s.emptyOverdue st).watches = s.watches ∧ (s.emptyOverdue st).settings = s.settings ∧
    (s.emptyOverdue st).line = s.line ∧ (s.emptyOverdue st).estop = s.estop ∧ (s.emptyOverdue st).ports = s.ports ∧
    (s.emptyOverdue st).links = s.links ∧ (s.emptyOverdue st).pending = s.pending := by
  unfold State.emptyOverdue
  refine ⟨?_, ?_, ?_, ?_, ?_, ?_, ?_, ?_, ?_, ?_, ?_, ?_, ?_, ?_, ?_, ?_, ?_, ?_, ?_⟩
  · simp
    exact (foldl_same State.web _ (by intro s x; simp) _ _)
  · simp
    exact (foldl_same State.reader _ (by intro s x; simp) _ _)
  · simp
    exact (foldl_same State.track _ (by intro s x; simp) _ _)
  · simp
    exact (foldl_same State.nextSeq _ (by intro s x; simp) _ _)
  · simp
    exact (foldl_same State.outcomes _ (by intro s x; simp) _ _)
  · simp
    exact (foldl_same State.calcs _ (by intro s x; simp) _ _)
  · simp
    exact (foldl_same State.lanes _ (by intro s x; simp) _ _)
  · simp
    exact (foldl_same State.heat _ (by intro s x; simp) _ _)
  · simp
    exact (foldl_same State.splices _ (by intro s x; simp) _ _)
  · simp
    exact (foldl_same State.units _ (by intro s x; simp) _ _)
  · simp
    exact (foldl_same State.lineUnit _ (by intro s x; simp) _ _)
  · simp
    exact (foldl_same State.stopReq _ (by intro s x; simp) _ _)
  · simp
    exact (foldl_same State.watches _ (by intro s x; simp) _ _)
  · simp
    exact (foldl_same State.settings _ (by intro s x; simp) _ _)
  · simp
    exact (foldl_same State.line _ (by intro s x; simp) _ _)
  · simp
    exact (foldl_same State.estop _ (by intro s x; simp) _ _)
  · simp
    exact (foldl_same State.ports _ (by intro s x; simp) _ _)
  · simp
    exact (foldl_same State.links _ (by intro s x; simp) _ _)
  · simp
    exact (foldl_same State.pending _ (by intro s x; simp) _ _)

@[simp] theorem State.takeDeadline_frame (s : State) (st : Idx) (r : TrackRecord) :
    (s.takeDeadline st r).web = s.web ∧ (s.takeDeadline st r).reader = s.reader ∧
    (s.takeDeadline st r).nextSeq = s.nextSeq ∧ (s.takeDeadline st r).outcomes = s.outcomes ∧
    (s.takeDeadline st r).calcs = s.calcs ∧ (s.takeDeadline st r).heat = s.heat ∧
    (s.takeDeadline st r).splices = s.splices ∧ (s.takeDeadline st r).watches = s.watches ∧
    (s.takeDeadline st r).settings = s.settings ∧ (s.takeDeadline st r).line = s.line ∧
    (s.takeDeadline st r).estop = s.estop ∧ (s.takeDeadline st r).links = s.links ∧
    (s.takeDeadline st r).pending = s.pending := by
  unfold State.takeDeadline
  try dsimp only
  repeat' split
  all_goals simp

@[simp] theorem State.ackAccepted_frame (s : State) (st : Idx) (q : SeqNo) :
    (s.ackAccepted st q).web = s.web ∧ (s.ackAccepted st q).reader = s.reader ∧ (s.ackAccepted st q).nextSeq = s.nextSeq ∧
    (s.ackAccepted st q).outcomes = s.outcomes ∧ (s.ackAccepted st q).calcs = s.calcs ∧
    (s.ackAccepted st q).heat = s.heat ∧ (s.ackAccepted st q).splices = s.splices ∧
    (s.ackAccepted st q).watches = s.watches ∧ (s.ackAccepted st q).settings = s.settings ∧
    (s.ackAccepted st q).line = s.line ∧ (s.ackAccepted st q).estop = s.estop ∧ (s.ackAccepted st q).pending = s.pending := by
  unfold State.ackAccepted
  try dsimp only
  repeat' split
  all_goals simp

@[simp] theorem State.ackRefused_frame (s : State) (st : Idx) (q : SeqNo) (r : AckResult) :
    (s.ackRefused st q r).web = s.web ∧ (s.ackRefused st q r).reader = s.reader ∧
    (s.ackRefused st q r).nextSeq = s.nextSeq ∧ (s.ackRefused st q r).outcomes = s.outcomes ∧
    (s.ackRefused st q r).calcs = s.calcs ∧ (s.ackRefused st q r).heat = s.heat ∧
    (s.ackRefused st q r).splices = s.splices ∧ (s.ackRefused st q r).watches = s.watches ∧
    (s.ackRefused st q r).settings = s.settings ∧ (s.ackRefused st q r).line = s.line ∧
    (s.ackRefused st q r).estop = s.estop ∧ (s.ackRefused st q r).pending = s.pending := by
  unfold State.ackRefused
  try dsimp only
  repeat' split
  all_goals simp

@[simp] theorem State.orderAck_frame (s : State) (st : Idx) (q : SeqNo) (r : AckResult) :
    (s.orderAck st q r).web = s.web ∧ (s.orderAck st q r).reader = s.reader ∧ (s.orderAck st q r).nextSeq = s.nextSeq ∧
    (s.orderAck st q r).outcomes = s.outcomes ∧ (s.orderAck st q r).calcs = s.calcs ∧ (s.orderAck st q r).heat = s.heat ∧
    (s.orderAck st q r).splices = s.splices ∧ (s.orderAck st q r).watches = s.watches ∧
    (s.orderAck st q r).settings = s.settings ∧ (s.orderAck st q r).line = s.line ∧ (s.orderAck st q r).estop = s.estop ∧
    (s.orderAck st q r).pending = s.pending := by
  unfold State.orderAck
  try dsimp only
  repeat' split
  all_goals simp

@[simp] theorem State.ackTimeout_frame (s : State) (st : Idx) :
    (s.ackTimeout st).web = s.web ∧ (s.ackTimeout st).reader = s.reader ∧ (s.ackTimeout st).nextSeq = s.nextSeq ∧
    (s.ackTimeout st).outcomes = s.outcomes ∧ (s.ackTimeout st).heat = s.heat ∧ (s.ackTimeout st).splices = s.splices ∧
    (s.ackTimeout st).watches = s.watches ∧ (s.ackTimeout st).settings = s.settings ∧ (s.ackTimeout st).line = s.line ∧
    (s.ackTimeout st).estop = s.estop ∧ (s.ackTimeout st).pending = s.pending := by
  unfold State.ackTimeout
  try dsimp only
  repeat' split
  all_goals simp

@[simp] theorem State.completeAbort_frame (s : State) (st : Idx) :
    (s.completeAbort st).web = s.web ∧ (s.completeAbort st).reader = s.reader ∧ (s.completeAbort st).track = s.track ∧
    (s.completeAbort st).nextSeq = s.nextSeq ∧ (s.completeAbort st).outcomes = s.outcomes ∧
    (s.completeAbort st).calcs = s.calcs ∧ (s.completeAbort st).lanes = s.lanes ∧ (s.completeAbort st).heat = s.heat ∧
    (s.completeAbort st).splices = s.splices ∧ (s.completeAbort st).units = s.units ∧
    (s.completeAbort st).lineUnit = s.lineUnit ∧ (s.completeAbort st).stopReq = s.stopReq ∧
    (s.completeAbort st).watches = s.watches ∧ (s.completeAbort st).slots = s.slots ∧
    (s.completeAbort st).settings = s.settings ∧ (s.completeAbort st).line = s.line ∧
    (s.completeAbort st).estop = s.estop ∧ (s.completeAbort st).ports = s.ports ∧ (s.completeAbort st).pending = s.pending := by
  unfold State.completeAbort
  try dsimp only
  repeat' split
  all_goals simp

@[simp] theorem State.closeByAbort_frame (s : State) (st : Idx) (q : SeqNo) (x : AbortFound) (n : Four Nat) :
    (s.closeByAbort st q x n).web = s.web ∧ (s.closeByAbort st q x n).reader = s.reader ∧
    (s.closeByAbort st q x n).nextSeq = s.nextSeq ∧ (s.closeByAbort st q x n).outcomes = s.outcomes ∧
    (s.closeByAbort st q x n).calcs = s.calcs ∧ (s.closeByAbort st q x n).heat = s.heat ∧
    (s.closeByAbort st q x n).splices = s.splices ∧ (s.closeByAbort st q x n).settings = s.settings ∧
    (s.closeByAbort st q x n).line = s.line ∧ (s.closeByAbort st q x n).estop = s.estop ∧
    (s.closeByAbort st q x n).links = s.links ∧ (s.closeByAbort st q x n).pending = s.pending := by
  unfold State.closeByAbort
  try dsimp only
  repeat' split
  all_goals simp

@[simp] theorem State.abortReport_frame (s : State) (st : Idx) (q : SeqNo) (x : AbortFound) (n : Four Nat) :
    (s.abortReport st q x n).web = s.web ∧ (s.abortReport st q x n).reader = s.reader ∧
    (s.abortReport st q x n).nextSeq = s.nextSeq ∧ (s.abortReport st q x n).outcomes = s.outcomes ∧
    (s.abortReport st q x n).calcs = s.calcs ∧ (s.abortReport st q x n).heat = s.heat ∧
    (s.abortReport st q x n).splices = s.splices ∧ (s.abortReport st q x n).settings = s.settings ∧
    (s.abortReport st q x n).line = s.line ∧ (s.abortReport st q x n).estop = s.estop ∧
    (s.abortReport st q x n).pending = s.pending := by
  unfold State.abortReport
  try dsimp only
  repeat' split
  all_goals simp

@[simp] theorem State.closeAbortSet_frame (s : State) (st : Idx) :
    (s.closeAbortSet st).web = s.web ∧ (s.closeAbortSet st).reader = s.reader ∧ (s.closeAbortSet st).nextSeq = s.nextSeq ∧
    (s.closeAbortSet st).outcomes = s.outcomes ∧ (s.closeAbortSet st).calcs = s.calcs ∧
    (s.closeAbortSet st).heat = s.heat ∧ (s.closeAbortSet st).splices = s.splices ∧
    (s.closeAbortSet st).watches = s.watches ∧ (s.closeAbortSet st).settings = s.settings ∧
    (s.closeAbortSet st).line = s.line ∧ (s.closeAbortSet st).estop = s.estop ∧ (s.closeAbortSet st).links = s.links ∧
    (s.closeAbortSet st).pending = s.pending := by
  unfold State.closeAbortSet
  refine ⟨?_, ?_, ?_, ?_, ?_, ?_, ?_, ?_, ?_, ?_, ?_, ?_, ?_⟩
  · simp
    exact (foldl_same State.web _ (by intro s x; simp) _ _)
  · simp
    exact (foldl_same State.reader _ (by intro s x; simp) _ _)
  · simp
    exact (foldl_same State.nextSeq _ (by intro s x; simp) _ _)
  · simp
    exact (foldl_same State.outcomes _ (by intro s x; simp) _ _)
  · simp
    exact (foldl_same State.calcs _ (by intro s x; simp) _ _)
  · simp
    exact (foldl_same State.heat _ (by intro s x; simp) _ _)
  · simp
    exact (foldl_same State.splices _ (by intro s x; simp) _ _)
  · simp
    exact (foldl_same State.watches _ (by intro s x; simp) _ _)
  · simp
    exact (foldl_same State.settings _ (by intro s x; simp) _ _)
  · simp
    exact (foldl_same State.line _ (by intro s x; simp) _ _)
  · simp
    exact (foldl_same State.estop _ (by intro s x; simp) _ _)
  · simp
    exact (foldl_same State.links _ (by intro s x; simp) _ _)
  · simp
    exact (foldl_same State.pending _ (by intro s x; simp) _ _)

@[simp] theorem State.abortTimeout_frame (s : State) (st : Idx) :
    (s.abortTimeout st).web = s.web ∧ (s.abortTimeout st).reader = s.reader ∧ (s.abortTimeout st).nextSeq = s.nextSeq ∧
    (s.abortTimeout st).outcomes = s.outcomes ∧ (s.abortTimeout st).heat = s.heat ∧
    (s.abortTimeout st).splices = s.splices ∧ (s.abortTimeout st).watches = s.watches ∧
    (s.abortTimeout st).settings = s.settings ∧ (s.abortTimeout st).line = s.line ∧ (s.abortTimeout st).estop = s.estop ∧
    (s.abortTimeout st).pending = s.pending := by
  unfold State.abortTimeout
  try dsimp only
  repeat' split
  all_goals simp

@[simp] theorem State.withdrawQueued_frame (s : State) (st : Idx) :
    (s.withdrawQueued st).web = s.web ∧ (s.withdrawQueued st).reader = s.reader ∧
    (s.withdrawQueued st).nextSeq = s.nextSeq ∧ (s.withdrawQueued st).outcomes = s.outcomes ∧
    (s.withdrawQueued st).calcs = s.calcs ∧ (s.withdrawQueued st).heat = s.heat ∧
    (s.withdrawQueued st).splices = s.splices ∧ (s.withdrawQueued st).settings = s.settings ∧
    (s.withdrawQueued st).line = s.line ∧ (s.withdrawQueued st).estop = s.estop ∧ (s.withdrawQueued st).links = s.links ∧
    (s.withdrawQueued st).pending = s.pending := by
  unfold State.withdrawQueued
  try dsimp only
  repeat' split
  all_goals simp

@[simp] theorem State.sendAbort_frame (s : State) (st : Idx) :
    (s.sendAbort st).web = s.web ∧ (s.sendAbort st).reader = s.reader ∧ (s.sendAbort st).track = s.track ∧
    (s.sendAbort st).nextSeq = s.nextSeq ∧ (s.sendAbort st).outcomes = s.outcomes ∧ (s.sendAbort st).calcs = s.calcs ∧
    (s.sendAbort st).lanes = s.lanes ∧ (s.sendAbort st).heat = s.heat ∧ (s.sendAbort st).splices = s.splices ∧
    (s.sendAbort st).units = s.units ∧ (s.sendAbort st).lineUnit = s.lineUnit ∧ (s.sendAbort st).stopReq = s.stopReq ∧
    (s.sendAbort st).watches = s.watches ∧ (s.sendAbort st).slots = s.slots ∧ (s.sendAbort st).settings = s.settings ∧
    (s.sendAbort st).line = s.line ∧ (s.sendAbort st).estop = s.estop ∧ (s.sendAbort st).ports = s.ports ∧
    (s.sendAbort st).pending = s.pending := by
  unfold State.sendAbort
  try dsimp only
  repeat' split
  all_goals simp

@[simp] theorem State.requestAbort_frame (s : State) (st : Idx) :
    (s.requestAbort st).web = s.web ∧ (s.requestAbort st).reader = s.reader ∧ (s.requestAbort st).nextSeq = s.nextSeq ∧
    (s.requestAbort st).outcomes = s.outcomes ∧ (s.requestAbort st).calcs = s.calcs ∧ (s.requestAbort st).heat = s.heat ∧
    (s.requestAbort st).splices = s.splices ∧ (s.requestAbort st).settings = s.settings ∧
    (s.requestAbort st).line = s.line ∧ (s.requestAbort st).estop = s.estop ∧ (s.requestAbort st).pending = s.pending := by
  unfold State.requestAbort
  try dsimp only
  repeat' split
  all_goals simp

@[simp] theorem State.tripEffects_frame (s : State) (st : Idx) :
    (s.tripEffects st).web = s.web ∧ (s.tripEffects st).reader = s.reader ∧ (s.tripEffects st).nextSeq = s.nextSeq ∧
    (s.tripEffects st).outcomes = s.outcomes ∧ (s.tripEffects st).heat = s.heat ∧ (s.tripEffects st).splices = s.splices ∧
    (s.tripEffects st).settings = s.settings ∧ (s.tripEffects st).line = s.line ∧ (s.tripEffects st).estop = s.estop ∧
    (s.tripEffects st).pending = s.pending := by
  unfold State.tripEffects
  try dsimp only
  repeat' split
  all_goals simp

@[simp] theorem State.settleTrips_frame (s : State) :
    (s.settleTrips).web = s.web ∧ (s.settleTrips).reader = s.reader ∧ (s.settleTrips).nextSeq = s.nextSeq ∧
    (s.settleTrips).outcomes = s.outcomes ∧ (s.settleTrips).heat = s.heat ∧ (s.settleTrips).splices = s.splices ∧
    (s.settleTrips).settings = s.settings ∧ (s.settleTrips).line = s.line ∧ (s.settleTrips).estop = s.estop ∧
    (s.settleTrips).pending = s.pending := by
  unfold State.settleTrips
  refine ⟨?_, ?_, ?_, ?_, ?_, ?_, ?_, ?_, ?_, ?_⟩
  · exact foldl_same State.web _ (by intro s x; (try dsimp only); (repeat' split) <;> simp) _ _
  · exact foldl_same State.reader _ (by intro s x; (try dsimp only); (repeat' split) <;> simp) _ _
  · exact foldl_same State.nextSeq _ (by intro s x; (try dsimp only); (repeat' split) <;> simp) _ _
  · exact foldl_same State.outcomes _ (by intro s x; (try dsimp only); (repeat' split) <;> simp) _ _
  · exact foldl_same State.heat _ (by intro s x; (try dsimp only); (repeat' split) <;> simp) _ _
  · exact foldl_same State.splices _ (by intro s x; (try dsimp only); (repeat' split) <;> simp) _ _
  · exact foldl_same State.settings _ (by intro s x; (try dsimp only); (repeat' split) <;> simp) _ _
  · exact foldl_same State.line _ (by intro s x; (try dsimp only); (repeat' split) <;> simp) _ _
  · exact foldl_same State.estop _ (by intro s x; (try dsimp only); (repeat' split) <;> simp) _ _
  · exact foldl_same State.pending _ (by intro s x; (try dsimp only); (repeat' split) <;> simp) _ _

@[simp] theorem State.learn_frame (s : State) (st : Idx) (r : TrackRecord) (p : Bool) (o : ReportOutcome) (e : Option Int) :
    (s.learn st r p o e).web = s.web ∧ (s.learn st r p o e).reader = s.reader ∧ (s.learn st r p o e).nextSeq = s.nextSeq ∧
    (s.learn st r p o e).outcomes = s.outcomes ∧ (s.learn st r p o e).seqr = s.seqr ∧
    (s.learn st r p o e).lanes = s.lanes ∧ (s.learn st r p o e).heat = s.heat ∧ (s.learn st r p o e).splices = s.splices ∧
    (s.learn st r p o e).slots = s.slots ∧ (s.learn st r p o e).settings = s.settings ∧
    (s.learn st r p o e).line = s.line ∧ (s.learn st r p o e).estop = s.estop ∧ (s.learn st r p o e).links = s.links ∧
    (s.learn st r p o e).pending = s.pending := by
  unfold State.learn
  try dsimp only
  repeat' split
  all_goals simp

@[simp] theorem State.reportAsAck_frame (s : State) (st : Idx) (q : SeqNo) :
    (s.reportAsAck st q).web = s.web ∧ (s.reportAsAck st q).reader = s.reader ∧ (s.reportAsAck st q).track = s.track ∧
    (s.reportAsAck st q).nextSeq = s.nextSeq ∧ (s.reportAsAck st q).outcomes = s.outcomes ∧
    (s.reportAsAck st q).calcs = s.calcs ∧ (s.reportAsAck st q).lanes = s.lanes ∧ (s.reportAsAck st q).heat = s.heat ∧
    (s.reportAsAck st q).splices = s.splices ∧ (s.reportAsAck st q).units = s.units ∧
    (s.reportAsAck st q).lineUnit = s.lineUnit ∧ (s.reportAsAck st q).stopReq = s.stopReq ∧
    (s.reportAsAck st q).watches = s.watches ∧ (s.reportAsAck st q).slots = s.slots ∧
    (s.reportAsAck st q).settings = s.settings ∧ (s.reportAsAck st q).line = s.line ∧
    (s.reportAsAck st q).estop = s.estop ∧ (s.reportAsAck st q).ports = s.ports ∧ (s.reportAsAck st q).pending = s.pending := by
  unfold State.reportAsAck
  try dsimp only
  repeat' split
  all_goals simp

@[simp] theorem State.reportSettlesAbort_frame (s : State) (st : Idx) (q : SeqNo) (o : ReportOutcome) :
    (s.reportSettlesAbort st q o).web = s.web ∧ (s.reportSettlesAbort st q o).reader = s.reader ∧
    (s.reportSettlesAbort st q o).track = s.track ∧ (s.reportSettlesAbort st q o).nextSeq = s.nextSeq ∧
    (s.reportSettlesAbort st q o).outcomes = s.outcomes ∧ (s.reportSettlesAbort st q o).calcs = s.calcs ∧
    (s.reportSettlesAbort st q o).lanes = s.lanes ∧ (s.reportSettlesAbort st q o).heat = s.heat ∧
    (s.reportSettlesAbort st q o).splices = s.splices ∧ (s.reportSettlesAbort st q o).units = s.units ∧
    (s.reportSettlesAbort st q o).lineUnit = s.lineUnit ∧ (s.reportSettlesAbort st q o).stopReq = s.stopReq ∧
    (s.reportSettlesAbort st q o).watches = s.watches ∧ (s.reportSettlesAbort st q o).slots = s.slots ∧
    (s.reportSettlesAbort st q o).settings = s.settings ∧ (s.reportSettlesAbort st q o).line = s.line ∧
    (s.reportSettlesAbort st q o).estop = s.estop ∧ (s.reportSettlesAbort st q o).ports = s.ports ∧
    (s.reportSettlesAbort st q o).pending = s.pending := by
  unfold State.reportSettlesAbort
  try dsimp only
  repeat' split
  all_goals simp

@[simp] theorem State.reportInTime_frame (s : State) (st : Idx) (fr : StrikeReportFrame) (r : TrackRecord) :
    (s.reportInTime st fr r).web = s.web ∧ (s.reportInTime st fr r).reader = s.reader ∧
    (s.reportInTime st fr r).nextSeq = s.nextSeq ∧ (s.reportInTime st fr r).outcomes = s.outcomes ∧
    (s.reportInTime st fr r).heat = s.heat ∧ (s.reportInTime st fr r).splices = s.splices ∧
    (s.reportInTime st fr r).settings = s.settings ∧ (s.reportInTime st fr r).line = s.line ∧
    (s.reportInTime st fr r).estop = s.estop ∧ (s.reportInTime st fr r).pending = s.pending := by
  unfold State.reportInTime
  try dsimp only
  repeat' split
  all_goals simp

@[simp] theorem State.reportLate_frame (s : State) (st : Idx) (fr : StrikeReportFrame) (x : OverdueEntry) :
    (s.reportLate st fr x).web = s.web ∧ (s.reportLate st fr x).reader = s.reader ∧
    (s.reportLate st fr x).nextSeq = s.nextSeq ∧ (s.reportLate st fr x).outcomes = s.outcomes ∧
    (s.reportLate st fr x).calcs = s.calcs ∧ (s.reportLate st fr x).heat = s.heat ∧
    (s.reportLate st fr x).splices = s.splices ∧ (s.reportLate st fr x).settings = s.settings ∧
    (s.reportLate st fr x).line = s.line ∧ (s.reportLate st fr x).estop = s.estop ∧
    (s.reportLate st fr x).links = s.links ∧ (s.reportLate st fr x).pending = s.pending := by
  unfold State.reportLate
  try dsimp only
  repeat' split
  all_goals simp

@[simp] theorem State.strikeReport_frame (s : State) (st : Idx) (fr : StrikeReportFrame) :
    (s.strikeReport st fr).web = s.web ∧ (s.strikeReport st fr).reader = s.reader ∧
    (s.strikeReport st fr).nextSeq = s.nextSeq ∧ (s.strikeReport st fr).outcomes = s.outcomes ∧
    (s.strikeReport st fr).heat = s.heat ∧ (s.strikeReport st fr).splices = s.splices ∧
    (s.strikeReport st fr).settings = s.settings ∧ (s.strikeReport st fr).line = s.line ∧
    (s.strikeReport st fr).estop = s.estop ∧ (s.strikeReport st fr).pending = s.pending := by
  unfold State.strikeReport
  try dsimp only
  repeat' split
  all_goals simp

@[simp] theorem State.faultInFlight_frame (s : State) (st : Idx) :
    (s.faultInFlight st).web = s.web ∧ (s.faultInFlight st).reader = s.reader ∧ (s.faultInFlight st).nextSeq = s.nextSeq ∧
    (s.faultInFlight st).outcomes = s.outcomes ∧ (s.faultInFlight st).calcs = s.calcs ∧
    (s.faultInFlight st).heat = s.heat ∧ (s.faultInFlight st).splices = s.splices ∧
    (s.faultInFlight st).watches = s.watches ∧ (s.faultInFlight st).settings = s.settings ∧
    (s.faultInFlight st).line = s.line ∧ (s.faultInFlight st).estop = s.estop ∧ (s.faultInFlight st).links = s.links ∧
    (s.faultInFlight st).pending = s.pending := by
  unfold State.faultInFlight
  refine ⟨?_, ?_, ?_, ?_, ?_, ?_, ?_, ?_, ?_, ?_, ?_, ?_, ?_⟩
  · exact foldl_same State.web _ (by intro s x; (try dsimp only); (repeat' split) <;> simp) _ _
  · exact foldl_same State.reader _ (by intro s x; (try dsimp only); (repeat' split) <;> simp) _ _
  · exact foldl_same State.nextSeq _ (by intro s x; (try dsimp only); (repeat' split) <;> simp) _ _
  · exact foldl_same State.outcomes _ (by intro s x; (try dsimp only); (repeat' split) <;> simp) _ _
  · exact foldl_same State.calcs _ (by intro s x; (try dsimp only); (repeat' split) <;> simp) _ _
  · exact foldl_same State.heat _ (by intro s x; (try dsimp only); (repeat' split) <;> simp) _ _
  · exact foldl_same State.splices _ (by intro s x; (try dsimp only); (repeat' split) <;> simp) _ _
  · exact foldl_same State.watches _ (by intro s x; (try dsimp only); (repeat' split) <;> simp) _ _
  · exact foldl_same State.settings _ (by intro s x; (try dsimp only); (repeat' split) <;> simp) _ _
  · exact foldl_same State.line _ (by intro s x; (try dsimp only); (repeat' split) <;> simp) _ _
  · exact foldl_same State.estop _ (by intro s x; (try dsimp only); (repeat' split) <;> simp) _ _
  · exact foldl_same State.links _ (by intro s x; (try dsimp only); (repeat' split) <;> simp) _ _
  · exact foldl_same State.pending _ (by intro s x; (try dsimp only); (repeat' split) <;> simp) _ _

@[simp] theorem State.loseStationLink_frame (s : State) (st : Idx) (b : Bool) :
    (s.loseStationLink st b).web = s.web ∧ (s.loseStationLink st b).reader = s.reader ∧
    (s.loseStationLink st b).nextSeq = s.nextSeq ∧ (s.loseStationLink st b).outcomes = s.outcomes ∧
    (s.loseStationLink st b).heat = s.heat ∧ (s.loseStationLink st b).splices = s.splices ∧
    (s.loseStationLink st b).watches = s.watches ∧ (s.loseStationLink st b).settings = s.settings ∧
    (s.loseStationLink st b).line = s.line ∧ (s.loseStationLink st b).estop = s.estop ∧
    (s.loseStationLink st b).pending = s.pending := by
  unfold State.loseStationLink
  try dsimp only
  repeat' split
  all_goals simp

@[simp] theorem State.stationLinkLoss_frame (s : State) (st : Idx) :
    (s.stationLinkLoss st).web = s.web ∧ (s.stationLinkLoss st).reader = s.reader ∧
    (s.stationLinkLoss st).nextSeq = s.nextSeq ∧ (s.stationLinkLoss st).outcomes = s.outcomes ∧
    (s.stationLinkLoss st).heat = s.heat ∧ (s.stationLinkLoss st).splices = s.splices ∧
    (s.stationLinkLoss st).watches = s.watches ∧ (s.stationLinkLoss st).settings = s.settings ∧
    (s.stationLinkLoss st).line = s.line ∧ (s.stationLinkLoss st).estop = s.estop ∧
    (s.stationLinkLoss st).pending = s.pending :=
  s.loseStationLink_frame st _

@[simp] theorem State.readOpen_frame (s : State) (st z : Idx) :
    (s.readOpen st z).web = s.web ∧ (s.readOpen st z).reader = s.reader ∧ (s.readOpen st z).track = s.track ∧
    (s.readOpen st z).nextSeq = s.nextSeq ∧ (s.readOpen st z).outcomes = s.outcomes ∧ (s.readOpen st z).calcs = s.calcs ∧
    (s.readOpen st z).seqr = s.seqr ∧ (s.readOpen st z).lanes = s.lanes ∧ (s.readOpen st z).splices = s.splices ∧
    (s.readOpen st z).watches = s.watches ∧ (s.readOpen st z).slots = s.slots ∧ (s.readOpen st z).settings = s.settings ∧
    (s.readOpen st z).line = s.line ∧ (s.readOpen st z).estop = s.estop ∧ (s.readOpen st z).links = s.links ∧
    (s.readOpen st z).pending = s.pending := by
  unfold State.readOpen
  try dsimp only
  repeat' split
  all_goals simp

@[simp] theorem State.judgeHeat_frame (s : State) (st z : Idx) (p : ZoneParams) (t : Nat) :
    (s.judgeHeat st z p t).web = s.web ∧ (s.judgeHeat st z p t).reader = s.reader ∧
    (s.judgeHeat st z p t).track = s.track ∧ (s.judgeHeat st z p t).nextSeq = s.nextSeq ∧
    (s.judgeHeat st z p t).outcomes = s.outcomes ∧ (s.judgeHeat st z p t).calcs = s.calcs ∧
    (s.judgeHeat st z p t).seqr = s.seqr ∧ (s.judgeHeat st z p t).lanes = s.lanes ∧
    (s.judgeHeat st z p t).splices = s.splices ∧ (s.judgeHeat st z p t).units = s.units ∧
    (s.judgeHeat st z p t).lineUnit = s.lineUnit ∧ (s.judgeHeat st z p t).stopReq = s.stopReq ∧
    (s.judgeHeat st z p t).watches = s.watches ∧ (s.judgeHeat st z p t).slots = s.slots ∧
    (s.judgeHeat st z p t).settings = s.settings ∧ (s.judgeHeat st z p t).line = s.line ∧
    (s.judgeHeat st z p t).estop = s.estop ∧ (s.judgeHeat st z p t).ports = s.ports ∧
    (s.judgeHeat st z p t).links = s.links ∧ (s.judgeHeat st z p t).pending = s.pending := by
  unfold State.judgeHeat
  try dsimp only
  repeat' split
  all_goals simp

@[simp] theorem State.readTemp_frame (s : State) (st z : Idx) (p : ZoneParams) (t : Nat) :
    (s.readTemp st z p t).web = s.web ∧ (s.readTemp st z p t).reader = s.reader ∧ (s.readTemp st z p t).track = s.track ∧
    (s.readTemp st z p t).nextSeq = s.nextSeq ∧ (s.readTemp st z p t).outcomes = s.outcomes ∧
    (s.readTemp st z p t).calcs = s.calcs ∧ (s.readTemp st z p t).seqr = s.seqr ∧ (s.readTemp st z p t).lanes = s.lanes ∧
    (s.readTemp st z p t).splices = s.splices ∧ (s.readTemp st z p t).watches = s.watches ∧
    (s.readTemp st z p t).slots = s.slots ∧ (s.readTemp st z p t).settings = s.settings ∧
    (s.readTemp st z p t).line = s.line ∧ (s.readTemp st z p t).estop = s.estop ∧ (s.readTemp st z p t).links = s.links ∧
    (s.readTemp st z p t).pending = s.pending := by
  unfold State.readTemp
  try dsimp only
  repeat' split
  all_goals simp

@[simp] theorem State.takeReading_frame (s : State) (st z : Idx) (v : BitVec 16) :
    (s.takeReading st z v).web = s.web ∧ (s.takeReading st z v).reader = s.reader ∧
    (s.takeReading st z v).track = s.track ∧ (s.takeReading st z v).nextSeq = s.nextSeq ∧
    (s.takeReading st z v).outcomes = s.outcomes ∧ (s.takeReading st z v).calcs = s.calcs ∧
    (s.takeReading st z v).seqr = s.seqr ∧ (s.takeReading st z v).lanes = s.lanes ∧
    (s.takeReading st z v).splices = s.splices ∧ (s.takeReading st z v).watches = s.watches ∧
    (s.takeReading st z v).slots = s.slots ∧ (s.takeReading st z v).settings = s.settings ∧
    (s.takeReading st z v).line = s.line ∧ (s.takeReading st z v).estop = s.estop ∧
    (s.takeReading st z v).links = s.links ∧ (s.takeReading st z v).pending = s.pending := by
  unfold State.takeReading
  try dsimp only
  repeat' split
  all_goals simp

@[simp] theorem State.handOnSet_frame (s : State) (st : Idx) :
    (s.handOnSet st).web = s.web ∧ (s.handOnSet st).reader = s.reader ∧ (s.handOnSet st).track = s.track ∧
    (s.handOnSet st).nextSeq = s.nextSeq ∧ (s.handOnSet st).outcomes = s.outcomes ∧ (s.handOnSet st).calcs = s.calcs ∧
    (s.handOnSet st).seqr = s.seqr ∧ (s.handOnSet st).lanes = s.lanes ∧ (s.handOnSet st).splices = s.splices ∧
    (s.handOnSet st).units = s.units ∧ (s.handOnSet st).lineUnit = s.lineUnit ∧ (s.handOnSet st).stopReq = s.stopReq ∧
    (s.handOnSet st).watches = s.watches ∧ (s.handOnSet st).slots = s.slots ∧ (s.handOnSet st).settings = s.settings ∧
    (s.handOnSet st).line = s.line ∧ (s.handOnSet st).estop = s.estop ∧ (s.handOnSet st).ports = s.ports ∧
    (s.handOnSet st).pending = s.pending := by
  unfold State.handOnSet
  try dsimp only
  repeat' split
  all_goals simp

theorem State.grantStep_frame {s t : State} (h : s.grantStep = some t) :
    (t).web = s.web ∧ (t).reader = s.reader ∧ (t).track = s.track ∧ (t).nextSeq = s.nextSeq ∧ (t).outcomes = s.outcomes ∧
    (t).calcs = s.calcs ∧ (t).seqr = s.seqr ∧ (t).lanes = s.lanes ∧ (t).splices = s.splices ∧ (t).units = s.units ∧
    (t).lineUnit = s.lineUnit ∧ (t).stopReq = s.stopReq ∧ (t).watches = s.watches ∧ (t).slots = s.slots ∧
    (t).settings = s.settings ∧ (t).line = s.line ∧ (t).estop = s.estop ∧ (t).ports = s.ports ∧ (t).links = s.links ∧
    (t).pending = s.pending := by
  unfold State.grantStep at h
  repeat' split at h
  all_goals first | (simp only [Option.some.injEq] at h; subst h; simp) | simp at h

@[simp] theorem grantLoop_frame (n : Nat) (s : State) :
    (grantLoop n s).web = s.web ∧ (grantLoop n s).reader = s.reader ∧ (grantLoop n s).track = s.track ∧
    (grantLoop n s).nextSeq = s.nextSeq ∧ (grantLoop n s).outcomes = s.outcomes ∧ (grantLoop n s).calcs = s.calcs ∧
    (grantLoop n s).seqr = s.seqr ∧ (grantLoop n s).lanes = s.lanes ∧ (grantLoop n s).splices = s.splices ∧
    (grantLoop n s).units = s.units ∧ (grantLoop n s).lineUnit = s.lineUnit ∧ (grantLoop n s).stopReq = s.stopReq ∧
    (grantLoop n s).watches = s.watches ∧ (grantLoop n s).slots = s.slots ∧ (grantLoop n s).settings = s.settings ∧
    (grantLoop n s).line = s.line ∧ (grantLoop n s).estop = s.estop ∧ (grantLoop n s).ports = s.ports ∧
    (grantLoop n s).links = s.links ∧ (grantLoop n s).pending = s.pending := by
  induction n generalizing s with
  | zero => simp [grantLoop]
  | succ n ih =>
    unfold grantLoop
    split
    · rename_i t ht
      have := State.grantStep_frame ht
      simp [ih, this]
    · simp

@[simp] theorem State.grantPass_frame (s : State) :
    (s.grantPass).web = s.web ∧ (s.grantPass).reader = s.reader ∧ (s.grantPass).track = s.track ∧
    (s.grantPass).nextSeq = s.nextSeq ∧ (s.grantPass).outcomes = s.outcomes ∧ (s.grantPass).calcs = s.calcs ∧
    (s.grantPass).seqr = s.seqr ∧ (s.grantPass).lanes = s.lanes ∧ (s.grantPass).splices = s.splices ∧
    (s.grantPass).units = s.units ∧ (s.grantPass).lineUnit = s.lineUnit ∧ (s.grantPass).stopReq = s.stopReq ∧
    (s.grantPass).watches = s.watches ∧ (s.grantPass).slots = s.slots ∧ (s.grantPass).settings = s.settings ∧
    (s.grantPass).line = s.line ∧ (s.grantPass).estop = s.estop ∧ (s.grantPass).ports = s.ports ∧
    (s.grantPass).pending = s.pending := by
  unfold State.grantPass
  refine ⟨?_, ?_, ?_, ?_, ?_, ?_, ?_, ?_, ?_, ?_, ?_, ?_, ?_, ?_, ?_, ?_, ?_, ?_, ?_⟩
  · exact (foldl_same State.web _ (by intro s x; simp) _ _).trans (by simp)
  · exact (foldl_same State.reader _ (by intro s x; simp) _ _).trans (by simp)
  · exact (foldl_same State.track _ (by intro s x; simp) _ _).trans (by simp)
  · exact (foldl_same State.nextSeq _ (by intro s x; simp) _ _).trans (by simp)
  · exact (foldl_same State.outcomes _ (by intro s x; simp) _ _).trans (by simp)
  · exact (foldl_same State.calcs _ (by intro s x; simp) _ _).trans (by simp)
  · exact (foldl_same State.seqr _ (by intro s x; simp) _ _).trans (by simp)
  · exact (foldl_same State.lanes _ (by intro s x; simp) _ _).trans (by simp)
  · exact (foldl_same State.splices _ (by intro s x; simp) _ _).trans (by simp)
  · exact (foldl_same State.units _ (by intro s x; simp) _ _).trans (by simp)
  · exact (foldl_same State.lineUnit _ (by intro s x; simp) _ _).trans (by simp)
  · exact (foldl_same State.stopReq _ (by intro s x; simp) _ _).trans (by simp)
  · exact (foldl_same State.watches _ (by intro s x; simp) _ _).trans (by simp)
  · exact (foldl_same State.slots _ (by intro s x; simp) _ _).trans (by simp)
  · exact (foldl_same State.settings _ (by intro s x; simp) _ _).trans (by simp)
  · exact (foldl_same State.line _ (by intro s x; simp) _ _).trans (by simp)
  · exact (foldl_same State.estop _ (by intro s x; simp) _ _).trans (by simp)
  · exact (foldl_same State.ports _ (by intro s x; simp) _ _).trans (by simp)
  · exact (foldl_same State.pending _ (by intro s x; simp) _ _).trans (by simp)

@[simp] theorem State.heatReading_frame (s : State) (st : Idx) (v : Four (BitVec 16)) :
    (s.heatReading st v).web = s.web ∧ (s.heatReading st v).reader = s.reader ∧ (s.heatReading st v).track = s.track ∧
    (s.heatReading st v).nextSeq = s.nextSeq ∧ (s.heatReading st v).outcomes = s.outcomes ∧
    (s.heatReading st v).calcs = s.calcs ∧ (s.heatReading st v).seqr = s.seqr ∧ (s.heatReading st v).lanes = s.lanes ∧
    (s.heatReading st v).splices = s.splices ∧ (s.heatReading st v).watches = s.watches ∧
    (s.heatReading st v).slots = s.slots ∧ (s.heatReading st v).settings = s.settings ∧
    (s.heatReading st v).line = s.line ∧ (s.heatReading st v).estop = s.estop ∧ (s.heatReading st v).pending = s.pending := by
  unfold State.heatReading
  refine ⟨?_, ?_, ?_, ?_, ?_, ?_, ?_, ?_, ?_, ?_, ?_, ?_, ?_, ?_, ?_⟩
  · simp
    exact (foldl_same State.web _ (by intro s x; simp) _ _)
  · simp
    exact (foldl_same State.reader _ (by intro s x; simp) _ _)
  · simp
    exact (foldl_same State.track _ (by intro s x; simp) _ _)
  · simp
    exact (foldl_same State.nextSeq _ (by intro s x; simp) _ _)
  · simp
    exact (foldl_same State.outcomes _ (by intro s x; simp) _ _)
  · simp
    exact (foldl_same State.calcs _ (by intro s x; simp) _ _)
  · simp
    exact (foldl_same State.seqr _ (by intro s x; simp) _ _)
  · simp
    exact (foldl_same State.lanes _ (by intro s x; simp) _ _)
  · simp
    exact (foldl_same State.splices _ (by intro s x; simp) _ _)
  · simp
    exact (foldl_same State.watches _ (by intro s x; simp) _ _)
  · simp
    exact (foldl_same State.slots _ (by intro s x; simp) _ _)
  · simp
    exact (foldl_same State.settings _ (by intro s x; simp) _ _)
  · simp
    exact (foldl_same State.line _ (by intro s x; simp) _ _)
  · simp
    exact (foldl_same State.estop _ (by intro s x; simp) _ _)
  · simp
    exact (foldl_same State.pending _ (by intro s x; simp) _ _)

@[simp] theorem State.staleHeat_frame (s : State) (st : Idx) :
    (s.staleHeat st).web = s.web ∧ (s.staleHeat st).reader = s.reader ∧ (s.staleHeat st).track = s.track ∧
    (s.staleHeat st).nextSeq = s.nextSeq ∧ (s.staleHeat st).outcomes = s.outcomes ∧ (s.staleHeat st).calcs = s.calcs ∧
    (s.staleHeat st).seqr = s.seqr ∧ (s.staleHeat st).lanes = s.lanes ∧ (s.staleHeat st).splices = s.splices ∧
    (s.staleHeat st).watches = s.watches ∧ (s.staleHeat st).slots = s.slots ∧ (s.staleHeat st).settings = s.settings ∧
    (s.staleHeat st).line = s.line ∧ (s.staleHeat st).estop = s.estop ∧ (s.staleHeat st).links = s.links ∧
    (s.staleHeat st).pending = s.pending := by
  unfold State.staleHeat
  try dsimp only
  repeat' split
  all_goals simp

@[simp] theorem State.maxHold_frame (s : State) (st z : Idx) :
    (s.maxHold st z).web = s.web ∧ (s.maxHold st z).reader = s.reader ∧ (s.maxHold st z).track = s.track ∧
    (s.maxHold st z).nextSeq = s.nextSeq ∧ (s.maxHold st z).outcomes = s.outcomes ∧ (s.maxHold st z).calcs = s.calcs ∧
    (s.maxHold st z).seqr = s.seqr ∧ (s.maxHold st z).lanes = s.lanes ∧ (s.maxHold st z).splices = s.splices ∧
    (s.maxHold st z).watches = s.watches ∧ (s.maxHold st z).slots = s.slots ∧ (s.maxHold st z).settings = s.settings ∧
    (s.maxHold st z).line = s.line ∧ (s.maxHold st z).estop = s.estop ∧ (s.maxHold st z).pending = s.pending := by
  unfold State.maxHold
  try dsimp only
  repeat' split
  all_goals simp

@[simp] theorem State.minHold_frame (s : State) (st z : Idx) :
    (s.minHold st z).web = s.web ∧ (s.minHold st z).reader = s.reader ∧ (s.minHold st z).track = s.track ∧
    (s.minHold st z).nextSeq = s.nextSeq ∧ (s.minHold st z).outcomes = s.outcomes ∧ (s.minHold st z).calcs = s.calcs ∧
    (s.minHold st z).seqr = s.seqr ∧ (s.minHold st z).lanes = s.lanes ∧ (s.minHold st z).splices = s.splices ∧
    (s.minHold st z).units = s.units ∧ (s.minHold st z).lineUnit = s.lineUnit ∧ (s.minHold st z).stopReq = s.stopReq ∧
    (s.minHold st z).watches = s.watches ∧ (s.minHold st z).slots = s.slots ∧ (s.minHold st z).settings = s.settings ∧
    (s.minHold st z).line = s.line ∧ (s.minHold st z).estop = s.estop ∧ (s.minHold st z).ports = s.ports ∧
    (s.minHold st z).pending = s.pending := by
  unfold State.minHold
  try dsimp only
  repeat' split
  all_goals simp

@[simp] theorem State.heatSwitch_frame (s : State) :
    (s.heatSwitch).web = s.web ∧ (s.heatSwitch).reader = s.reader ∧ (s.heatSwitch).track = s.track ∧
    (s.heatSwitch).nextSeq = s.nextSeq ∧ (s.heatSwitch).outcomes = s.outcomes ∧ (s.heatSwitch).calcs = s.calcs ∧
    (s.heatSwitch).seqr = s.seqr ∧ (s.heatSwitch).lanes = s.lanes ∧ (s.heatSwitch).splices = s.splices ∧
    (s.heatSwitch).units = s.units ∧ (s.heatSwitch).lineUnit = s.lineUnit ∧ (s.heatSwitch).stopReq = s.stopReq ∧
    (s.heatSwitch).watches = s.watches ∧ (s.heatSwitch).slots = s.slots ∧ (s.heatSwitch).settings = s.settings ∧
    (s.heatSwitch).line = s.line ∧ (s.heatSwitch).estop = s.estop ∧ (s.heatSwitch).ports = s.ports ∧
    (s.heatSwitch).pending = s.pending := by
  unfold State.heatSwitch
  try dsimp only
  repeat' split
  all_goals simp

@[simp] theorem State.heatSettings_frame (s : State) :
    (s.heatSettings).web = s.web ∧ (s.heatSettings).reader = s.reader ∧ (s.heatSettings).track = s.track ∧
    (s.heatSettings).nextSeq = s.nextSeq ∧ (s.heatSettings).outcomes = s.outcomes ∧ (s.heatSettings).calcs = s.calcs ∧
    (s.heatSettings).seqr = s.seqr ∧ (s.heatSettings).lanes = s.lanes ∧ (s.heatSettings).splices = s.splices ∧
    (s.heatSettings).units = s.units ∧ (s.heatSettings).lineUnit = s.lineUnit ∧ (s.heatSettings).stopReq = s.stopReq ∧
    (s.heatSettings).watches = s.watches ∧ (s.heatSettings).slots = s.slots ∧ (s.heatSettings).settings = s.settings ∧
    (s.heatSettings).line = s.line ∧ (s.heatSettings).estop = s.estop ∧ (s.heatSettings).ports = s.ports ∧
    (s.heatSettings).pending = s.pending := by
  unfold State.heatSettings
  refine ⟨?_, ?_, ?_, ?_, ?_, ?_, ?_, ?_, ?_, ?_, ?_, ?_, ?_, ?_, ?_, ?_, ?_, ?_, ?_⟩
  · simp
    exact (foldl_same State.web _ (by intro s x; simp) _ _)
  · simp
    exact (foldl_same State.reader _ (by intro s x; simp) _ _)
  · simp
    exact (foldl_same State.track _ (by intro s x; simp) _ _)
  · simp
    exact (foldl_same State.nextSeq _ (by intro s x; simp) _ _)
  · simp
    exact (foldl_same State.outcomes _ (by intro s x; simp) _ _)
  · simp
    exact (foldl_same State.calcs _ (by intro s x; simp) _ _)
  · simp
    exact (foldl_same State.seqr _ (by intro s x; simp) _ _)
  · simp
    exact (foldl_same State.lanes _ (by intro s x; simp) _ _)
  · simp
    exact (foldl_same State.splices _ (by intro s x; simp) _ _)
  · simp
    exact (foldl_same State.units _ (by intro s x; simp) _ _)
  · simp
    exact (foldl_same State.lineUnit _ (by intro s x; simp) _ _)
  · simp
    exact (foldl_same State.stopReq _ (by intro s x; simp) _ _)
  · simp
    exact (foldl_same State.watches _ (by intro s x; simp) _ _)
  · simp
    exact (foldl_same State.slots _ (by intro s x; simp) _ _)
  · simp
    exact (foldl_same State.settings _ (by intro s x; simp) _ _)
  · simp
    exact (foldl_same State.line _ (by intro s x; simp) _ _)
  · simp
    exact (foldl_same State.estop _ (by intro s x; simp) _ _)
  · simp
    exact (foldl_same State.ports _ (by intro s x; simp) _ _)
  · simp
    exact (foldl_same State.pending _ (by intro s x; simp) _ _)

@[simp] theorem State.laneFeed_frame (s : State) (st : Idx) (r : TrackRecord) (c : Idx) :
    ((s.laneFeed st r c).1).web = s.web ∧ ((s.laneFeed st r c).1).reader = s.reader ∧
    ((s.laneFeed st r c).1).track = s.track ∧ ((s.laneFeed st r c).1).nextSeq = s.nextSeq ∧
    ((s.laneFeed st r c).1).outcomes = s.outcomes ∧ ((s.laneFeed st r c).1).calcs = s.calcs ∧
    ((s.laneFeed st r c).1).seqr = s.seqr ∧ ((s.laneFeed st r c).1).heat = s.heat ∧
    ((s.laneFeed st r c).1).splices = s.splices ∧ ((s.laneFeed st r c).1).watches = s.watches ∧
    ((s.laneFeed st r c).1).slots = s.slots ∧ ((s.laneFeed st r c).1).settings = s.settings ∧
    ((s.laneFeed st r c).1).line = s.line ∧ ((s.laneFeed st r c).1).estop = s.estop ∧
    ((s.laneFeed st r c).1).links = s.links ∧ ((s.laneFeed st r c).1).pending = s.pending := by
  unfold State.laneFeed
  split
  · dsimp only
    repeat' split
    all_goals simp
  · simp

@[simp] theorem State.laneFeeds_frame (s : State) (st : Idx) (r : TrackRecord) :
    ((s.laneFeeds st r).1).web = s.web ∧ ((s.laneFeeds st r).1).reader = s.reader ∧
    ((s.laneFeeds st r).1).track = s.track ∧ ((s.laneFeeds st r).1).nextSeq = s.nextSeq ∧
    ((s.laneFeeds st r).1).outcomes = s.outcomes ∧ ((s.laneFeeds st r).1).calcs = s.calcs ∧
    ((s.laneFeeds st r).1).seqr = s.seqr ∧ ((s.laneFeeds st r).1).heat = s.heat ∧
    ((s.laneFeeds st r).1).splices = s.splices ∧ ((s.laneFeeds st r).1).watches = s.watches ∧
    ((s.laneFeeds st r).1).slots = s.slots ∧ ((s.laneFeeds st r).1).settings = s.settings ∧
    ((s.laneFeeds st r).1).line = s.line ∧ ((s.laneFeeds st r).1).estop = s.estop ∧
    ((s.laneFeeds st r).1).links = s.links ∧ ((s.laneFeeds st r).1).pending = s.pending := by
  unfold State.laneFeeds
  simp

@[simp] theorem State.feedEffect_frame (s : State) (st : Idx) (j : Slot) (q : SeqNo) (c : Idx) :
    (s.feedEffect st j q c).web = s.web ∧ (s.feedEffect st j q c).reader = s.reader ∧
    (s.feedEffect st j q c).nextSeq = s.nextSeq ∧ (s.feedEffect st j q c).outcomes = s.outcomes ∧
    (s.feedEffect st j q c).calcs = s.calcs ∧ (s.feedEffect st j q c).seqr = s.seqr ∧
    (s.feedEffect st j q c).lanes = s.lanes ∧ (s.feedEffect st j q c).heat = s.heat ∧
    (s.feedEffect st j q c).splices = s.splices ∧ (s.feedEffect st j q c).units = s.units ∧
    (s.feedEffect st j q c).lineUnit = s.lineUnit ∧ (s.feedEffect st j q c).stopReq = s.stopReq ∧
    (s.feedEffect st j q c).watches = s.watches ∧ (s.feedEffect st j q c).settings = s.settings ∧
    (s.feedEffect st j q c).line = s.line ∧ (s.feedEffect st j q c).estop = s.estop ∧
    (s.feedEffect st j q c).links = s.links ∧ (s.feedEffect st j q c).pending = s.pending := by
  unfold State.feedEffect
  try dsimp only
  repeat' split
  all_goals simp

@[simp] theorem State.orderFoil_frame (s : State) (st : Idx) (j : Slot) (q : SeqNo) (n : Four Nat) :
    (s.orderFoil st j q n).web = s.web ∧ (s.orderFoil st j q n).reader = s.reader ∧
    (s.orderFoil st j q n).nextSeq = s.nextSeq ∧ (s.orderFoil st j q n).outcomes = s.outcomes ∧
    (s.orderFoil st j q n).calcs = s.calcs ∧ (s.orderFoil st j q n).seqr = s.seqr ∧ (s.orderFoil st j q n).heat = s.heat ∧
    (s.orderFoil st j q n).splices = s.splices ∧ (s.orderFoil st j q n).units = s.units ∧
    (s.orderFoil st j q n).lineUnit = s.lineUnit ∧ (s.orderFoil st j q n).stopReq = s.stopReq ∧
    (s.orderFoil st j q n).watches = s.watches ∧ (s.orderFoil st j q n).settings = s.settings ∧
    (s.orderFoil st j q n).line = s.line ∧ (s.orderFoil st j q n).estop = s.estop ∧
    (s.orderFoil st j q n).links = s.links ∧ (s.orderFoil st j q n).pending = s.pending := by
  unfold State.orderFoil
  refine ⟨?_, ?_, ?_, ?_, ?_, ?_, ?_, ?_, ?_, ?_, ?_, ?_, ?_, ?_, ?_, ?_, ?_⟩
  · exact (foldl_same State.web _ (by intro s x; (repeat' split) <;> simp) _ _).trans (by simp)
  · exact (foldl_same State.reader _ (by intro s x; (repeat' split) <;> simp) _ _).trans (by simp)
  · exact (foldl_same State.nextSeq _ (by intro s x; (repeat' split) <;> simp) _ _).trans (by simp)
  · exact (foldl_same State.outcomes _ (by intro s x; (repeat' split) <;> simp) _ _).trans (by simp)
  · exact (foldl_same State.calcs _ (by intro s x; (repeat' split) <;> simp) _ _).trans (by simp)
  · exact (foldl_same State.seqr _ (by intro s x; (repeat' split) <;> simp) _ _).trans (by simp)
  · exact (foldl_same State.heat _ (by intro s x; (repeat' split) <;> simp) _ _).trans (by simp)
  · exact (foldl_same State.splices _ (by intro s x; (repeat' split) <;> simp) _ _).trans (by simp)
  · exact (foldl_same State.units _ (by intro s x; (repeat' split) <;> simp) _ _).trans (by simp)
  · exact (foldl_same State.lineUnit _ (by intro s x; (repeat' split) <;> simp) _ _).trans (by simp)
  · exact (foldl_same State.stopReq _ (by intro s x; (repeat' split) <;> simp) _ _).trans (by simp)
  · exact (foldl_same State.watches _ (by intro s x; (repeat' split) <;> simp) _ _).trans (by simp)
  · exact (foldl_same State.settings _ (by intro s x; (repeat' split) <;> simp) _ _).trans (by simp)
  · exact (foldl_same State.line _ (by intro s x; (repeat' split) <;> simp) _ _).trans (by simp)
  · exact (foldl_same State.estop _ (by intro s x; (repeat' split) <;> simp) _ _).trans (by simp)
  · exact (foldl_same State.links _ (by intro s x; (repeat' split) <;> simp) _ _).trans (by simp)
  · exact (foldl_same State.pending _ (by intro s x; (repeat' split) <;> simp) _ _).trans (by simp)

@[simp] theorem State.decide5_frame (s : State) (st : Idx) (r : TrackRecord) (e : StationEntry) (x : Aim) :
    ((s.decide5 st r e x).after).web = s.web ∧ ((s.decide5 st r e x).after).reader = s.reader ∧
    ((s.decide5 st r e x).after).track = s.track ∧ ((s.decide5 st r e x).after).nextSeq = s.nextSeq ∧
    ((s.decide5 st r e x).after).outcomes = s.outcomes ∧ ((s.decide5 st r e x).after).calcs = s.calcs ∧
    ((s.decide5 st r e x).after).seqr = s.seqr ∧ ((s.decide5 st r e x).after).heat = s.heat ∧
    ((s.decide5 st r e x).after).splices = s.splices ∧ ((s.decide5 st r e x).after).watches = s.watches ∧
    ((s.decide5 st r e x).after).slots = s.slots ∧ ((s.decide5 st r e x).after).settings = s.settings ∧
    ((s.decide5 st r e x).after).line = s.line ∧ ((s.decide5 st r e x).after).estop = s.estop ∧
    ((s.decide5 st r e x).after).links = s.links ∧ ((s.decide5 st r e x).after).pending = s.pending := by
  unfold State.decide5
  repeat' split
  all_goals simp

@[simp] theorem State.launch_frame (s : State) (st : Idx) (q : SeqNo) (b x : Bool) :
    (s.launch st q b x).web = s.web ∧ (s.launch st q b x).reader = s.reader ∧ (s.launch st q b x).track = s.track ∧
    (s.launch st q b x).nextSeq = s.nextSeq ∧ (s.launch st q b x).outcomes = s.outcomes ∧ (s.launch st q b x).calcs = s.calcs ∧
    (s.launch st q b x).lanes = s.lanes ∧ (s.launch st q b x).heat = s.heat ∧ (s.launch st q b x).splices = s.splices ∧
    (s.launch st q b x).units = s.units ∧ (s.launch st q b x).lineUnit = s.lineUnit ∧ (s.launch st q b x).stopReq = s.stopReq ∧
    (s.launch st q b x).watches = s.watches ∧ (s.launch st q b x).slots = s.slots ∧ (s.launch st q b x).settings = s.settings ∧
    (s.launch st q b x).line = s.line ∧ (s.launch st q b x).estop = s.estop ∧ (s.launch st q b x).ports = s.ports ∧
    (s.launch st q b x).pending = s.pending := by
  unfold State.launch
  try dsimp only
  repeat' split
  all_goals simp

@[simp] theorem State.commitFaults_frame (s : State) (st : Idx) (q : SeqNo) (x : Aim) (d : Decision) (f : Option FaultKind) :
    (s.commitFaults st q x d f).web = s.web ∧ (s.commitFaults st q x d f).reader = s.reader ∧
    (s.commitFaults st q x d f).track = s.track ∧ (s.commitFaults st q x d f).nextSeq = s.nextSeq ∧
    (s.commitFaults st q x d f).outcomes = s.outcomes ∧ (s.commitFaults st q x d f).calcs = s.calcs ∧
    (s.commitFaults st q x d f).seqr = s.seqr ∧ (s.commitFaults st q x d f).lanes = s.lanes ∧
    (s.commitFaults st q x d f).heat = s.heat ∧ (s.commitFaults st q x d f).splices = s.splices ∧
    (s.commitFaults st q x d f).watches = s.watches ∧ (s.commitFaults st q x d f).slots = s.slots ∧
    (s.commitFaults st q x d f).settings = s.settings ∧ (s.commitFaults st q x d f).line = s.line ∧
    (s.commitFaults st q x d f).estop = s.estop ∧ (s.commitFaults st q x d f).links = s.links ∧
    (s.commitFaults st q x d f).pending = s.pending := by
  unfold State.commitFaults
  try dsimp only
  repeat' split
  all_goals simp

@[simp] theorem State.commitOrder_frame (s : State) (st : Idx) (r : TrackRecord) (e : StationEntry) :
    (s.commitOrder st r e).web = s.web ∧ (s.commitOrder st r e).reader = s.reader ∧
    (s.commitOrder st r e).nextSeq = s.nextSeq ∧ (s.commitOrder st r e).outcomes = s.outcomes ∧
    (s.commitOrder st r e).heat = s.heat ∧ (s.commitOrder st r e).splices = s.splices ∧
    (s.commitOrder st r e).settings = s.settings ∧ (s.commitOrder st r e).line = s.line ∧
    (s.commitOrder st r e).estop = s.estop ∧ (s.commitOrder st r e).pending = s.pending := by
  unfold State.commitOrder
  try dsimp only
  repeat' split
  all_goals simp

@[simp] theorem State.commitMissed_frame (s : State) (st : Idx) (q : SeqNo) (b : Bool) :
    (s.commitMissed st q b).web = s.web ∧ (s.commitMissed st q b).reader = s.reader ∧
    (s.commitMissed st q b).nextSeq = s.nextSeq ∧ (s.commitMissed st q b).outcomes = s.outcomes ∧
    (s.commitMissed st q b).seqr = s.seqr ∧ (s.commitMissed st q b).lanes = s.lanes ∧
    (s.commitMissed st q b).heat = s.heat ∧ (s.commitMissed st q b).splices = s.splices ∧
    (s.commitMissed st q b).slots = s.slots ∧ (s.commitMissed st q b).settings = s.settings ∧
    (s.commitMissed st q b).line = s.line ∧ (s.commitMissed st q b).estop = s.estop ∧
    (s.commitMissed st q b).links = s.links ∧ (s.commitMissed st q b).pending = s.pending := by
  unfold State.commitMissed
  try dsimp only
  repeat' split
  all_goals simp

@[simp] theorem State.commitRecord_frame (s : State) (st : Idx) (r : TrackRecord) :
    (s.commitRecord st r).web = s.web ∧ (s.commitRecord st r).reader = s.reader ∧
    (s.commitRecord st r).nextSeq = s.nextSeq ∧ (s.commitRecord st r).outcomes = s.outcomes ∧
    (s.commitRecord st r).heat = s.heat ∧ (s.commitRecord st r).splices = s.splices ∧
    (s.commitRecord st r).settings = s.settings ∧ (s.commitRecord st r).line = s.line ∧
    (s.commitRecord st r).estop = s.estop ∧ (s.commitRecord st r).pending = s.pending := by
  unfold State.commitRecord
  try dsimp only
  repeat' split
  all_goals simp

@[simp] theorem State.commitIfReached_frame (s : State) (st : Idx) (q : SeqNo) :
    (s.commitIfReached st q).web = s.web ∧ (s.commitIfReached st q).reader = s.reader ∧
    (s.commitIfReached st q).nextSeq = s.nextSeq ∧ (s.commitIfReached st q).outcomes = s.outcomes ∧
    (s.commitIfReached st q).heat = s.heat ∧ (s.commitIfReached st q).splices = s.splices ∧
    (s.commitIfReached st q).settings = s.settings ∧ (s.commitIfReached st q).line = s.line ∧
    (s.commitIfReached st q).estop = s.estop ∧ (s.commitIfReached st q).pending = s.pending := by
  unfold State.commitIfReached
  try dsimp only
  repeat' split
  all_goals simp

@[simp] theorem State.appendOutcome_frame (s : State) (r : OutcomeRecord) :
    (s.appendOutcome r).web = s.web ∧ (s.appendOutcome r).reader = s.reader ∧ (s.appendOutcome r).track = s.track ∧
    (s.appendOutcome r).nextSeq = s.nextSeq ∧ (s.appendOutcome r).calcs = s.calcs ∧ (s.appendOutcome r).seqr = s.seqr ∧
    (s.appendOutcome r).lanes = s.lanes ∧ (s.appendOutcome r).heat = s.heat ∧ (s.appendOutcome r).splices = s.splices ∧
    (s.appendOutcome r).units = s.units ∧ (s.appendOutcome r).lineUnit = s.lineUnit ∧
    (s.appendOutcome r).stopReq = s.stopReq ∧ (s.appendOutcome r).watches = s.watches ∧
    (s.appendOutcome r).slots = s.slots ∧ (s.appendOutcome r).settings = s.settings ∧ (s.appendOutcome r).line = s.line ∧
    (s.appendOutcome r).estop = s.estop ∧ (s.appendOutcome r).links = s.links ∧ (s.appendOutcome r).pending = s.pending := by
  unfold State.appendOutcome
  refine ⟨?_, ?_, ?_, ?_, ?_, ?_, ?_, ?_, ?_, ?_, ?_, ?_, ?_, ?_, ?_, ?_, ?_, ?_, ?_⟩
  · exact (foldl_same State.web _ (by intro s x; (repeat' split) <;> simp) _ _).trans (by simp)
  · exact (foldl_same State.reader _ (by intro s x; (repeat' split) <;> simp) _ _).trans (by simp)
  · exact (foldl_same State.track _ (by intro s x; (repeat' split) <;> simp) _ _).trans (by simp)
  · exact (foldl_same State.nextSeq _ (by intro s x; (repeat' split) <;> simp) _ _).trans (by simp)
  · exact (foldl_same State.calcs _ (by intro s x; (repeat' split) <;> simp) _ _).trans (by simp)
  · exact (foldl_same State.seqr _ (by intro s x; (repeat' split) <;> simp) _ _).trans (by simp)
  · exact (foldl_same State.lanes _ (by intro s x; (repeat' split) <;> simp) _ _).trans (by simp)
  · exact (foldl_same State.heat _ (by intro s x; (repeat' split) <;> simp) _ _).trans (by simp)
  · exact (foldl_same State.splices _ (by intro s x; (repeat' split) <;> simp) _ _).trans (by simp)
  · exact (foldl_same State.units _ (by intro s x; (repeat' split) <;> simp) _ _).trans (by simp)
  · exact (foldl_same State.lineUnit _ (by intro s x; (repeat' split) <;> simp) _ _).trans (by simp)
  · exact (foldl_same State.stopReq _ (by intro s x; (repeat' split) <;> simp) _ _).trans (by simp)
  · exact (foldl_same State.watches _ (by intro s x; (repeat' split) <;> simp) _ _).trans (by simp)
  · exact (foldl_same State.slots _ (by intro s x; (repeat' split) <;> simp) _ _).trans (by simp)
  · exact (foldl_same State.settings _ (by intro s x; (repeat' split) <;> simp) _ _).trans (by simp)
  · exact (foldl_same State.line _ (by intro s x; (repeat' split) <;> simp) _ _).trans (by simp)
  · exact (foldl_same State.estop _ (by intro s x; (repeat' split) <;> simp) _ _).trans (by simp)
  · exact (foldl_same State.links _ (by intro s x; (repeat' split) <;> simp) _ _).trans (by simp)
  · exact (foldl_same State.pending _ (by intro s x; (repeat' split) <;> simp) _ _).trans (by simp)

@[simp] theorem State.leaveStation_frame (s : State) (r : TrackRecord) (st : Idx) :
    (s.leaveStation r st).web = s.web ∧ (s.leaveStation r st).reader = s.reader ∧ (s.leaveStation r st).track = s.track ∧
    (s.leaveStation r st).nextSeq = s.nextSeq ∧ (s.leaveStation r st).outcomes = s.outcomes ∧
    (s.leaveStation r st).calcs = s.calcs ∧ (s.leaveStation r st).heat = s.heat ∧
    (s.leaveStation r st).splices = s.splices ∧ (s.leaveStation r st).units = s.units ∧
    (s.leaveStation r st).lineUnit = s.lineUnit ∧ (s.leaveStation r st).stopReq = s.stopReq ∧
    (s.leaveStation r st).watches = s.watches ∧ (s.leaveStation r st).settings = s.settings ∧
    (s.leaveStation r st).line = s.line ∧ (s.leaveStation r st).estop = s.estop ∧ (s.leaveStation r st).ports = s.ports ∧
    (s.leaveStation r st).pending = s.pending := by
  unfold State.leaveStation
  try dsimp only
  repeat' split
  all_goals simp

@[simp] theorem State.leaveHead_frame (s : State) (x : Status) :
    (s.leaveHead x).web = s.web ∧ (s.leaveHead x).reader = s.reader ∧ (s.leaveHead x).nextSeq = s.nextSeq ∧
    (s.leaveHead x).calcs = s.calcs ∧ (s.leaveHead x).heat = s.heat ∧ (s.leaveHead x).splices = s.splices ∧
    (s.leaveHead x).units = s.units ∧ (s.leaveHead x).lineUnit = s.lineUnit ∧ (s.leaveHead x).stopReq = s.stopReq ∧
    (s.leaveHead x).settings = s.settings ∧ (s.leaveHead x).line = s.line ∧ (s.leaveHead x).estop = s.estop ∧
    (s.leaveHead x).pending = s.pending := by
  unfold State.leaveHead
  split
  · simp
  · refine ⟨?_, ?_, ?_, ?_, ?_, ?_, ?_, ?_, ?_, ?_, ?_, ?_, ?_⟩
    · simp
      exact foldl_same State.web _ (by intro s x; simp) _ _
    · simp
      exact foldl_same State.reader _ (by intro s x; simp) _ _
    · simp
      exact foldl_same State.nextSeq _ (by intro s x; simp) _ _
    · simp
      exact foldl_same State.calcs _ (by intro s x; simp) _ _
    · simp
      exact foldl_same State.heat _ (by intro s x; simp) _ _
    · simp
      exact foldl_same State.splices _ (by intro s x; simp) _ _
    · simp
      exact foldl_same State.units _ (by intro s x; simp) _ _
    · simp
      exact foldl_same State.lineUnit _ (by intro s x; simp) _ _
    · simp
      exact foldl_same State.stopReq _ (by intro s x; simp) _ _
    · simp
      exact foldl_same State.settings _ (by intro s x; simp) _ _
    · simp
      exact foldl_same State.line _ (by intro s x; simp) _ _
    · simp
      exact foldl_same State.estop _ (by intro s x; simp) _ _
    · simp
      exact foldl_same State.pending _ (by intro s x; simp) _ _

@[simp] theorem retireLoop_frame (n : Nat) (s : State) :
    (retireLoop n s).web = s.web ∧ (retireLoop n s).reader = s.reader ∧ (retireLoop n s).nextSeq = s.nextSeq ∧
    (retireLoop n s).calcs = s.calcs ∧ (retireLoop n s).heat = s.heat ∧ (retireLoop n s).splices = s.splices ∧
    (retireLoop n s).units = s.units ∧ (retireLoop n s).lineUnit = s.lineUnit ∧ (retireLoop n s).stopReq = s.stopReq ∧
    (retireLoop n s).settings = s.settings ∧ (retireLoop n s).line = s.line ∧ (retireLoop n s).estop = s.estop ∧
    (retireLoop n s).pending = s.pending := by
  induction n generalizing s with
  | zero => simp [retireLoop]
  | succ n ih =>
    unfold retireLoop
    split <;> simp [ih]

@[simp] theorem State.retireRun_frame (s : State) :
    (s.retireRun).web = s.web ∧ (s.retireRun).reader = s.reader ∧ (s.retireRun).nextSeq = s.nextSeq ∧
    (s.retireRun).calcs = s.calcs ∧ (s.retireRun).heat = s.heat ∧ (s.retireRun).splices = s.splices ∧
    (s.retireRun).units = s.units ∧ (s.retireRun).lineUnit = s.lineUnit ∧ (s.retireRun).stopReq = s.stopReq ∧
    (s.retireRun).settings = s.settings ∧ (s.retireRun).line = s.line ∧ (s.retireRun).estop = s.estop ∧
    (s.retireRun).pending = s.pending := by
  unfold State.retireRun
  try dsimp only
  repeat' split
  all_goals simp

@[simp] theorem emptyLoop_frame (n : Nat) (s : State) :
    (emptyLoop n s).web = s.web ∧ (emptyLoop n s).reader = s.reader ∧ (emptyLoop n s).nextSeq = s.nextSeq ∧
    (emptyLoop n s).calcs = s.calcs ∧ (emptyLoop n s).heat = s.heat ∧ (emptyLoop n s).splices = s.splices ∧
    (emptyLoop n s).units = s.units ∧ (emptyLoop n s).lineUnit = s.lineUnit ∧ (emptyLoop n s).stopReq = s.stopReq ∧
    (emptyLoop n s).settings = s.settings ∧ (emptyLoop n s).line = s.line ∧ (emptyLoop n s).estop = s.estop ∧
    (emptyLoop n s).pending = s.pending := by
  induction n generalizing s with
  | zero => simp [emptyLoop]
  | succ n ih =>
    unfold emptyLoop
    simp [ih]

@[simp] theorem State.emptyTrack_frame (s : State) :
    (s.emptyTrack).web = s.web ∧ (s.emptyTrack).reader = s.reader ∧ (s.emptyTrack).nextSeq = s.nextSeq ∧
    (s.emptyTrack).calcs = s.calcs ∧ (s.emptyTrack).heat = s.heat ∧ (s.emptyTrack).splices = s.splices ∧
    (s.emptyTrack).units = s.units ∧ (s.emptyTrack).lineUnit = s.lineUnit ∧ (s.emptyTrack).stopReq = s.stopReq ∧
    (s.emptyTrack).settings = s.settings ∧ (s.emptyTrack).line = s.line ∧ (s.emptyTrack).estop = s.estop ∧
    (s.emptyTrack).pending = s.pending := by
  unfold State.emptyTrack
  try dsimp only
  repeat' split
  all_goals simp

@[simp] theorem State.takeReached_frame (s : State) (q : SeqNo) :
    (s.takeReached q).web = s.web ∧ (s.takeReached q).reader = s.reader ∧ (s.takeReached q).nextSeq = s.nextSeq ∧
    (s.takeReached q).heat = s.heat ∧ (s.takeReached q).splices = s.splices ∧ (s.takeReached q).settings = s.settings ∧
    (s.takeReached q).line = s.line ∧ (s.takeReached q).estop = s.estop ∧ (s.takeReached q).pending = s.pending := by
  unfold State.takeReached
  dsimp only
  have h : ∀ t : State, (Idx.all.foldl (fun s st => s.commitIfReached st q) t).web = t.web ∧ (Idx.all.foldl (fun s st => s.commitIfReached st q) t).reader = t.reader ∧ (Idx.all.foldl (fun s st => s.commitIfReached st q) t).nextSeq = t.nextSeq ∧ (Idx.all.foldl (fun s st => s.commitIfReached st q) t).heat = t.heat ∧ (Idx.all.foldl (fun s st => s.commitIfReached st q) t).splices = t.splices ∧ (Idx.all.foldl (fun s st => s.commitIfReached st q) t).settings = t.settings ∧ (Idx.all.foldl (fun s st => s.commitIfReached st q) t).line = t.line ∧ (Idx.all.foldl (fun s st => s.commitIfReached st q) t).estop = t.estop ∧ (Idx.all.foldl (fun s st => s.commitIfReached st q) t).pending = t.pending := by
    intro t
    refine ⟨?_, ?_, ?_, ?_, ?_, ?_, ?_, ?_, ?_⟩
    · exact foldl_same State.web _ (by intro s x; simp) _ _
    · exact foldl_same State.reader _ (by intro s x; simp) _ _
    · exact foldl_same State.nextSeq _ (by intro s x; simp) _ _
    · exact foldl_same State.heat _ (by intro s x; simp) _ _
    · exact foldl_same State.splices _ (by intro s x; simp) _ _
    · exact foldl_same State.settings _ (by intro s x; simp) _ _
    · exact foldl_same State.line _ (by intro s x; simp) _ _
    · exact foldl_same State.estop _ (by intro s x; simp) _ _
    · exact foldl_same State.pending _ (by intro s x; simp) _ _
  split
  · split <;> simp [h]
  · simp [h]

@[simp] theorem State.join_frame (s : State) (x : Handed) :
    (s.join x).web = s.web ∧ (s.join x).reader = s.reader ∧ (s.join x).heat = s.heat ∧ (s.join x).splices = s.splices ∧
    (s.join x).settings = s.settings ∧ (s.join x).line = s.line ∧ (s.join x).estop = s.estop ∧
    (s.join x).pending = s.pending := by
  unfold State.join
  try dsimp only
  repeat' split
  all_goals simp

@[simp] theorem State.convert_frame (s : State) (q : SeqNo) (c : Pos) :
    (s.convert q c).web = s.web ∧ (s.convert q c).reader = s.reader ∧ (s.convert q c).nextSeq = s.nextSeq ∧
    (s.convert q c).heat = s.heat ∧ (s.convert q c).splices = s.splices ∧ (s.convert q c).settings = s.settings ∧
    (s.convert q c).line = s.line ∧ (s.convert q c).estop = s.estop ∧ (s.convert q c).pending = s.pending := by
  unfold State.convert
  try dsimp only
  repeat' split
  all_goals simp

@[simp] theorem State.reversalTest_frame (s : State) :
    (s.reversalTest).reader = s.reader ∧ (s.reversalTest).track = s.track ∧ (s.reversalTest).nextSeq = s.nextSeq ∧
    (s.reversalTest).outcomes = s.outcomes ∧ (s.reversalTest).calcs = s.calcs ∧ (s.reversalTest).seqr = s.seqr ∧
    (s.reversalTest).lanes = s.lanes ∧ (s.reversalTest).heat = s.heat ∧ (s.reversalTest).splices = s.splices ∧
    (s.reversalTest).watches = s.watches ∧ (s.reversalTest).slots = s.slots ∧ (s.reversalTest).settings = s.settings ∧
    (s.reversalTest).line = s.line ∧ (s.reversalTest).estop = s.estop ∧ (s.reversalTest).links = s.links ∧
    (s.reversalTest).pending = s.pending := by
  unfold State.reversalTest
  try dsimp only
  repeat' split
  all_goals simp

@[simp] theorem State.produce_frame (s : State) (m : Made) :
    (s.produce m).web = s.web ∧ (s.produce m).heat = s.heat ∧ (s.produce m).splices = s.splices ∧
    (s.produce m).settings = s.settings ∧ (s.produce m).line = s.line ∧ (s.produce m).estop = s.estop ∧
    (s.produce m).pending = s.pending := by
  unfold State.produce
  try dsimp only
  repeat' split
  all_goals simp

@[simp] theorem State.takeReaderEvent_frame (s : State) :
    (s.takeReaderEvent).web = s.web ∧ (s.takeReaderEvent).heat = s.heat ∧ (s.takeReaderEvent).splices = s.splices ∧
    (s.takeReaderEvent).settings = s.settings ∧ (s.takeReaderEvent).line = s.line ∧ (s.takeReaderEvent).estop = s.estop ∧
    (s.takeReaderEvent).pending = s.pending := by
  unfold State.takeReaderEvent
  try dsimp only
  repeat' split
  all_goals simp

@[simp] theorem readerLoop_frame (n : Nat) (s : State) :
    (readerLoop n s).web = s.web ∧ (readerLoop n s).heat = s.heat ∧ (readerLoop n s).splices = s.splices ∧
    (readerLoop n s).settings = s.settings ∧ (readerLoop n s).line = s.line ∧ (readerLoop n s).estop = s.estop ∧
    (readerLoop n s).pending = s.pending := by
  induction n generalizing s with
  | zero => simp [readerLoop]
  | succ n ih =>
    unfold readerLoop
    split <;> simp [ih]

@[simp] theorem State.takeReadyReader_frame (s : State) :
    (s.takeReadyReader).web = s.web ∧ (s.takeReadyReader).heat = s.heat ∧ (s.takeReadyReader).splices = s.splices ∧
    (s.takeReadyReader).settings = s.settings ∧ (s.takeReadyReader).line = s.line ∧ (s.takeReadyReader).estop = s.estop ∧
    (s.takeReadyReader).pending = s.pending :=
  readerLoop_frame _ _

@[simp] theorem State.strayMark_frame (s : State) (c : Pos) :
    (s.strayMark c).web = s.web ∧ (s.strayMark c).reader = s.reader ∧ (s.strayMark c).track = s.track ∧
    (s.strayMark c).nextSeq = s.nextSeq ∧ (s.strayMark c).outcomes = s.outcomes ∧ (s.strayMark c).calcs = s.calcs ∧
    (s.strayMark c).seqr = s.seqr ∧ (s.strayMark c).lanes = s.lanes ∧ (s.strayMark c).heat = s.heat ∧
    (s.strayMark c).splices = s.splices ∧ (s.strayMark c).watches = s.watches ∧ (s.strayMark c).slots = s.slots ∧
    (s.strayMark c).settings = s.settings ∧ (s.strayMark c).line = s.line ∧ (s.strayMark c).estop = s.estop ∧
    (s.strayMark c).links = s.links ∧ (s.strayMark c).pending = s.pending := by
  unfold State.strayMark
  try dsimp only
  repeat' split
  all_goals simp

@[simp] theorem State.restartAt_frame (s : State) (c : Pos) :
    (s.restartAt c).web = s.web ∧ (s.restartAt c).heat = s.heat ∧ (s.restartAt c).splices = s.splices ∧
    (s.restartAt c).settings = s.settings ∧ (s.restartAt c).line = s.line ∧ (s.restartAt c).estop = s.estop ∧
    (s.restartAt c).pending = s.pending := by
  unfold State.restartAt
  try dsimp only
  repeat' split
  all_goals simp

@[simp] theorem State.takeEdge_frame (s : State) (c : Pos) :
    (s.takeEdge c).web = s.web ∧ (s.takeEdge c).heat = s.heat ∧ (s.takeEdge c).splices = s.splices ∧
    (s.takeEdge c).settings = s.settings ∧ (s.takeEdge c).line = s.line ∧ (s.takeEdge c).estop = s.estop ∧
    (s.takeEdge c).pending = s.pending := by
  unfold State.takeEdge
  try dsimp only
  repeat' split
  all_goals simp

@[simp] theorem State.lateTest_frame (s : State) (st : Idx) (r : TrackRecord) (n : Four (Option Verdict)) :
    (s.lateTest st r n).web = s.web ∧ (s.lateTest st r n).reader = s.reader ∧ (s.lateTest st r n).track = s.track ∧
    (s.lateTest st r n).nextSeq = s.nextSeq ∧ (s.lateTest st r n).outcomes = s.outcomes ∧
    (s.lateTest st r n).calcs = s.calcs ∧ (s.lateTest st r n).seqr = s.seqr ∧ (s.lateTest st r n).lanes = s.lanes ∧
    (s.lateTest st r n).heat = s.heat ∧ (s.lateTest st r n).splices = s.splices ∧ (s.lateTest st r n).watches = s.watches ∧
    (s.lateTest st r n).slots = s.slots ∧ (s.lateTest st r n).settings = s.settings ∧ (s.lateTest st r n).line = s.line ∧
    (s.lateTest st r n).estop = s.estop ∧ (s.lateTest st r n).links = s.links ∧ (s.lateTest st r n).pending = s.pending := by
  unfold State.lateTest
  try dsimp only
  repeat' split
  all_goals simp

@[simp] theorem State.spliceLate_frame (s : State) (st : Idx) (l : List TrackRecord) :
    (s.spliceLate st l).web = s.web ∧ (s.spliceLate st l).reader = s.reader ∧ (s.spliceLate st l).track = s.track ∧
    (s.spliceLate st l).nextSeq = s.nextSeq ∧ (s.spliceLate st l).outcomes = s.outcomes ∧
    (s.spliceLate st l).calcs = s.calcs ∧ (s.spliceLate st l).seqr = s.seqr ∧ (s.spliceLate st l).lanes = s.lanes ∧
    (s.spliceLate st l).heat = s.heat ∧ (s.spliceLate st l).splices = s.splices ∧ (s.spliceLate st l).watches = s.watches ∧
    (s.spliceLate st l).slots = s.slots ∧ (s.spliceLate st l).settings = s.settings ∧ (s.spliceLate st l).line = s.line ∧
    (s.spliceLate st l).estop = s.estop ∧ (s.spliceLate st l).links = s.links ∧ (s.spliceLate st l).pending = s.pending := by
  unfold State.spliceLate
  try dsimp only
  repeat' split
  all_goals simp

@[simp] theorem State.flagTrack_frame (s : State) (x : SpliceEntry) :
    (s.flagTrack x).web = s.web ∧ (s.flagTrack x).reader = s.reader ∧ (s.flagTrack x).nextSeq = s.nextSeq ∧
    (s.flagTrack x).outcomes = s.outcomes ∧ (s.flagTrack x).calcs = s.calcs ∧ (s.flagTrack x).seqr = s.seqr ∧
    (s.flagTrack x).lanes = s.lanes ∧ (s.flagTrack x).heat = s.heat ∧ (s.flagTrack x).splices = s.splices ∧
    (s.flagTrack x).watches = s.watches ∧ (s.flagTrack x).slots = s.slots ∧ (s.flagTrack x).settings = s.settings ∧
    (s.flagTrack x).line = s.line ∧ (s.flagTrack x).estop = s.estop ∧ (s.flagTrack x).links = s.links ∧
    (s.flagTrack x).pending = s.pending := by
  unfold State.flagTrack
  refine ⟨?_, ?_, ?_, ?_, ?_, ?_, ?_, ?_, ?_, ?_, ?_, ?_, ?_, ?_, ?_, ?_⟩
  · exact (foldl_same State.web _ (by intro s x; simp) _ _).trans (by simp)
  · exact (foldl_same State.reader _ (by intro s x; simp) _ _).trans (by simp)
  · exact (foldl_same State.nextSeq _ (by intro s x; simp) _ _).trans (by simp)
  · exact (foldl_same State.outcomes _ (by intro s x; simp) _ _).trans (by simp)
  · exact (foldl_same State.calcs _ (by intro s x; simp) _ _).trans (by simp)
  · exact (foldl_same State.seqr _ (by intro s x; simp) _ _).trans (by simp)
  · exact (foldl_same State.lanes _ (by intro s x; simp) _ _).trans (by simp)
  · exact (foldl_same State.heat _ (by intro s x; simp) _ _).trans (by simp)
  · exact (foldl_same State.splices _ (by intro s x; simp) _ _).trans (by simp)
  · exact (foldl_same State.watches _ (by intro s x; simp) _ _).trans (by simp)
  · exact (foldl_same State.slots _ (by intro s x; simp) _ _).trans (by simp)
  · exact (foldl_same State.settings _ (by intro s x; simp) _ _).trans (by simp)
  · exact (foldl_same State.line _ (by intro s x; simp) _ _).trans (by simp)
  · exact (foldl_same State.estop _ (by intro s x; simp) _ _).trans (by simp)
  · exact (foldl_same State.links _ (by intro s x; simp) _ _).trans (by simp)
  · exact (foldl_same State.pending _ (by intro s x; simp) _ _).trans (by simp)

@[simp] theorem State.startLine_frame (s : State) :
    (s.startLine).track = s.track ∧ (s.startLine).nextSeq = s.nextSeq ∧ (s.startLine).outcomes = s.outcomes ∧
    (s.startLine).seqr = s.seqr ∧ (s.startLine).lanes = s.lanes ∧ (s.startLine).heat = s.heat ∧
    (s.startLine).splices = s.splices ∧ (s.startLine).watches = s.watches ∧ (s.startLine).slots = s.slots ∧
    (s.startLine).settings = s.settings ∧ (s.startLine).estop = s.estop ∧ (s.startLine).links = s.links ∧
    (s.startLine).pending = s.pending := by
  unfold State.startLine
  try dsimp only
  repeat' split
  all_goals simp

@[simp] theorem State.enterHold_frame (s : State) :
    (s.enterHold).web = s.web ∧ (s.enterHold).reader = s.reader ∧ (s.enterHold).nextSeq = s.nextSeq ∧
    (s.enterHold).outcomes = s.outcomes ∧ (s.enterHold).calcs = s.calcs ∧ (s.enterHold).heat = s.heat ∧
    (s.enterHold).splices = s.splices ∧ (s.enterHold).settings = s.settings ∧ (s.enterHold).estop = s.estop ∧
    (s.enterHold).pending = s.pending := by
  unfold State.enterHold
  refine ⟨?_, ?_, ?_, ?_, ?_, ?_, ?_, ?_, ?_, ?_⟩
  · simp
    exact (foldl_same State.web _ (by intro s x; simp) _ _).trans (by simp)
  · simp
    exact (foldl_same State.reader _ (by intro s x; simp) _ _).trans (by simp)
  · simp
    exact (foldl_same State.nextSeq _ (by intro s x; simp) _ _).trans (by simp)
  · simp
    exact (foldl_same State.outcomes _ (by intro s x; simp) _ _).trans (by simp)
  · simp
    exact (foldl_same State.calcs _ (by intro s x; simp) _ _).trans (by simp)
  · simp
    exact (foldl_same State.heat _ (by intro s x; simp) _ _).trans (by simp)
  · simp
    exact (foldl_same State.splices _ (by intro s x; simp) _ _).trans (by simp)
  · simp
    exact (foldl_same State.settings _ (by intro s x; simp) _ _).trans (by simp)
  · simp
    exact (foldl_same State.estop _ (by intro s x; simp) _ _).trans (by simp)
  · simp
    exact (foldl_same State.pending _ (by intro s x; simp) _ _).trans (by simp)

@[simp] theorem State.loadTrim_frame (s : State) (st : Idx) :
    (s.loadTrim st).web = s.web ∧ (s.loadTrim st).reader = s.reader ∧ (s.loadTrim st).nextSeq = s.nextSeq ∧
    (s.loadTrim st).outcomes = s.outcomes ∧ (s.loadTrim st).seqr = s.seqr ∧ (s.loadTrim st).lanes = s.lanes ∧
    (s.loadTrim st).heat = s.heat ∧ (s.loadTrim st).splices = s.splices ∧ (s.loadTrim st).units = s.units ∧
    (s.loadTrim st).lineUnit = s.lineUnit ∧ (s.loadTrim st).slots = s.slots ∧ (s.loadTrim st).settings = s.settings ∧
    (s.loadTrim st).line = s.line ∧ (s.loadTrim st).estop = s.estop ∧ (s.loadTrim st).links = s.links ∧
    (s.loadTrim st).pending = s.pending := by
  unfold State.loadTrim
  try dsimp only
  repeat' split
  all_goals simp

@[simp] theorem State.recheckFeed_frame (s : State) (st : Idx) (e : ContextEntry) (c : Idx) :
    ((s.recheckFeed st e c).1).web = s.web ∧ ((s.recheckFeed st e c).1).reader = s.reader ∧
    ((s.recheckFeed st e c).1).track = s.track ∧ ((s.recheckFeed st e c).1).nextSeq = s.nextSeq ∧
    ((s.recheckFeed st e c).1).outcomes = s.outcomes ∧ ((s.recheckFeed st e c).1).calcs = s.calcs ∧
    ((s.recheckFeed st e c).1).seqr = s.seqr ∧ ((s.recheckFeed st e c).1).heat = s.heat ∧
    ((s.recheckFeed st e c).1).splices = s.splices ∧ ((s.recheckFeed st e c).1).watches = s.watches ∧
    ((s.recheckFeed st e c).1).slots = s.slots ∧ ((s.recheckFeed st e c).1).settings = s.settings ∧
    ((s.recheckFeed st e c).1).line = s.line ∧ ((s.recheckFeed st e c).1).estop = s.estop ∧
    ((s.recheckFeed st e c).1).links = s.links ∧ ((s.recheckFeed st e c).1).pending = s.pending := by
  unfold State.recheckFeed
  dsimp only
  repeat' split
  all_goals simp

@[simp] theorem State.recheckFeeds_frame (s : State) (st : Idx) (e : ContextEntry) :
    ((s.recheckFeeds st e).1).web = s.web ∧ ((s.recheckFeeds st e).1).reader = s.reader ∧
    ((s.recheckFeeds st e).1).track = s.track ∧ ((s.recheckFeeds st e).1).nextSeq = s.nextSeq ∧
    ((s.recheckFeeds st e).1).outcomes = s.outcomes ∧ ((s.recheckFeeds st e).1).calcs = s.calcs ∧
    ((s.recheckFeeds st e).1).seqr = s.seqr ∧ ((s.recheckFeeds st e).1).heat = s.heat ∧
    ((s.recheckFeeds st e).1).splices = s.splices ∧ ((s.recheckFeeds st e).1).watches = s.watches ∧
    ((s.recheckFeeds st e).1).slots = s.slots ∧ ((s.recheckFeeds st e).1).settings = s.settings ∧
    ((s.recheckFeeds st e).1).line = s.line ∧ ((s.recheckFeeds st e).1).estop = s.estop ∧
    ((s.recheckFeeds st e).1).links = s.links ∧ ((s.recheckFeeds st e).1).pending = s.pending := by
  unfold State.recheckFeeds
  simp

@[simp] theorem State.restrike_frame (s : State) (st : Idx) (e : ContextEntry) :
    (s.restrike st e).web = s.web ∧ (s.restrike st e).reader = s.reader ∧ (s.restrike st e).nextSeq = s.nextSeq ∧
    (s.restrike st e).outcomes = s.outcomes ∧ (s.restrike st e).calcs = s.calcs ∧ (s.restrike st e).heat = s.heat ∧
    (s.restrike st e).splices = s.splices ∧ (s.restrike st e).watches = s.watches ∧
    (s.restrike st e).settings = s.settings ∧ (s.restrike st e).line = s.line ∧ (s.restrike st e).estop = s.estop ∧
    (s.restrike st e).pending = s.pending := by
  unfold State.restrike
  try dsimp only
  repeat' split
  all_goals simp

@[simp] theorem State.restrikeStation_frame (s : State) (st : Idx) :
    (s.restrikeStation st).web = s.web ∧ (s.restrikeStation st).reader = s.reader ∧
    (s.restrikeStation st).nextSeq = s.nextSeq ∧ (s.restrikeStation st).outcomes = s.outcomes ∧
    (s.restrikeStation st).calcs = s.calcs ∧ (s.restrikeStation st).heat = s.heat ∧
    (s.restrikeStation st).splices = s.splices ∧ (s.restrikeStation st).watches = s.watches ∧
    (s.restrikeStation st).settings = s.settings ∧ (s.restrikeStation st).line = s.line ∧
    (s.restrikeStation st).estop = s.estop ∧ (s.restrikeStation st).pending = s.pending := by
  unfold State.restrikeStation
  refine ⟨?_, ?_, ?_, ?_, ?_, ?_, ?_, ?_, ?_, ?_, ?_, ?_⟩
  · exact foldl_same State.web _ (by intro s x; (repeat' split) <;> simp) _ _
  · exact foldl_same State.reader _ (by intro s x; (repeat' split) <;> simp) _ _
  · exact foldl_same State.nextSeq _ (by intro s x; (repeat' split) <;> simp) _ _
  · exact foldl_same State.outcomes _ (by intro s x; (repeat' split) <;> simp) _ _
  · exact foldl_same State.calcs _ (by intro s x; (repeat' split) <;> simp) _ _
  · exact foldl_same State.heat _ (by intro s x; (repeat' split) <;> simp) _ _
  · exact foldl_same State.splices _ (by intro s x; (repeat' split) <;> simp) _ _
  · exact foldl_same State.watches _ (by intro s x; (repeat' split) <;> simp) _ _
  · exact foldl_same State.settings _ (by intro s x; (repeat' split) <;> simp) _ _
  · exact foldl_same State.line _ (by intro s x; (repeat' split) <;> simp) _ _
  · exact foldl_same State.estop _ (by intro s x; (repeat' split) <;> simp) _ _
  · exact foldl_same State.pending _ (by intro s x; (repeat' split) <;> simp) _ _

@[simp] theorem State.resumeLine_frame (s : State) :
    (s.resumeLine).reader = s.reader ∧ (s.resumeLine).nextSeq = s.nextSeq ∧ (s.resumeLine).outcomes = s.outcomes ∧
    (s.resumeLine).heat = s.heat ∧ (s.resumeLine).splices = s.splices ∧ (s.resumeLine).settings = s.settings ∧
    (s.resumeLine).estop = s.estop ∧ (s.resumeLine).pending = s.pending := by
  unfold State.resumeLine
  dsimp only
  refine ⟨?_, ?_, ?_, ?_, ?_, ?_, ?_, ?_⟩
  · simp
    exact ((foldl_same State.reader _ (by intro s x; simp) _ _).trans (foldl_same State.reader _ (by intro s x; simp) _ _))
  · simp
    exact ((foldl_same State.nextSeq _ (by intro s x; simp) _ _).trans (foldl_same State.nextSeq _ (by intro s x; simp) _ _))
  · simp
    exact ((foldl_same State.outcomes _ (by intro s x; simp) _ _).trans (foldl_same State.outcomes _ (by intro s x; simp) _ _))
  · simp
    exact ((foldl_same State.heat _ (by intro s x; simp) _ _).trans (foldl_same State.heat _ (by intro s x; simp) _ _))
  · simp
    exact ((foldl_same State.splices _ (by intro s x; simp) _ _).trans (foldl_same State.splices _ (by intro s x; simp) _ _))
  · simp
    exact ((foldl_same State.settings _ (by intro s x; simp) _ _).trans (foldl_same State.settings _ (by intro s x; simp) _ _))
  · simp
    exact ((foldl_same State.estop _ (by intro s x; simp) _ _).trans (foldl_same State.estop _ (by intro s x; simp) _ _))
  · simp
    exact ((foldl_same State.pending _ (by intro s x; simp) _ _).trans (foldl_same State.pending _ (by intro s x; simp) _ _))

@[simp] theorem State.stopLine_frame (s : State) :
    (s.stopLine).web = s.web ∧ (s.stopLine).nextSeq = s.nextSeq ∧ (s.stopLine).calcs = s.calcs ∧
    (s.stopLine).heat = s.heat ∧ (s.stopLine).units = s.units ∧ (s.stopLine).lineUnit = s.lineUnit ∧
    (s.stopLine).settings = s.settings ∧ (s.stopLine).estop = s.estop ∧ (s.stopLine).pending = s.pending := by
  unfold State.stopLine
  try dsimp only
  repeat' split
  all_goals simp

@[simp] theorem State.missInFlight_frame (s : State) (st : Idx) :
    (s.missInFlight st).web = s.web ∧ (s.missInFlight st).reader = s.reader ∧ (s.missInFlight st).nextSeq = s.nextSeq ∧
    (s.missInFlight st).outcomes = s.outcomes ∧ (s.missInFlight st).calcs = s.calcs ∧
    (s.missInFlight st).heat = s.heat ∧ (s.missInFlight st).splices = s.splices ∧ (s.missInFlight st).units = s.units ∧
    (s.missInFlight st).lineUnit = s.lineUnit ∧ (s.missInFlight st).stopReq = s.stopReq ∧
    (s.missInFlight st).watches = s.watches ∧ (s.missInFlight st).settings = s.settings ∧
    (s.missInFlight st).line = s.line ∧ (s.missInFlight st).estop = s.estop ∧ (s.missInFlight st).ports = s.ports ∧
    (s.missInFlight st).links = s.links ∧ (s.missInFlight st).pending = s.pending := by
  unfold State.missInFlight
  refine ⟨?_, ?_, ?_, ?_, ?_, ?_, ?_, ?_, ?_, ?_, ?_, ?_, ?_, ?_, ?_, ?_, ?_⟩
  · exact foldl_same State.web _ (by intro s x; simp) _ _
  · exact foldl_same State.reader _ (by intro s x; simp) _ _
  · exact foldl_same State.nextSeq _ (by intro s x; simp) _ _
  · exact foldl_same State.outcomes _ (by intro s x; simp) _ _
  · exact foldl_same State.calcs _ (by intro s x; simp) _ _
  · exact foldl_same State.heat _ (by intro s x; simp) _ _
  · exact foldl_same State.splices _ (by intro s x; simp) _ _
  · exact foldl_same State.units _ (by intro s x; simp) _ _
  · exact foldl_same State.lineUnit _ (by intro s x; simp) _ _
  · exact foldl_same State.stopReq _ (by intro s x; simp) _ _
  · exact foldl_same State.watches _ (by intro s x; simp) _ _
  · exact foldl_same State.settings _ (by intro s x; simp) _ _
  · exact foldl_same State.line _ (by intro s x; simp) _ _
  · exact foldl_same State.estop _ (by intro s x; simp) _ _
  · exact foldl_same State.ports _ (by intro s x; simp) _ _
  · exact foldl_same State.links _ (by intro s x; simp) _ _
  · exact foldl_same State.pending _ (by intro s x; simp) _ _

@[simp] theorem State.resetStation_frame (s : State) (st : Idx) :
    (s.resetStation st).web = s.web ∧ (s.resetStation st).reader = s.reader ∧ (s.resetStation st).nextSeq = s.nextSeq ∧
    (s.resetStation st).outcomes = s.outcomes ∧ (s.resetStation st).heat = s.heat ∧
    (s.resetStation st).splices = s.splices ∧ (s.resetStation st).watches = s.watches ∧
    (s.resetStation st).settings = s.settings ∧ (s.resetStation st).line = s.line ∧ (s.resetStation st).estop = s.estop ∧
    (s.resetStation st).pending = s.pending := by
  unfold State.resetStation
  try dsimp only
  repeat' split
  all_goals simp

@[simp] theorem State.resetLine_frame (s : State) :
    (s.resetLine).web = s.web ∧ (s.resetLine).nextSeq = s.nextSeq ∧ (s.resetLine).heat = s.heat ∧
    (s.resetLine).settings = s.settings ∧ (s.resetLine).line = s.line ∧ (s.resetLine).estop = s.estop ∧
    (s.resetLine).pending = s.pending := by
  unfold State.resetLine
  dsimp only
  refine ⟨?_, ?_, ?_, ?_, ?_, ?_, ?_⟩
  · simp
    exact (foldl_same State.web _ (by intro s x; simp) _ _).trans (by simp)
  · simp
    exact (foldl_same State.nextSeq _ (by intro s x; simp) _ _).trans (by simp)
  · simp
    exact (foldl_same State.heat _ (by intro s x; simp) _ _).trans (by simp)
  · simp
    exact (foldl_same State.settings _ (by intro s x; simp) _ _).trans (by simp)
  · simp
    exact (foldl_same State.line _ (by intro s x; simp) _ _).trans (by simp)
  · simp
    exact (foldl_same State.estop _ (by intro s x; simp) _ _).trans (by simp)
  · simp
    exact (foldl_same State.pending _ (by intro s x; simp) _ _).trans (by simp)

@[simp] theorem State.resetOne_frame (s : State) (st : Idx) :
    (s.resetOne st).web = s.web ∧ (s.resetOne st).reader = s.reader ∧ (s.resetOne st).nextSeq = s.nextSeq ∧
    (s.resetOne st).outcomes = s.outcomes ∧ (s.resetOne st).heat = s.heat ∧ (s.resetOne st).splices = s.splices ∧
    (s.resetOne st).watches = s.watches ∧ (s.resetOne st).settings = s.settings ∧ (s.resetOne st).line = s.line ∧
    (s.resetOne st).estop = s.estop ∧ (s.resetOne st).pending = s.pending := by
  unfold State.resetOne
  try dsimp only
  repeat' split
  all_goals simp

@[simp] theorem State.arm_frame (s : State) (p : Port) (c : WatchCondition) (x : ArmRequest) :
    (s.arm p c x).web = s.web ∧ (s.arm p c x).reader = s.reader ∧ (s.arm p c x).nextSeq = s.nextSeq ∧
    (s.arm p c x).outcomes = s.outcomes ∧ (s.arm p c x).calcs = s.calcs ∧ (s.arm p c x).seqr = s.seqr ∧
    (s.arm p c x).lanes = s.lanes ∧ (s.arm p c x).heat = s.heat ∧ (s.arm p c x).splices = s.splices ∧
    (s.arm p c x).units = s.units ∧ (s.arm p c x).lineUnit = s.lineUnit ∧ (s.arm p c x).slots = s.slots ∧
    (s.arm p c x).settings = s.settings ∧ (s.arm p c x).line = s.line ∧ (s.arm p c x).estop = s.estop ∧
    (s.arm p c x).links = s.links ∧ (s.arm p c x).pending = s.pending := by
  unfold State.arm
  try dsimp only
  repeat' split
  all_goals simp

@[simp] theorem State.clampTrims_frame (s : State) :
    (s.clampTrims).web = s.web ∧ (s.clampTrims).reader = s.reader ∧ (s.clampTrims).nextSeq = s.nextSeq ∧
    (s.clampTrims).outcomes = s.outcomes ∧ (s.clampTrims).seqr = s.seqr ∧ (s.clampTrims).lanes = s.lanes ∧
    (s.clampTrims).heat = s.heat ∧ (s.clampTrims).splices = s.splices ∧ (s.clampTrims).units = s.units ∧
    (s.clampTrims).lineUnit = s.lineUnit ∧ (s.clampTrims).slots = s.slots ∧ (s.clampTrims).settings = s.settings ∧
    (s.clampTrims).line = s.line ∧ (s.clampTrims).estop = s.estop ∧ (s.clampTrims).links = s.links ∧
    (s.clampTrims).pending = s.pending := by
  unfold State.clampTrims
  refine ⟨?_, ?_, ?_, ?_, ?_, ?_, ?_, ?_, ?_, ?_, ?_, ?_, ?_, ?_, ?_, ?_⟩
  · exact foldl_same State.web _ (by intro s x; simp) _ _
  · exact foldl_same State.reader _ (by intro s x; simp) _ _
  · exact foldl_same State.nextSeq _ (by intro s x; simp) _ _
  · exact foldl_same State.outcomes _ (by intro s x; simp) _ _
  · exact foldl_same State.seqr _ (by intro s x; simp) _ _
  · exact foldl_same State.lanes _ (by intro s x; simp) _ _
  · exact foldl_same State.heat _ (by intro s x; simp) _ _
  · exact foldl_same State.splices _ (by intro s x; simp) _ _
  · exact foldl_same State.units _ (by intro s x; simp) _ _
  · exact foldl_same State.lineUnit _ (by intro s x; simp) _ _
  · exact foldl_same State.slots _ (by intro s x; simp) _ _
  · exact foldl_same State.settings _ (by intro s x; simp) _ _
  · exact foldl_same State.line _ (by intro s x; simp) _ _
  · exact foldl_same State.estop _ (by intro s x; simp) _ _
  · exact foldl_same State.links _ (by intro s x; simp) _ _
  · exact foldl_same State.pending _ (by intro s x; simp) _ _

@[simp] theorem State.switchTo_frame (s : State) (j : Slot) :
    (s.switchTo j).web = s.web ∧ (s.switchTo j).nextSeq = s.nextSeq ∧ (s.switchTo j).outcomes = s.outcomes ∧
    (s.switchTo j).seqr = s.seqr ∧ (s.switchTo j).lanes = s.lanes ∧ (s.switchTo j).splices = s.splices ∧
    (s.switchTo j).units = s.units ∧ (s.switchTo j).lineUnit = s.lineUnit ∧ (s.switchTo j).settings = s.settings ∧
    (s.switchTo j).line = s.line ∧ (s.switchTo j).estop = s.estop ∧ (s.switchTo j).pending = s.pending := by
  unfold State.switchTo
  try dsimp only
  repeat' split
  all_goals simp

@[simp] theorem State.busyAnswer_frame (s : State) (p : Port) (tag : Tag) (code : Byte) :
    (s.busyAnswer p tag code).web = s.web ∧ (s.busyAnswer p tag code).reader = s.reader ∧
    (s.busyAnswer p tag code).track = s.track ∧ (s.busyAnswer p tag code).nextSeq = s.nextSeq ∧
    (s.busyAnswer p tag code).outcomes = s.outcomes ∧ (s.busyAnswer p tag code).calcs = s.calcs ∧
    (s.busyAnswer p tag code).seqr = s.seqr ∧ (s.busyAnswer p tag code).lanes = s.lanes ∧
    (s.busyAnswer p tag code).heat = s.heat ∧ (s.busyAnswer p tag code).splices = s.splices ∧
    (s.busyAnswer p tag code).units = s.units ∧ (s.busyAnswer p tag code).lineUnit = s.lineUnit ∧
    (s.busyAnswer p tag code).stopReq = s.stopReq ∧ (s.busyAnswer p tag code).watches = s.watches ∧
    (s.busyAnswer p tag code).slots = s.slots ∧ (s.busyAnswer p tag code).settings = s.settings ∧
    (s.busyAnswer p tag code).line = s.line ∧ (s.busyAnswer p tag code).estop = s.estop ∧
    (s.busyAnswer p tag code).links = s.links ∧ (s.busyAnswer p tag code).pending = s.pending := by
  unfold State.busyAnswer
  try dsimp only
  repeat' split
  all_goals simp

@[simp] theorem State.stationCarrierReturn_frame (s : State) (st : Idx) :
    (s.stationCarrierReturn st).web = s.web ∧ (s.stationCarrierReturn st).reader = s.reader ∧
    (s.stationCarrierReturn st).track = s.track ∧ (s.stationCarrierReturn st).nextSeq = s.nextSeq ∧
    (s.stationCarrierReturn st).outcomes = s.outcomes ∧ (s.stationCarrierReturn st).calcs = s.calcs ∧
    (s.stationCarrierReturn st).seqr = s.seqr ∧ (s.stationCarrierReturn st).lanes = s.lanes ∧
    (s.stationCarrierReturn st).splices = s.splices ∧ (s.stationCarrierReturn st).units = s.units ∧
    (s.stationCarrierReturn st).lineUnit = s.lineUnit ∧ (s.stationCarrierReturn st).stopReq = s.stopReq ∧
    (s.stationCarrierReturn st).watches = s.watches ∧ (s.stationCarrierReturn st).slots = s.slots ∧
    (s.stationCarrierReturn st).settings = s.settings ∧ (s.stationCarrierReturn st).line = s.line ∧
    (s.stationCarrierReturn st).estop = s.estop ∧ (s.stationCarrierReturn st).ports = s.ports ∧
    (s.stationCarrierReturn st).pending = s.pending := by
  unfold State.stationCarrierReturn
  try dsimp only
  repeat' split
  all_goals simp

end Sys2Proof.Machine
end

