-- ==== Sys2Proof/Laws/Requests.lean ====
section
/-! SUPPORT. What serving a request does: the request that is taken, the reply that is formed, and the operations that commute
with freeing its port (R188). -/

namespace Sys2Proof.Machine

theorem State.serve_taken {s : State} {hdr : ReqHdr} {make : ReqHdr → Instr} {code : Byte} {take : State → State × Answer}
    (h : s.takes hdr make) : s.serve hdr make code take = s.answer hdr code take := by
  obtain ⟨hc, ⟨h1, h2⟩ | ⟨h1, h2⟩⟩ := h <;> simp [State.serve, hc, h1, h2]
/-- A port with nothing in service. -/
def PortState.free (p : PortState) : PortState := { p with inService := none }

theorem State.answer_eq (s : State) (hdr : ReqHdr) (code : Byte) (take : State → State × Answer) :
    s.answer hdr code take = (take (s.updPort hdr.port PortState.free)).1.reply hdr.port hdr.tag code (take (s.updPort hdr.port PortState.free)).2 := rfl

theorem State.reply_free (s : State) (hdr : ReqHdr) (code : Byte) (a : Answer) :
    (s.updPort hdr.port PortState.free).reply hdr.port hdr.tag code a = s.answered hdr code a.result a.body := by
  cases hp : hdr.port <;> simp [State.reply, State.updPort, Three.upd, State.answered, hp, PortState.free]

theorem PortState.offer_free (p : PortState) (n : Notice) : p.free.offer n = (p.offer n).free := by
  unfold PortState.offer PortState.free
  dsimp only
  split <;> rfl

theorem State.offer_free (s : State) (p : Port) (n : Notice) :
    (s.updPort p PortState.free).offer n = (s.offer n).updPort p PortState.free := by
  cases p <;> simp [State.offer, State.updPort, Three.upd, Three.tab, Three.get, Three.set, PortState.offer_free]

theorem State.offerTo_free (s : State) (p q : Port) (n : Notice) :
    (s.updPort p PortState.free).offerTo q n = (s.offerTo q n).updPort p PortState.free := by
  cases p <;> cases q <;> simp [State.offerTo, State.updPort, Three.upd, Three.get, Three.set, PortState.offer_free]

theorem State.offerIf_free (s : State) (p : Port) (b : Bool) (n : Notice) :
    (s.updPort p PortState.free).offerIf b n = (s.offerIf b n).updPort p PortState.free := by
  cases b <;> simp [State.offerIf, State.offer_free]

theorem State.setUnit_free (s : State) (p : Port) (u : UnitId) (x : FaultUnit) :
    (s.updPort p PortState.free).setUnit u x = (s.setUnit u x).updPort p PortState.free := by
  cases u <;> rfl

theorem State.unit_free (s : State) (p : Port) (f : PortState → PortState) (u : UnitId) : (s.updPort p f).unit u = s.unit u := by
  cases u <;> rfl

@[simp] theorem State.unit_setUnit (s : State) (u : UnitId) (x : FaultUnit) : (s.setUnit u x).unit u = x := by
  cases u <;> simp [State.setUnit, State.unit]

@[simp] theorem State.unit_offerIf (s : State) (u : UnitId) (b : Bool) (n : Notice) : (s.offerIf b n).unit u = s.unit u := by
  cases u <;> cases b <;> rfl

theorem State.assertStop_free (s : State) (p : Port) (c : StopCause) :
    (s.updPort p PortState.free).assertStop c = (s.assertStop c).updPort p PortState.free := by
  unfold State.assertStop
  rw [← State.offer_free]; rfl

theorem State.updWatch_free (s : State) (p : Port) (w : Idx) (f : Watch → Watch) :
    (s.updPort p PortState.free).updWatch w f = (s.updWatch w f).updPort p PortState.free := rfl

theorem State.updRecord_free (s : State) (p : Port) (q : SeqNo) (f : TrackRecord → TrackRecord) :
    (s.updPort p PortState.free).updRecord q f = (s.updRecord q f).updPort p PortState.free := rfl

theorem State.meetWatch_free (s : State) (p : Port) (w : Idx) (q : Option SeqNo) :
    (s.updPort p PortState.free).meetWatch w q = (s.meetWatch w q).updPort p PortState.free := by
  unfold State.meetWatch
  dsimp only
  simp only [State.updPort_frame, State.updWatch_free]
  (repeat' split) <;> simp_all [State.offerTo_free, State.updRecord_free, State.assertStop_free]
@[simp] theorem PortState.offer_tx (p : PortState) (n : Notice) : (p.offer n).tx = p.tx := by
  unfold PortState.offer; split <;> rfl
@[simp] theorem State.offer_tx (s : State) (n : Notice) (p : Port) : ((s.offer n).ports.get p).tx = (s.ports.get p).tx := by
  simp [State.offer]
@[simp] theorem State.offerTo_tx (s : State) (n : Notice) (p q : Port) : ((s.offerTo q n).ports.get p).tx = (s.ports.get p).tx := by
  simp only [State.offerTo, Three.get_set]; split <;> simp_all
@[simp] theorem State.assertStop_tx (s : State) (c : StopCause) (p : Port) : ((s.assertStop c).ports.get p).tx = (s.ports.get p).tx := by
  simp [State.assertStop]
@[simp] theorem State.meetWatch_tx (s : State) (w : Idx) (q : Option SeqNo) (p : Port) :
    ((s.meetWatch w q).ports.get p).tx = (s.ports.get p).tx := by
  unfold State.meetWatch; dsimp only; (repeat' split) <;> simp

theorem deniedAnswer {s : State} {hdr : ReqHdr} {code : Byte} {take : State → State × Answer} (hp : hdr.port ≠ .line) :
    s.answer hdr code (lineOnly hdr take) = s.answered hdr code .denied .empty := by
  simp [State.answer, lineOnly, hp, State.answered, State.reply, State.updPort, Answer.bare, Three.upd]

theorem findRecord_map (q : SeqNo) (f : TrackRecord → TrackRecord) (hf : ∀ r, (f r).seq = r.seq) (l : List TrackRecord) :
    findRecord q (l.map fun r => if r.seq = q then f r else r) = (findRecord q l).map f := by
  induction l with
  | nil => rfl
  | cons r rs ih => 
    by_cases h : r.seq = q
    · simp [findRecord, h, hf]
    · simp [findRecord, h, ih]

theorem meetWatch_watch (t : State) (w : Idx) (q : Option SeqNo) : (t.meetWatch w q).watches = t.watches.upd w fun u => 
    { u with hit := true, lastHit := some { h := t.web.h, line := t.line, seq := q },
             armed := if (match (t.watches.get w).condition with | some c => c.oneShot | none => false) then false else u.armed, 
             inside := if (match (t.watches.get w).condition with | some c => c.oneShot | none => false) then u.inside else true } := by
  unfold State.meetWatch
  dsimp only
  (repeat' split) <;> simp_all [State.updWatch]

end Sys2Proof.Machine
end

