-- ==== Sys2Proof/Laws/Effects.lean ====
section
/-! SUPPORT. What the shared operations do to single items: the transmitters of the ports, the seqs of the track, the claimed part
of a watch unit, and the calculator's items. -/

namespace Sys2Proof.Machine

/-! ### Watch units (R171, R174) -/

/-- Meeting a unit leaves its claim as it is. -/
@[simp] theorem State.meetWatch_claim (s : State) (w : Idx) (q : Option SeqNo) (v : Idx) :
    ((s.meetWatch w q).watches.get v).enabled = (s.watches.get v).enabled ∧
    ((s.meetWatch w q).watches.get v).owner = (s.watches.get v).owner ∧
    ((s.meetWatch w q).watches.get v).scope = (s.watches.get v).scope ∧
    ((s.meetWatch w q).watches.get v).action = (s.watches.get v).action ∧
    ((s.meetWatch w q).watches.get v).condition = (s.watches.get v).condition := by
  rw [meetWatch_watch]
  by_cases h : v = w
  · subst h; simp
  · simp [h]

@[simp] theorem State.updRecord_seqs (s : State) (q : SeqNo) (f : TrackRecord → TrackRecord) (hf : ∀ r, (f r).seq = r.seq) :
    (s.updRecord q f).track.map (·.seq) = s.track.map (·.seq) := by
  simp only [State.updRecord, List.map_map]
  apply List.map_congr_left
  intro r _
  simp only [Function.comp]
  split <;> simp [hf]

@[simp] theorem State.meetWatch_seqs (s : State) (w : Idx) (q : Option SeqNo) :
    (s.meetWatch w q).track.map (·.seq) = s.track.map (·.seq) := by
  unfold State.meetWatch
  dsimp only
  (repeat' split) <;> first
    | (simp; done)
    | (rw [State.updRecord_seqs _ _ _ (fun _ => rfl)]; simp)

@[simp] theorem State.testLevel_claim (s : State) (w : Idx) (b : Bool) (v : Idx) :
    ((s.testLevel w b).watches.get v).enabled = (s.watches.get v).enabled ∧
    ((s.testLevel w b).watches.get v).owner = (s.watches.get v).owner ∧
    ((s.testLevel w b).watches.get v).scope = (s.watches.get v).scope ∧
    ((s.testLevel w b).watches.get v).action = (s.watches.get v).action ∧
    ((s.testLevel w b).watches.get v).condition = (s.watches.get v).condition := by
  unfold State.testLevel
  (repeat' split)
  · simp
  · simp
  · simp only [State.updWatch]
    by_cases h : v = w
    · subst h; simp
    · simp [h]

@[simp] theorem State.testLevel_seqs (s : State) (w : Idx) (b : Bool) :
    (s.testLevel w b).track.map (·.seq) = s.track.map (·.seq) := by
  unfold State.testLevel; (repeat' split) <;> simp

@[simp] theorem State.testLevel_tx (s : State) (w : Idx) (b : Bool) (p : Port) :
    ((s.testLevel w b).ports.get p).tx = (s.ports.get p).tx := by
  unfold State.testLevel; (repeat' split) <;> simp

@[simp] theorem State.trimChanged_tx (s : State) (st : Idx) (p : Port) :
    ((s.trimChanged st).ports.get p).tx = (s.ports.get p).tx := by
  unfold State.trimChanged
  refine foldl_same (fun s => (s.ports.get p).tx) _ (fun s x => ?_) _ _
  try dsimp only
  repeat' split
  all_goals first | rfl | simp

@[simp] theorem State.laneChanged_tx (s : State) (st c : Idx) (p : Port) :
    ((s.laneChanged st c).ports.get p).tx = (s.ports.get p).tx := by
  unfold State.laneChanged
  refine foldl_same (fun s => (s.ports.get p).tx) _ (fun s x => ?_) _ _
  try dsimp only
  repeat' split
  all_goals first | rfl | simp

@[simp] theorem State.trimChanged_seqs (s : State) (st : Idx) :
    (s.trimChanged st).track.map (·.seq) = s.track.map (·.seq) := by
  unfold State.trimChanged
  refine foldl_same (fun s => s.track.map (·.seq)) _ (fun s x => ?_) _ _
  try dsimp only
  repeat' split
  all_goals first | rfl | simp

@[simp] theorem State.laneChanged_seqs (s : State) (st c : Idx) :
    (s.laneChanged st c).track.map (·.seq) = s.track.map (·.seq) := by
  unfold State.laneChanged
  refine foldl_same (fun s => s.track.map (·.seq)) _ (fun s x => ?_) _ _
  try dsimp only
  repeat' split
  all_goals first | rfl | simp

@[simp] theorem State.trimChanged_enabled (s : State) (st v : Idx) :
    ((s.trimChanged st).watches.get v).enabled = (s.watches.get v).enabled := by
  unfold State.trimChanged
  refine foldl_same (fun s => (s.watches.get v).enabled) _ (fun s x => ?_) _ _
  try dsimp only
  repeat' split
  all_goals first | rfl | simp

/-! ### Trims (R56) -/

@[simp] theorem State.setTrim_calcs (s : State) (st : Idx) (t : Int) :
    (s.setTrim st t).calcs = s.calcs.upd st fun c => { c with trim := t } := by
  unfold State.setTrim
  split
  · rename_i h; subst h; exact (Four.set_get _ _).symm
  · simp [State.updCalc]

@[simp] theorem State.setTrim_tx (s : State) (st : Idx) (t : Int) (p : Port) :
    ((s.setTrim st t).ports.get p).tx = (s.ports.get p).tx := by
  unfold State.setTrim; split <;> simp

@[simp] theorem State.setTrim_seqs (s : State) (st : Idx) (t : Int) :
    (s.setTrim st t).track.map (·.seq) = s.track.map (·.seq) := by
  unfold State.setTrim; split <;> simp

@[simp] theorem State.setTrim_enabled (s : State) (st : Idx) (t : Int) (v : Idx) :
    ((s.setTrim st t).watches.get v).enabled = (s.watches.get v).enabled := by
  unfold State.setTrim; split <;> simp

/-! ### Faults (R153 to R156) -/

@[simp] theorem State.raise_tx (s : State) (ev : FaultEvent) (p : Port) : ((s.raise ev).ports.get p).tx = (s.ports.get p).tx := by
  unfold State.raise State.writeLatest State.raiseHard
  dsimp only
  (repeat' split) <;> simp

/-- A fault of the line unit leaves the station units as they are. -/
theorem State.raise_line_units (s : State) (ev : FaultEvent) (h : ev.unit = .line) : (s.raise ev).units = s.units := by
  unfold State.raise State.writeLatest State.raiseHard
  dsimp only
  (repeat' split) <;> simp [h, State.setUnit]

/-- A fault of a station unit leaves the line unit and the other stations' units as they are. -/
theorem State.raise_station_others (s : State) (ev : FaultEvent) (st : Idx) (h : ev.unit = .station st) :
    (s.raise ev).lineUnit = s.lineUnit ∧ ∀ v, v ≠ st → (s.raise ev).units.get v = s.units.get v := by
  unfold State.raise State.writeLatest State.raiseHard
  dsimp only
  (repeat' split) <;> simp [h, State.setUnit] <;> intro v hv <;> simp [hv]

/-- A warning leaves flags and first-fault records as they are. -/
theorem State.raise_warning (s : State) (ev : FaultEvent) (h : ev.kind.cls = .warning) :
    s.raise ev = s.writeLatest ev .warning := by
  unfold State.raise; rw [h]

theorem State.unit_setUnit_ne (s : State) {u v : UnitId} (f : FaultUnit) (h : v ≠ u) : (s.setUnit u f).unit v = s.unit v := by
  cases u <;> cases v <;> simp_all [State.setUnit, State.unit]

@[simp] theorem State.writeLatest_flags (s : State) (ev : FaultEvent) (e : Effect) (u : UnitId) :
    ((s.writeLatest ev e).unit u).soft = (s.unit u).soft ∧ ((s.writeLatest ev e).unit u).hard = (s.unit u).hard ∧
    ((s.writeLatest ev e).unit u).tripped = (s.unit u).tripped ∧ ((s.writeLatest ev e).unit u).first = (s.unit u).first := by
  unfold State.writeLatest
  by_cases h : u = ev.unit
  · subst h; simp
  · simp [State.unit_setUnit_ne _ _ h]

@[simp] theorem State.offer_unit (s : State) (n : Notice) (u : UnitId) : (s.offer n).unit u = s.unit u := by cases u <;> rfl

@[simp] theorem State.assertStop_unit (s : State) (c : StopCause) (u : UnitId) : (s.assertStop c).unit u = s.unit u := by
  cases u <;> rfl

/-- What a raise does to a unit's flags and its first-fault record (R154, R155, R160). -/
structure Raised (u v : FaultUnit) : Prop where
  soft : u.soft = true → v.soft = true
  hard : u.hard = true → v.hard = true
  tripped : u.tripped = true → v.tripped = true
  first : ∀ r, u.first = some r → v.first = some r

theorem Raised.refl (u : FaultUnit) : Raised u u := ⟨id, id, id, fun _ h => h⟩

theorem Raised.trans {u v w : FaultUnit} (a : Raised u v) (b : Raised v w) : Raised u w :=
  ⟨fun h => b.soft (a.soft h), fun h => b.hard (a.hard h), fun h => b.tripped (a.tripped h), fun r h => b.first r (a.first r h)⟩

theorem State.raiseHard_raised (s : State) (ev : FaultEvent) (u : UnitId) : Raised (s.unit u) ((s.raiseHard ev).unit u) := by
  unfold State.raiseHard
  dsimp only
  by_cases h : u = ev.unit
  · subst h
    split <;> simp only [State.offer_unit, State.assertStop_unit, State.unit_setUnit, FaultUnit.fillFirst] <;>
      refine ⟨by simp_all, by simp_all, by simp_all, ?_⟩ <;> intro r hr <;> simp [hr]
  · split <;> simp [State.unit_setUnit_ne _ _ h, Raised.refl]

theorem State.writeLatest_raised (s : State) (ev : FaultEvent) (e : Effect) (u : UnitId) :
    Raised (s.unit u) ((s.writeLatest ev e).unit u) := by
  obtain ⟨h1, h2, h3, h4⟩ := s.writeLatest_flags ev e u
  exact ⟨by simp [h1], by simp [h2], by simp [h3], by simp [h4]⟩

/-- A raise only sets flags and only fills an empty first-fault record. -/
theorem State.raise_raised (s : State) (ev : FaultEvent) (u : UnitId) : Raised (s.unit u) ((s.raise ev).unit u) := by
  unfold State.raise
  split
  · exact s.writeLatest_raised _ _ _
  · split
    · rw [State.offer_unit]
      refine Raised.trans ?_ (State.writeLatest_raised _ _ _ _)
      by_cases h : u = ev.unit
      · subst h; rw [State.unit_setUnit]; exact ⟨by simp, id, id, fun _ h => h⟩
      · rw [State.unit_setUnit_ne _ _ h]; exact .refl _
    · exact (s.raiseHard_raised ev u).trans (State.writeLatest_raised _ _ _ _)
  · exact s.raiseHard_raised ev u

end Sys2Proof.Machine
end

