-- ==== Sys2Proof/Laws/Notices.lean ====
section
/-! SUPPORT. The order of the notices (R166): each has a place of its own, and joining a set keeps the set in that order with each
pair once (R165). -/

namespace Sys2Proof.Machine

theorem unitIndex_lt (u : UnitId) : unitIndex u < 5 := by
  cases u with
  | line => decide
  | station s => cases s <;> decide

theorem unitIndex_inj (u v : UnitId) (h : unitIndex u = unitIndex v) : u = v := by
  rcases u with s | _ <;> rcases v with t | _ <;> (try cases s) <;> (try cases t) <;> simp [unitIndex, Idx.toNat] at h ⊢

theorem idx_toNat_lt (s : Idx) : s.toNat < 4 := by cases s <;> decide

theorem idx_toNat_inj (s t : Idx) (h : s.toNat = t.toNat) : s = t := by cases s <;> cases t <;> simp [Idx.toNat] at h ⊢

theorem laneIndex_inj (s c s' c' : Idx) (h : laneIndex s c = laneIndex s' c') : s = s' ∧ c = c' := by
  unfold laneIndex at h
  have := idx_toNat_lt s; have := idx_toNat_lt c; have := idx_toNat_lt s'; have := idx_toNat_lt c'
  exact ⟨idx_toNat_inj _ _ (by omega), idx_toNat_inj _ _ (by omega)⟩

theorem laneIndex_lt (s c : Idx) : laneIndex s c < 16 := by
  unfold laneIndex
  have := idx_toNat_lt s; have := idx_toNat_lt c; omega

theorem Notice.rank_inj (a b : Notice) (h : a.rank = b.rank) : a = b := by
  cases a <;> cases b <;> simp only [Notice.rank] at h <;> first
    | rfl
    | (rename_i u v; rw [unitIndex_inj u v (by omega)]; done)
    | (rename_i u v; rw [idx_toNat_inj u v (by omega)]; done)
    | (rename_i s c s' c'; obtain ⟨rfl, rfl⟩ := laneIndex_inj s c s' c' (by omega); rfl)
    | (exfalso; rename_i u v; have := unitIndex_lt u; have := unitIndex_lt v; omega)
    | (exfalso; rename_i u s c; have := unitIndex_lt u; have := laneIndex_lt s c; omega)
    | (exfalso; rename_i s c u; have := unitIndex_lt u; have := laneIndex_lt s c; omega)
    | (exfalso; rename_i s c s' c'; have := laneIndex_lt s' c'; have := laneIndex_lt s c; omega)
    | (exfalso; rename_i w s c; have := idx_toNat_lt w; have := laneIndex_lt s c; omega)
    | (exfalso; rename_i s c w; have := idx_toNat_lt w; have := laneIndex_lt s c; omega)
    | (exfalso; rename_i u w; have := unitIndex_lt u; have := idx_toNat_lt w; omega)
    | (exfalso; rename_i w u; have := unitIndex_lt u; have := idx_toNat_lt w; omega)
    | (exfalso; rename_i u; have := unitIndex_lt u; omega)
    | (exfalso; rename_i u; have := idx_toNat_lt u; omega)
    | (exfalso; rename_i s c; have := laneIndex_lt s c; omega)
    | omega

theorem joinNotice_mem (n : Notice) (u : Bool) (l : List PendingNotice) (h : (l.map fun x => x.notice.rank).Pairwise (· < ·)) (x : PendingNotice) :
    x ∈ joinNotice n u l ↔
      (x.notice ≠ n ∧ x ∈ l) ∨ x = ⟨n, u || l.any fun y => decide (y.notice = n) && y.urgent⟩ := by
  induction l with
  | nil => simp [joinNotice]
  | cons y ys ih =>
    simp only [List.map_cons, List.pairwise_cons] at h
    have hlt : ∀ z ∈ ys, y.notice.rank < z.notice.rank := fun z hz => h.1 _ (List.mem_map.2 ⟨z, hz, rfl⟩)
    simp only [joinNotice]
    split
    · rename_i e
      have hno : ∀ z ∈ ys, z.notice ≠ n := by
        intro z hz e'; have := hlt z hz; rw [e, e'] at this; omega
      have : (ys.any fun y => decide (y.notice = n) && y.urgent) = false := by
        simp only [List.any_eq_false, Bool.and_eq_true, decide_eq_true_eq, not_and]
        intro z hz e'; exact absurd e' (hno z hz)
      simp only [List.mem_cons, List.any_cons, e, decide_true, Bool.true_and, this, Bool.or_false, Bool.or_comm]
      constructor
      · rintro (h | h)
        · exact .inr h
        · exact .inl ⟨hno x h, .inr h⟩
      · rintro (⟨h1, h2 | h2⟩ | h)
        · subst h2; exact absurd e h1
        · exact .inr h2
        · exact .inl h
    · rename_i e
      split
      · rename_i e2
        have hno : ∀ z ∈ ys, z.notice ≠ n := by
          intro z hz e'; have := hlt z hz; rw [e'] at this; omega
        have : ((y :: ys).any fun y => decide (y.notice = n) && y.urgent) = false := by
          simp only [List.any_eq_false, Bool.and_eq_true, decide_eq_true_eq, not_and, List.mem_cons]
          rintro z (rfl | hz) e'
          · exact absurd e' e
          · exact absurd e' (hno z hz)
        rw [this]
        simp only [List.mem_cons, Bool.or_false]
        constructor
        · rintro (h | rfl | h)
          · exact .inr h
          · exact .inl ⟨e, .inl rfl⟩
          · exact .inl ⟨hno x h, .inr h⟩
        · rintro (⟨-, h⟩ | h)
          · exact .inr h
          · exact .inl h
      · simp only [List.mem_cons, ih h.2, List.any_cons, e, decide_false, Bool.false_and, Bool.false_or]
        constructor
        · rintro (rfl | ⟨h1, h2⟩ | h)
          · exact .inl ⟨e, .inl rfl⟩
          · exact .inl ⟨h1, .inr h2⟩
          · exact .inr h
        · rintro (⟨h1, h2 | h2⟩ | h)
          · exact .inl h2
          · exact .inr (.inl ⟨h1, h2⟩)
          · exact .inr (.inr h)

theorem joinNotice_sorted (n : Notice) (u : Bool) (l : List PendingNotice) (h : (l.map fun x => x.notice.rank).Pairwise (· < ·)) :
    ((joinNotice n u l).map fun x => x.notice.rank).Pairwise (· < ·) := by
  induction l with
  | nil => simp [joinNotice]
  | cons y ys ih =>
    simp only [joinNotice]
    split
    · rename_i e; rw [← e]; simpa using h
    · rename_i e
      have h' := h
      simp only [List.map_cons, List.pairwise_cons] at h
      split
      · rename_i e2
        simp only [List.map_cons, List.pairwise_cons]
        refine ⟨?_, h⟩
        intro a ha
        rcases List.mem_cons.1 ha with rfl | ha
        · exact e2
        · have := h.1 a ha; omega
      · rename_i e2
        simp only [List.map_cons, List.pairwise_cons]
        refine ⟨?_, ih h.2⟩
        intro a ha
        obtain ⟨x, hx, rfl⟩ := List.mem_map.1 ha
        rcases (joinNotice_mem n u ys h.2 x).1 hx with ⟨-, hx⟩ | hx
        · exact h.1 _ (List.mem_map.2 ⟨x, hx, rfl⟩)
        · subst hx
          have : n.rank ≠ y.notice.rank := fun e' => e (Notice.rank_inj _ _ e').symm
          simp only; omega

/-- Offering a notice keeps the order of the set. -/
theorem PortState.offer_sorted (p : PortState) (n : Notice) (h : (p.pending.map fun x => x.notice.rank).Pairwise (· < ·)) :
    ((p.offer n).pending.map fun x => x.notice.rank).Pairwise (· < ·) := by
  unfold PortState.offer
  split
  · exact h
  · exact joinNotice_sorted _ _ _ h
  · exact joinNotice_sorted _ _ _ h

end Sys2Proof.Machine
end

