-- ==== Sys2Proof/Laws/Heat.lean ====
section
/-! SUPPORT. The zones and the power slots: reading a changed zone, counting the slots held, and what the grant pass keeps (R104,
R110, R113). -/

namespace Sys2Proof.Machine

/-! ### Zones -/

@[simp] theorem State.zone_updZone_same (s : State) (st z : Idx) (f : Zone → Zone) :
    (s.updZone st z f).zone st z = f (s.zone st z) := by
  simp [State.zone, State.updZone]

theorem State.zone_updZone (s : State) (st z st' z' : Idx) (f : Zone → Zone) :
    (s.updZone st z f).zone st' z' = if (st', z') = (st, z) then f (s.zone st z) else s.zone st' z' := by
  by_cases h : st' = st
  · subst h
    by_cases h' : z' = z
    · subst h'; simp
    · simp [State.zone, State.updZone, h']
  · simp [State.zone, State.updZone, h]

@[simp] theorem State.updZone_order (s : State) (st z : Idx) (f : Zone → Zone) : (s.updZone st z f).heat.order = s.heat.order := rfl

@[simp] theorem State.setOrder_zone (s : State) (f : List (Idx × Idx) → List (Idx × Idx)) (st z : Idx) :
    (s.setOrder f).zone st z = s.zone st z := rfl

@[simp] theorem State.setOrder_order (s : State) (f : List (Idx × Idx) → List (Idx × Idx)) :
    (s.setOrder f).heat.order = f s.heat.order := rfl

/-! ### Counting -/

/-- Two tests that differ at one place of a list without repeats differ there in their counts. -/
theorem countP_change {α : Type} [DecidableEq α] (f g : α → Bool) (p : α) (h : ∀ x, x ≠ p → f x = g x) (l : List α)
    (hl : l.Nodup) (hp : p ∈ l) : l.countP f + (if g p then 1 else 0) = l.countP g + (if f p then 1 else 0) := by
  induction l with
  | nil => simp at hp
  | cons x xs ih =>
    simp only [List.countP_cons]
    by_cases hx : x = p
    · subst hx
      have : xs.countP f = xs.countP g := by
        apply List.countP_congr
        intro y hy
        have : y ≠ x := by rintro rfl; exact (List.nodup_cons.1 hl).1 hy
        rw [h y this]
      omega
    · have := ih (List.nodup_cons.1 hl).2 ((List.mem_cons.1 hp).resolve_left (Ne.symm hx))
      rw [h x hx]
      omega

theorem mem_defaultOrder (p : Idx × Idx) : p ∈ Heat.defaultOrder := by
  obtain ⟨a, b⟩ := p
  cases a <;> cases b <;> decide

theorem nodup_defaultOrder : Heat.defaultOrder.Nodup := by decide

theorem slotsHeld_countP (s : State) : s.slotsHeld = Heat.defaultOrder.countP fun p => (s.zone p.1 p.2).inService := by
  rw [List.countP_eq_length_filter]; rfl

/-- One zone changed changes the count of the slots by its own. -/
theorem slotsHeld_updZone (s : State) (st z : Idx) (f : Zone → Zone) :
    (s.updZone st z f).slotsHeld + (if (s.zone st z).inService then 1 else 0) =
      s.slotsHeld + (if (f (s.zone st z)).inService then 1 else 0) := by
  rw [slotsHeld_countP, slotsHeld_countP]
  have h := countP_change (fun p : Idx × Idx => ((s.updZone st z f).zone p.1 p.2).inService)
    (fun p => (s.zone p.1 p.2).inService) (st, z)
    (by intro x hx; simp only [State.zone_updZone]; rw [if_neg hx]) Heat.defaultOrder nodup_defaultOrder (mem_defaultOrder _)
  simpa using h

/-- The zones in service are as many as the slots held, where the order ranks each zone once. -/
theorem served_length (s : State) (h : s.heat.order.Perm Heat.defaultOrder) : s.served.length = s.slotsHeld := by
  unfold State.served State.slotsHeld
  exact (h.filter _).length_eq

/-- States with the same zones hold the same slots. -/
theorem slotsHeld_congr {s t : State} (h : t.heat.zones = s.heat.zones) : t.slotsHeld = s.slotsHeld := by
  unfold State.slotsHeld State.zone; rw [h]

/-! ### The priority order (R104) -/

theorem rotate_perm (p : Idx × Idx) (l : List (Idx × Idx)) (h : l.Perm Heat.defaultOrder) :
    (rotateToLowest p l).Perm Heat.defaultOrder := by
  refine List.Perm.trans ?_ h
  have hm : p ∈ l := h.mem_iff.2 (mem_defaultOrder p)
  have hn : l.Nodup := h.nodup_iff.2 nodup_defaultOrder
  unfold rotateToLowest
  rw [List.perm_iff_count]
  intro a
  by_cases ha : a = p
  · subst ha
    rw [List.count_append, List.count_eq_zero_of_not_mem (by simp), List.count_eq_one_of_mem hn hm]; simp
  · rw [List.count_append, List.count_filter (by simp [ha])]
    simp [List.count_cons, Ne.symm ha]

theorem turn_perm (p : Idx × Idx) (l : List (Idx × Idx)) (h : l.Perm Heat.defaultOrder) :
    (turnToLowest p l).Perm Heat.defaultOrder := by
  refine List.Perm.trans ?_ h
  have hm : p ∈ l := h.mem_iff.2 (mem_defaultOrder p)
  unfold turnToLowest
  have e : l = l.takeWhile (fun x => decide (x ≠ p)) ++ p :: (l.dropWhile fun x => decide (x ≠ p)).tail := by
    conv_lhs => rw [← List.takeWhile_append_dropWhile (p := fun x => decide (x ≠ p)) (l := l)]
    congr 1
    clear h
    induction l with
    | nil => simp at hm
    | cons x xs ih =>
      by_cases hx : x = p
      · subst hx; simp [List.dropWhile_cons]
      · rw [List.dropWhile_cons]
        simp only [ne_eq, hx, not_false_eq_true, decide_true, if_true]
        exact ih ((List.mem_cons.1 hm).resolve_left (Ne.symm hx))
  conv_rhs => rw [e]
  have : ∀ a b : List (Idx × Idx), (b ++ a ++ [p]).Perm (a ++ p :: b) := by
    intro a b
    calc (b ++ a ++ [p]).Perm ([p] ++ (b ++ a)) := List.perm_append_comm
      _ |>.Perm ([p] ++ (a ++ b)) := List.Perm.append_left _ List.perm_append_comm
      _ |>.Perm (a ++ p :: b) := by simpa using List.perm_middle.symm
  exact this _ _

/-! ### The grant pass (R110, R113) -/

/-- What the grant pass keeps: the order, the masks and blocks, and readings; the slots held stay within N_SLOT; and a zone in
service is neither masked nor blocked. -/
structure HeatKept (s t : State) : Prop where
  order : t.heat.order = s.heat.order
  settings : t.settings = s.settings
  slots : s.heat.order.Perm Heat.defaultOrder → s.slotsHeld ≤ s.settings.nSlot → t.slotsHeld ≤ t.settings.nSlot
  free : (∀ st z, (s.zone st z).inService = true → (s.zone st z).mask = false ∧ (s.zone st z).block = .none) →
    ∀ st z, (t.zone st z).inService = true → (t.zone st z).mask = false ∧ (t.zone st z).block = .none

theorem HeatKept.refl (s : State) : HeatKept s s := ⟨rfl, rfl, fun _ h => h, fun h => h⟩

theorem HeatKept.trans {s t u : State} (a : HeatKept s t) (b : HeatKept t u) : HeatKept s u :=
  ⟨b.order.trans a.order, b.settings.trans a.settings, fun h h' => b.slots (a.order ▸ h) (a.slots h h'), fun h => b.free (a.free h)⟩

theorem grantStep_kept {s t : State} (h : s.grantStep = some t) : HeatKept s t := by
  unfold State.grantStep at h
  split at h
  · exact absurd h (by simp)
  rename_i ch hch
  have hel := List.find?_some hch
  simp only [State.eligible, Bool.and_eq_true, Bool.not_eq_true', decide_eq_true_eq] at hel
  obtain ⟨⟨⟨⟨-, hr⟩, hm⟩, hb⟩, hi⟩ := hel
  split at h
  · rename_i hlt
    cases h
    refine ⟨rfl, rfl, ?_, ?_⟩
    · intro hp _
      rw [served_length s hp] at hlt
      have := slotsHeld_updZone s ch.1 ch.2 fun q => { q with slotTimer := some 0, request := false }
      simp only [State.grant]
      simp only [hi, Zone.inService, Option.isSome_some, if_true, Bool.false_eq_true, if_false] at this
      change (State.updZone s ch.1 ch.2 _).slotsHeld ≤ s.settings.nSlot
      omega
    · intro hf st z
      simp only [State.grant, State.zone_updZone]
      split
      · intro _; exact ⟨hm, hb⟩
      · exact hf st z
  · split at h
    · exact absurd h (by simp)
    split at h
    · rename_i v hv
      cases h
      have hv' := List.mem_of_getLast? hv
      simp only [State.displaceable, List.mem_filter] at hv'
      have hvi : (s.zone v.1 v.2).inService = true := by
        have := hv'.2
        unfold Zone.inService
        cases h : (s.zone v.1 v.2).slotTimer <;> simp_all
      have hne : (ch.1, ch.2) ≠ (v.1, v.2) := by
        intro e
        have : ch = v := e
        subst this
        rw [hvi] at hi; exact absurd hi (by simp)
      refine ⟨rfl, rfl, ?_, ?_⟩
      · intro _ hle
        have h1 := slotsHeld_updZone s v.1 v.2 fun q => { q with slotTimer := none, request := true }
        have h2 := slotsHeld_updZone (s.endSlot v.1 v.2 true) ch.1 ch.2 fun q => { q with slotTimer := some 0, request := false }
        have h3 : (s.endSlot v.1 v.2 true).zone ch.1 ch.2 = s.zone ch.1 ch.2 := by
          simp only [State.endSlot, State.zone_updZone]; rw [if_neg hne]
        rw [h3] at h2
        rw [hi] at h2
        rw [hvi] at h1
        simp only [Zone.inService, Option.isSome_some, Option.isSome_none, if_true, Bool.false_eq_true, if_false] at h1 h2
        change (State.updZone (s.endSlot v.1 v.2 true) ch.1 ch.2 _).slotsHeld ≤ s.settings.nSlot
        have h4 : (s.endSlot v.1 v.2 true).slotsHeld = (s.updZone v.1 v.2 fun q => { q with slotTimer := none, request := true }).slotsHeld := rfl
        omega
      · intro hf st z
        simp only [State.grant, State.endSlot, State.zone_updZone]
        split
        · intro _; exact ⟨hm, hb⟩
        · split
          · intro hh; simp [Zone.inService] at hh
          · exact hf st z
    · exact absurd h (by simp)

theorem grantLoop_kept (n : Nat) : ∀ s : State, HeatKept s (grantLoop n s) := by
  induction n with
  | zero => exact fun s => .refl s
  | succ n ih =>
    intro s
    unfold grantLoop
    split
    · rename_i t h
      exact (grantStep_kept h).trans (ih t)
    · exact .refl s

theorem handOnSet_kept (s : State) (st : Idx) : HeatKept s (s.handOnSet st) := by
  unfold State.handOnSet
  split
  · exact .refl s
  · exact ⟨rfl, rfl, fun _ h => h, fun h => h⟩

theorem foldl_kept {α : Type} (g : State → α → State) (h : ∀ s x, HeatKept s (g s x)) (l : List α) :
    ∀ s, HeatKept s (l.foldl g s) := by
  induction l with
  | nil => exact fun s => .refl s
  | cons x xs ih => exact fun s => (h s x).trans (ih _)

theorem grantPass_kept (s : State) : HeatKept s s.grantPass := by
  unfold State.grantPass
  exact (grantLoop_kept 16 s).trans (foldl_kept _ handOnSet_kept _ _)

/-! ### Ending slots -/

theorem endSlot_held_le (s : State) (st z : Idx) (b : Bool) : (s.endSlot st z b).slotsHeld ≤ s.slotsHeld := by
  have := slotsHeld_updZone s st z fun q => { q with slotTimer := none, request := b }
  simp only [Zone.inService, Option.isSome_none, Bool.false_eq_true, if_false] at this
  have e : (s.endSlot st z b).slotsHeld = (s.updZone st z fun q => { q with slotTimer := none, request := b }).slotsHeld := rfl
  omega

/-- The zones in service after ending the slots of a list of zones. -/
theorem foldl_endSlot_inService (l : List (Idx × Idx)) (b : Bool) : ∀ (s : State) (p : Idx × Idx),
    (((l.foldl (fun s p => s.endSlot p.1 p.2 b) s).zone p.1 p.2).inService = true ↔
      (s.zone p.1 p.2).inService = true ∧ p ∉ l) ∧
    (l.foldl (fun s p => s.endSlot p.1 p.2 b) s).heat.order = s.heat.order ∧
    (l.foldl (fun s p => s.endSlot p.1 p.2 b) s).settings = s.settings ∧
    ((l.foldl (fun s p => s.endSlot p.1 p.2 b) s).zone p.1 p.2).mask = (s.zone p.1 p.2).mask ∧
    ((l.foldl (fun s p => s.endSlot p.1 p.2 b) s).zone p.1 p.2).block = (s.zone p.1 p.2).block := by
  induction l with
  | nil => intro s p; simp
  | cons x xs ih =>
    intro s p
    obtain ⟨h1, h2, h3, h4, h5⟩ := ih (s.endSlot x.1 x.2 b) p
    rw [List.foldl_cons]
    refine ⟨?_, h2, h3, ?_, ?_⟩
    · rw [h1]
      simp only [State.endSlot, State.zone_updZone, List.mem_cons, not_or]
      by_cases e : p = x
      · subst e; simp [Zone.inService]
      · have : (p.1, p.2) ≠ (x.1, x.2) := e
        simp [this, e]
    · rw [h4]; simp only [State.endSlot, State.zone_updZone]
      split
      · rename_i e; have : p = x := e; subst this; rfl
      · rfl
    · rw [h5]; simp only [State.endSlot, State.zone_updZone]
      split
      · rename_i e; have : p = x := e; subst this; rfl
      · rfl

/-- Slots above N_SLOT end at an accepted write of the settings, and the pass keeps the bound (R120). -/
theorem heatSettings_held (s : State) (h : s.heat.order.Perm Heat.defaultOrder) : s.heatSettings.slotsHeld ≤ s.settings.nSlot := by
  unfold State.heatSettings
  have k := grantPass_kept ((s.served.drop s.settings.nSlot).foldl (fun s p => s.endSlot p.1 p.2 true) s)
  have hk := foldl_endSlot_inService (s.served.drop s.settings.nSlot) true s
  have hs := (hk (.i0, .i0)).2.2.1
  have ho := (hk (.i0, .i0)).2.1
  have := k.slots (by rw [ho]; exact h) ?_
  · rw [k.settings, hs] at this; exact this
  · rw [hs]
    rw [← served_length _ (by rw [ho]; exact h)]
    have hn : s.heat.order.Nodup := h.nodup_iff.2 nodup_defaultOrder
    have hsn : s.served.Nodup := hn.filter _
    have e : ((s.served.drop s.settings.nSlot).foldl (fun s p => s.endSlot p.1 p.2 true) s).served
          = s.served.take s.settings.nSlot := by
      have : ((s.served.drop s.settings.nSlot).foldl (fun s p => s.endSlot p.1 p.2 true) s).served
          = s.served.filter fun p => decide (p ∉ s.served.drop s.settings.nSlot) := by
        have hd : ∀ t : State, t.served = t.heat.order.filter fun p => (t.zone p.1 p.2).inService := fun _ => rfl
        rw [hd, ho]
        conv_rhs => rw [hd s]
        rw [List.filter_filter]
        apply List.filter_congr
        intro p _
        rw [Bool.eq_iff_iff, (hk p).1]
        simp only [Bool.and_eq_true, decide_eq_true_eq, ← hd s]
        tauto
      rw [this]
      have hd : ∀ x ∈ s.served.take s.settings.nSlot, x ∉ s.served.drop s.settings.nSlot := by
        intro x hx hx'
        exact List.disjoint_take_drop hsn (le_refl s.settings.nSlot) hx hx'
      have : s.served.filter (fun p => decide (p ∉ s.served.drop s.settings.nSlot)) =
          (s.served.take s.settings.nSlot ++ s.served.drop s.settings.nSlot).filter
            fun p => decide (p ∉ s.served.drop s.settings.nSlot) := by rw [List.take_append_drop]
      rw [this, List.filter_append, List.filter_eq_self.2 (by intro a ha; simpa using hd a ha),
        List.filter_eq_nil_iff.2 (by intro a ha; simpa using ha)]
      simp
    rw [e]
    simp

end Sys2Proof.Machine
end

