-- ==== Sys2Proof/Laws/Within.lean ====
section
/-! SUPPORT. What every effect within a command keeps, said once for each shared operation: the frames already formed, the order of
the notice sets, the causes of STOP REQUEST, the flags and first-fault records that only power-on, clearing and resets undo, the
claims of the watch units, the bounds of the lists and of the trims, the power slots, the seqs and verdicts of the track, the states
of the job slots, and the trips. -/

namespace Sys2Proof.Machine

/-- What of a track record only joining, leaving and a posted verdict change. -/
def recordKey (r : TrackRecord) : SeqNo × Slot × Four (Option Verdict) := (r.seq, r.slot, r.verdict)

/-- The TRIM_LIM of each station of a slot's record. -/
def JobSlot.trimLims (sl : JobSlot) : Option (Four (Option Nat)) :=
  sl.job.map fun r => .tab fun st => (r.stations.get st).map (·.trimLim)

/-- What of a job slot no descriptor's change touches. -/
def slotKey (sl : JobSlot) : SlotState × Nat × Option Nat × Option (Four (Option Nat)) :=
  (sl.state, sl.refs, sl.retireDist, sl.trimLims)

/-- The claim of a watch unit: all of it but armed, inside, hit and last hit. -/
def Watch.claim (u : Watch) : Option Port × Option WatchCondition × Option WatchAction × Option WatchScope × Bool :=
  (u.owner, u.condition, u.action, u.scope, u.enabled)

/-- What of a port no notice touches. -/
def PortState.still (p : PortState) : Bool × Option Instr × Routing × List Reply := (p.carrier, p.inService, p.routing, p.tx)

/-- What an effect within a command keeps of the blocks other than the track, the job slots and the trips. -/
structure Calm (s t : State) : Prop where
  ports : ∀ p, (t.ports.get p).still = (s.ports.get p).still
  notices : NoticesOrdered s → NoticesOrdered t
  stop : StopHasCause s → StopHasCause t
  units : ∀ u, Raised (s.unit u) (t.unit u)
  claims : ∀ w, (t.watches.get w).claim = (s.watches.get w).claim
  owned : WatchesOwned s → WatchesOwned t
  overdue : OverdueBounded s → OverdueBounded t
  outcomes : OutcomesBounded s → OutcomesBounded t
  heat : PowerLimited s → PowerLimited t
  settings : t.settings = s.settings
  trims : (∀ st, (s.calcs.get st).trim.natAbs ≤ s.trimLimit st) → ∀ st, (t.calcs.get st).trim.natAbs ≤ t.trimLimit st

/-- What an effect within a command keeps: beside the rest, the track's keys, the job slots' keys and the trips. -/
structure Within (s t : State) : Prop extends Calm s t where
  keys : t.track.map recordKey = s.track.map recordKey
  next : t.nextSeq = s.nextSeq
  slots : ∀ j, slotKey (t.slots.get j) = slotKey (s.slots.get j)
  trips : ∀ st, (t.seqr.get st).tripped = (s.seqr.get st).tripped

theorem Calm.trans {s t u : State} (a : Calm s t) (b : Calm t u) : Calm s u where
  ports p := (b.ports p).trans (a.ports p)
  notices h := b.notices (a.notices h)
  stop h := b.stop (a.stop h)
  units v := (a.units v).trans (b.units v)
  claims w := (b.claims w).trans (a.claims w)
  owned h := b.owned (a.owned h)
  overdue h := b.overdue (a.overdue h)
  outcomes h := b.outcomes (a.outcomes h)
  heat h := b.heat (a.heat h)
  settings := b.settings.trans a.settings
  trims h := b.trims (a.trims h)

theorem Within.trans {s t u : State} (a : Within s t) (b : Within t u) : Within s u where
  toCalm := a.toCalm.trans b.toCalm
  keys := b.keys.trans a.keys
  next := b.next.trans a.next
  slots j := (b.slots j).trans (a.slots j)
  trips st := (b.trips st).trans (a.trips st)

/-- The trim bound of a station is read off the slots' keys. -/
theorem State.trimLimit_of_keys {s t : State} (h : ∀ j, slotKey (t.slots.get j) = slotKey (s.slots.get j)) (st : Idx) :
    t.trimLimit st = s.trimLimit st := by
  have hs : ∀ j, (t.slots.get j).state = (s.slots.get j).state := fun j => congrArg (·.1) (h j)
  have hl : ∀ j, (t.slots.get j).trimLims = (s.slots.get j).trimLims := fun j => congrArg (·.2.2.2) (h j)
  have ha : t.active = s.active := by
    have h0 := hs .slot0
    have h1 := hs .slot1
    simp only [Two.get] at h0 h1
    simp only [State.active, h0, h1]
  have he : ∀ j, (t.entry j st).map (·.trimLim) = (s.entry j st).map (·.trimLim) := by
    intro j
    have := hl j
    simp only [JobSlot.trimLims] at this
    simp only [State.entry]
    cases ht : (t.slots.get j).job <;> cases hs' : (s.slots.get j).job <;> simp [ht, hs'] at this ⊢
    have e := congrArg (fun f => f.get st) this
    simpa using e
  simp only [State.trimLimit, State.activeEntry, ha]
  cases s.active with
  | none => rfl
  | some j =>
    have := he j
    dsimp only
    cases h1 : t.entry j st <;> cases h2 : s.entry j st <;> simp [h1, h2] at this ⊢
    exact this

/-- States that differ in none of the parts spoken of. -/
theorem Within.of {s t : State} (h1 : t.ports = s.ports) (h2 : t.units = s.units) (h3 : t.lineUnit = s.lineUnit)
    (h4 : t.stopReq = s.stopReq) (h5 : t.watches = s.watches) (h6 : t.seqr = s.seqr) (h7 : t.outcomes = s.outcomes)
    (h8 : t.heat = s.heat) (h9 : t.settings = s.settings) (h10 : t.calcs = s.calcs) (h11 : t.slots = s.slots)
    (h12 : t.track = s.track) (h13 : t.nextSeq = s.nextSeq) : Within s t where
  ports p := by rw [h1]
  notices h := by unfold NoticesOrdered; rw [h1]; exact h
  stop h := by unfold StopHasCause; rw [h4]; exact h
  units u := by
    have : t.unit u = s.unit u := by cases u <;> simp [State.unit, h2, h3]
    rw [this]; exact .refl _
  claims w := by rw [h5]
  owned h := by unfold WatchesOwned; rw [h5]; exact h
  overdue h := by unfold OverdueBounded; rw [h6]; exact h
  outcomes h := by unfold OutcomesBounded; rw [h7]; exact h
  heat h := by
    obtain ⟨a, b, c⟩ := h
    refine ⟨?_, ?_, ?_⟩
    · rw [h9, slotsHeld_congr (s := s) (by rw [h8])]; exact a
    · simp only [State.zone, h8]; exact b
    · rw [h8]; exact c
  settings := h9
  trims h := by
    intro st
    have : t.trimLimit st = s.trimLimit st := State.trimLimit_of_keys (fun j => by rw [h11]) st
    rw [this, h10]; exact h st
  keys := by rw [h12]
  next := h13
  slots j := by rw [h11]
  trips st := by rw [h6]

theorem Within.refl (s : State) : Within s s := .of rfl rfl rfl rfl rfl rfl rfl rfl rfl rfl rfl rfl rfl

theorem Within.foldl {α : Type} (g : State → α → State) (h : ∀ s x, Within s (g s x)) (l : List α) :
    ∀ s, Within s (l.foldl g s) := by
  induction l with
  | nil => exact fun s => .refl s
  | cons x xs ih => exact fun s => (h s x).trans (ih _)

/-! ### Changes of one part -/

/-- A change of the ports' notice sets alone. -/
theorem Within.of_ports {s t : State} (h : t = { s with ports := t.ports })
    (hp : ∀ p, (t.ports.get p).still = (s.ports.get p).still) (hn : NoticesOrdered s → NoticesOrdered t) : Within s t := by
  have w : Within s { s with ports := s.ports } := .refl s
  rw [h]
  exact { ports := hp, notices := fun x => by have := hn x; rw [h] at this; exact this, stop := id, units := fun u => by cases u <;> exact .refl _,
          claims := fun _ => rfl, owned := id, overdue := id, outcomes := id, heat := w.heat, settings := rfl, trims := w.trims,
          keys := rfl, next := rfl, slots := fun _ => rfl, trips := fun _ => rfl }

/-- A change of the sequencers alone. -/
theorem Within.of_seqr {s t : State} (h : t = { s with seqr := t.seqr })
    (ht : ∀ st, (t.seqr.get st).tripped = (s.seqr.get st).tripped) (ho : OverdueBounded s → OverdueBounded t) : Within s t := by
  have w : Within s { s with ports := s.ports } := .refl s
  rw [h]
  exact { ports := fun _ => rfl, notices := w.notices, stop := id, units := fun u => by cases u <;> exact .refl _,
          claims := fun _ => rfl, owned := id, overdue := fun x => by have := ho x; rw [h] at this; exact this, outcomes := id,
          heat := w.heat, settings := rfl, trims := w.trims,
          keys := rfl, next := rfl, slots := fun _ => rfl, trips := ht }

/-- A change of the track's records that keeps their keys. -/
theorem Within.of_track {s t : State} (h : t = { s with track := t.track })
    (hk : t.track.map recordKey = s.track.map recordKey) : Within s t := by
  have w : Within s { s with ports := s.ports } := .refl s
  rw [h]
  exact { ports := fun _ => rfl, notices := w.notices, stop := id, units := fun u => by cases u <;> exact .refl _,
          claims := fun _ => rfl, owned := id, overdue := id, outcomes := id, heat := w.heat, settings := rfl, trims := w.trims,
          keys := hk, next := rfl, slots := fun _ => rfl, trips := fun _ => rfl }

/-- A change of the job slots that keeps their keys. -/
theorem Within.of_slots {s t : State} (h : t = { s with slots := t.slots })
    (hk : ∀ j, slotKey (t.slots.get j) = slotKey (s.slots.get j)) : Within s t := by
  have w : Within s { s with ports := s.ports } := .refl s
  have hl := fun st => State.trimLimit_of_keys (s := s) (t := t) hk st
  rw [h]
  rw [h] at hl hk
  exact { ports := fun _ => rfl, notices := w.notices, stop := id, units := fun u => by cases u <;> exact .refl _,
          claims := fun _ => rfl, owned := id, overdue := id, outcomes := id, heat := w.heat, settings := rfl,
          trims := fun x st => by rw [hl st]; exact x st
          keys := rfl, next := rfl, slots := hk, trips := fun _ => rfl }

/-- A change of the calculators that keeps the trims in their bound. -/
theorem Within.of_calcs {s t : State} (h : t = { s with calcs := t.calcs })
    (hk : (∀ st, (s.calcs.get st).trim.natAbs ≤ s.trimLimit st) → ∀ st, (t.calcs.get st).trim.natAbs ≤ s.trimLimit st) :
    Within s t := by
  have w : Within s { s with ports := s.ports } := .refl s
  rw [h]
  exact { ports := fun _ => rfl, notices := w.notices, stop := id, units := fun u => by cases u <;> exact .refl _,
          claims := fun _ => rfl, owned := id, overdue := id, outcomes := id, heat := w.heat, settings := rfl, trims := hk,
          keys := rfl, next := rfl, slots := fun _ => rfl, trips := fun _ => rfl }

/-- A change of the arbiter that keeps the power slots' bound. -/
theorem Within.of_heat {s t : State} (h : t = { s with heat := t.heat, links := t.links }) (hk : PowerLimited s → PowerLimited t) :
    Within s t := by
  have w : Within s { s with ports := s.ports } := .refl s
  rw [h]
  exact { ports := fun _ => rfl, notices := w.notices, stop := id, units := fun u => by cases u <;> exact .refl _,
          claims := fun _ => rfl, owned := id, overdue := id, outcomes := id
          heat := fun x => by have := hk x; rw [h] at this; exact this
          settings := rfl, trims := w.trims, keys := rfl, next := rfl, slots := fun _ => rfl, trips := fun _ => rfl }

/-- A change of the watch units that keeps their claims. -/
theorem Within.of_watches {s t : State} (h : t = { s with watches := t.watches })
    (hc : ∀ w, (t.watches.get w).claim = (s.watches.get w).claim) (ho : WatchesOwned s → WatchesOwned t) : Within s t := by
  have w : Within s { s with ports := s.ports } := .refl s
  rw [h]
  exact { ports := fun _ => rfl, notices := w.notices, stop := id, units := fun u => by cases u <;> exact .refl _,
          claims := hc, owned := fun x => by have := ho x; rw [h] at this; exact this
          overdue := id, outcomes := id, heat := w.heat, settings := rfl, trims := w.trims,
          keys := rfl, next := rfl, slots := fun _ => rfl, trips := fun _ => rfl }

/-! ### Notices, faults and STOP REQUEST (R153 to R165) -/
@[simp] theorem PortState.offer_still (p : PortState) (n : Notice) : (p.offer n).still = p.still := by
  unfold PortState.offer; split <;> rfl

theorem State.offerTo_within (s : State) (p : Port) (n : Notice) : Within s (s.offerTo p n) := by
  refine Within.of_ports rfl (fun q => ?_) (fun h q => ?_)
  · simp only [State.offerTo, Three.get_set]
    split
    · rename_i e; subst e; simp
    · rfl
  · simp only [State.offerTo, Three.get_set]
    split
    · exact PortState.offer_sorted _ _ (h _)
    · exact h q

theorem State.offer_within (s : State) (n : Notice) : Within s (s.offer n) := by
  refine Within.of_ports rfl (fun q => ?_) (fun h q => ?_)
  · simp [State.offer]
  · simp only [State.offer, Three.get_tab]
    exact PortState.offer_sorted _ _ (h _)

theorem State.stopReq_within (s : State) (r : StopRequest) (h : r.asserted = (r.trip || r.trackFull || r.watch)) :
    Within s { s with stopReq := r } := by
  have w : Within s { s with ports := s.ports } := .refl s
  exact { ports := fun _ => rfl, notices := w.notices, stop := fun _ => h, units := fun u => by cases u <;> exact .refl _,
          claims := fun _ => rfl, owned := id, overdue := id, outcomes := id, heat := w.heat, settings := rfl, trims := w.trims,
          keys := rfl, next := rfl, slots := fun _ => rfl, trips := fun _ => rfl }

theorem State.assertStop_within (s : State) (c : StopCause) : Within s (s.assertStop c) := by
  unfold State.assertStop
  refine Within.trans ?_ (State.offer_within _ _)
  have w : Within s { s with ports := s.ports } := .refl s
  exact { ports := fun _ => rfl, notices := w.notices
          stop := fun h => by unfold StopHasCause at *; cases c <;> simp [StopRequest.add]
          units := fun u => by cases u <;> exact .refl _,
          claims := fun _ => rfl, owned := id, overdue := id, outcomes := id, heat := w.heat, settings := rfl, trims := w.trims,
          keys := rfl, next := rfl, slots := fun _ => rfl, trips := fun _ => rfl }

theorem State.deassertStop_within (s : State) : Within s s.deassertStop := s.stopReq_within _ rfl

/-- A unit whose flags are only set and whose first-fault record is only filled. -/
theorem State.setUnit_within (s : State) (u : UnitId) (f : FaultUnit) (h : Raised (s.unit u) f) : Within s (s.setUnit u f) := by
  have w : Within s { s with ports := s.ports } := .refl s
  have hu : ∀ v, Raised (s.unit v) ((s.setUnit u f).unit v) := by
    intro v
    by_cases e : v = u
    · subst e; rw [State.unit_setUnit]; exact h
    · rw [State.unit_setUnit_ne _ _ e]; exact .refl _
  cases u <;>
  exact { ports := fun _ => rfl, notices := w.notices, stop := id, units := hu, claims := fun _ => rfl, owned := id, overdue := id,
          outcomes := id, heat := w.heat, settings := rfl, trims := w.trims,
          keys := rfl, next := rfl, slots := fun _ => rfl, trips := fun _ => rfl }

theorem State.writeLatest_within (s : State) (ev : FaultEvent) (e : Effect) : Within s (s.writeLatest ev e) :=
  s.setUnit_within _ _ ⟨id, id, id, fun _ h => h⟩

theorem State.raiseHard_within (s : State) (ev : FaultEvent) : Within s (s.raiseHard ev) := by
  have hf : ∀ (u : FaultUnit) (r : FaultRecord) (x : FaultRecord), u.first = some x → (u.fillFirst r).first = some x := by
    intro u r x h; simp [FaultUnit.fillFirst, h]
  unfold State.raiseHard
  dsimp only
  split
  · refine Within.trans (s.setUnit_within _ _ ?_) (State.offer_within _ _)
    exact ⟨id, fun _ => rfl, id, hf { s.unit ev.unit with hard := true } _⟩
  · refine Within.trans ?_ (State.offer_within _ _)
    refine Within.trans (s.setUnit_within _ _ ?_) (State.assertStop_within _ _)
    exact ⟨id, id, fun _ => rfl, hf { s.unit ev.unit with tripped := true } _⟩
  · exact s.setUnit_within _ _ ⟨id, id, id, hf _ _⟩

theorem State.raise_within (s : State) (ev : FaultEvent) : Within s (s.raise ev) := by
  unfold State.raise
  split
  · exact s.writeLatest_within _ _
  · split
    · refine Within.trans ?_ (State.offer_within _ _)
      exact Within.trans (s.setUnit_within ev.unit { s.unit ev.unit with soft := true } ⟨fun _ => rfl, id, id, fun _ h => h⟩)
        (State.writeLatest_within _ _ _)
    · exact (s.raiseHard_within _).trans (State.writeLatest_within _ _ _)
  · exact s.raiseHard_within _

/-! ### The track and the job slots (R24, R177) -/

theorem State.updRecord_within (s : State) (q : SeqNo) (f : TrackRecord → TrackRecord) (h : ∀ r, recordKey (f r) = recordKey r) :
    Within s (s.updRecord q f) := by
  refine Within.of_track rfl ?_
  simp only [State.updRecord, List.map_map]
  apply List.map_congr_left
  intro r _
  simp only [Function.comp]
  split <;> simp [h]

theorem State.updField_within (s : State) (q : SeqNo) (st : Idx) (f : StationField → StationField) : Within s (s.updField q st f) :=
  s.updRecord_within _ _ fun _ => rfl

theorem State.setEntry_within (s : State) (j : Slot) (st : Idx) (e e' : StationEntry) (h : s.entry j st = some e)
    (ht : e'.trimLim = e.trimLim) : Within s (s.setEntry j st e') := by
  refine Within.of_slots rfl (fun i => ?_)
  simp only [State.setEntry, Two.get_upd]
  split
  · rename_i hij
    subst hij
    simp only [slotKey, JobSlot.trimLims, Prod.mk.injEq, true_and]
    simp only [State.entry] at h
    cases hj : (s.slots.get i).job with
    | none => rfl
    | some r =>
      simp only [hj] at h
      simp only [Option.map_some, Option.some.injEq]
      apply Four.ext_get
      intro v
      by_cases hv : v = st
      · subst hv; simp [h, ht]
      · simp [hv]
  · rfl

theorem State.setDescriptor_within (s : State) (j : Slot) (st c : Idx) (d : Descriptor) : Within s (s.setDescriptor j st c d) := by
  unfold State.setDescriptor
  split
  · rename_i e h; exact s.setEntry_within _ _ e _ h rfl
  · exact .refl s

theorem State.giveUpFirstOff_within (s : State) (j : Slot) (st : Idx) (q : SeqNo) : Within s (s.giveUpFirstOff j st q) := by
  unfold State.giveUpFirstOff
  split
  · rename_i e h; exact s.setEntry_within _ _ e _ h rfl
  · exact .refl s

/-! ### Watch units (R171 to R174) -/

/-- A unit with a condition, changed but for its claim. -/
theorem State.updWatch_within (s : State) (w : Idx) (f : Watch → Watch) (h : ∀ u, (f u).claim = u.claim)
    (hc : (s.watches.get w).condition ≠ none) : Within s (s.updWatch w f) := by
  refine Within.of_watches rfl (fun v => ?_) (fun ho v hv => ?_)
  · simp only [State.updWatch, Four.get_upd]
    split
    · rename_i e; subst e; exact h _
    · rfl
  · simp only [State.updWatch, Four.get_upd] at hv ⊢
    split
    · rename_i e
      subst e
      rw [if_pos rfl] at hv
      have : (f (s.watches.get v)).owner = (s.watches.get v).owner := congrArg (·.1) (h _)
      have := ho v (by rw [← this]; exact hv)
      rw [this] at hc
      exact absurd rfl hc
    · rename_i e
      rw [if_neg e] at hv
      exact ho v hv

theorem State.meetWatch_within (s : State) (w : Idx) (q : Option SeqNo) (hc : (s.watches.get w).condition ≠ none) :
    Within s (s.meetWatch w q) := by
  unfold State.meetWatch
  dsimp only
  have a : ∀ f : Watch → Watch, (∀ u, (f u).claim = u.claim) → Within s (s.updWatch w f) := fun f h => s.updWatch_within w f h hc
  repeat' split
  all_goals first
    | (refine Within.trans (a _ ?_) (State.offerTo_within _ _ _); intro u; rfl)
    | (refine Within.trans (a _ ?_) (State.updRecord_within _ _ _ ?_) <;> intro u <;> rfl)
    | (refine Within.trans (a _ ?_) (State.assertStop_within _ _); intro u; rfl)
    | (refine a _ ?_; intro u; rfl)

theorem State.testLevel_within (s : State) (w : Idx) (b : Bool) (hc : (s.watches.get w).condition ≠ none) :
    Within s (s.testLevel w b) := by
  unfold State.testLevel
  repeat' split
  · exact .refl s
  · exact s.meetWatch_within _ _ hc
  · exact s.updWatch_within _ _ (fun _ => rfl) hc

theorem State.laneChanged_within (s : State) (st c : Idx) : Within s (s.laneChanged st c) := by
  unfold State.laneChanged
  refine Within.foldl _ (fun s w => ?_) _ _
  repeat' split
  · rename_i h _; exact s.testLevel_within _ _ (by rw [h]; simp)
  · exact .refl s
  · exact .refl s

theorem State.trimChanged_within (s : State) (st : Idx) : Within s (s.trimChanged st) := by
  unfold State.trimChanged
  refine Within.foldl _ (fun s w => ?_) _ _
  repeat' split
  · rename_i h _; exact s.testLevel_within _ _ (by rw [h]; simp)
  · exact .refl s
  · exact .refl s

theorem State.commitWatched_within (s : State) (st : Idx) (q : SeqNo) : Within s (s.commitWatched st q) := by
  unfold State.commitWatched
  refine Within.foldl _ (fun s w => ?_) _ _
  dsimp only
  split
  · rename_i h; exact s.meetWatch_within _ _ (by rw [h.2]; simp)
  · exact .refl s

theorem State.disarmFor_within (s : State) (q : SeqNo) : Within s (s.disarmFor q) := by
  refine Within.of_watches rfl (fun v => ?_) (fun ho v hv => ?_)
  · simp only [State.disarmFor, Four.get_tab]
    repeat' split
    all_goals rfl
  · have e : ((s.disarmFor q).watches.get v).owner = (s.watches.get v).owner := by
      simp only [State.disarmFor, Four.get_tab]
      repeat' split
      all_goals rfl
    have hr := ho v (by rw [← e]; exact hv)
    simp only [State.disarmFor, Four.get_tab, hr]
    rfl

/-! ### Foil lanes (R86 to R96) -/

theorem State.lanes_within (s : State) (l : Four (Four Lane)) : Within s { s with lanes := l } :=
  .of rfl rfl rfl rfl rfl rfl rfl rfl rfl rfl rfl rfl rfl

theorem State.updLane_within (s : State) (st c : Idx) (f : Lane → Lane) : Within s (s.updLane st c f) := s.lanes_within _

theorem State.updLanes_within (s : State) (st : Idx) (f : Idx → Lane → Lane) : Within s (s.updLanes st f) := s.lanes_within _

theorem State.reserve_within (s : State) (st : Idx) (n : Four Nat) : Within s (s.reserve st n) := s.lanes_within _

theorem State.release_within (s : State) (st : Idx) (n : Four Nat) : Within s (s.release st n) := s.lanes_within _

theorem State.unreserve_within (s : State) (st : Idx) : Within s (s.unreserve st) := s.lanes_within _

theorem State.runOut_within (s : State) (st c : Idx) (q : SeqNo) : Within s (s.runOut st c q) :=
  ((s.updLane_within _ _ _).trans (State.raise_within _ _)).trans (State.offer_within _ _)

theorem State.lowTest_within (s : State) (st c : Idx) : Within s (s.lowTest st c) := by
  unfold State.lowTest
  dsimp only
  split
  · exact ((s.updLane_within _ _ _).trans (State.raise_within _ _)).trans (State.offer_within _ _)
  · exact .refl s

theorem State.breakLane_within (s : State) (st c : Idx) (q : SeqNo) : Within s (s.breakLane st c q) := by
  unfold State.breakLane
  split
  all_goals first
    | exact (s.updLane_within _ _ _).trans (State.raise_within _ _)
    | exact .refl s

theorem State.consume_within (s : State) (st c : Idx) (n : Nat) : Within s (s.consume st c n) :=
  (s.updLane_within _ _ _).trans (State.laneChanged_within _ _ _)

theorem State.applyFoil_within (s : State) (st : Idx) (r : FoilReport) (c : Idx) : Within s (s.applyFoil st r c) := by
  unfold State.applyFoil
  dsimp only
  have h1 := s.consume_within st c (r.advanced.get c)
  generalize s.consume st c (r.advanced.get c) = s1 at h1 ⊢
  refine h1.trans ?_
  have h2 : Within s1 (match s1.descriptor r.slot st c with
    | some d =>
      if r.whole || d.awaits r.seq then
        s1.setDescriptor r.slot st c (d.settle r.seq (r.fed.get c) (r.advanced.get c))
      else s1
    | none => s1) := by
    repeat' split
    · exact s1.setDescriptor_within _ _ _ _
    · exact .refl _
    · exact .refl _
  refine h2.trans ?_
  by_cases hb : r.breaks.get c = true
  · rw [if_pos hb]; exact (State.lowTest_within _ _ _).trans (State.breakLane_within _ _ _ _)
  · rw [if_neg hb]; exact State.lowTest_within _ _ _

theorem State.applyFoilAll_within (s : State) (st : Idx) (r : FoilReport) : Within s (s.applyFoilAll st r) :=
  Within.foldl _ (fun s c => s.applyFoil_within st r c) _ _

theorem State.settleUnreported_within (s : State) (st : Idx) (j : Slot) (q : SeqNo) (n : Four Nat) :
    Within s (s.settleUnreported st j q n) :=
  (s.release_within _ _).trans (State.giveUpFirstOff_within _ _ _ _)

theorem State.endUnreported_within (s : State) (st : Idx) (j : Slot) (q : SeqNo) (n : Four Nat) :
    Within s (s.endUnreported st j q n) :=
  (s.settleUnreported_within _ _ _ _).trans (Within.foldl _ (fun s c => s.lowTest_within st c) _ _)

/-! ### Sequencers, calculators and links (R44, R60 to R83) -/

theorem State.updLink_within (s : State) (st : Idx) (f : Link → Link) : Within s (s.updLink st f) :=
  .of rfl rfl rfl rfl rfl rfl rfl rfl rfl rfl rfl rfl rfl

theorem State.updSeqr_within (s : State) (st : Idx) (f : Sequencer → Sequencer) (h : ∀ q, (f q).tripped = q.tripped)
    (ho : ∀ q, (f q).overdue.length ≤ q.overdue.length) : Within s (s.updSeqr st f) := by
  refine Within.of_seqr rfl (fun v => ?_) (fun hb v => ?_)
  · simp only [State.updSeqr, Four.get_upd]
    split
    · rename_i e; subst e; exact h _
    · rfl
  · simp only [State.updSeqr, Four.get_upd]
    split
    · exact (ho _).trans (hb _)
    · exact hb v

theorem State.updCalc_within (s : State) (st : Idx) (f : Calc → Calc) (h : ∀ c, (f c).trim = c.trim) : Within s (s.updCalc st f) := by
  refine Within.of_calcs rfl (fun hb v => ?_)
  simp only [State.updCalc, Four.get_upd]
  split
  · rename_i e; subst e; rw [h]; exact hb _
  · exact hb v

theorem State.unphase_within (s : State) (st : Idx) : Within s (s.unphase st) := s.updCalc_within _ _ fun _ => rfl

theorem natAbs_clampAbs (l : Nat) (x : Int) : (clampAbs l x).natAbs ≤ l := by
  unfold clampAbs; omega

theorem State.setTrim_within (s : State) (st : Idx) (t : Int) (h : t.natAbs ≤ s.trimLimit st) : Within s (s.setTrim st t) := by
  unfold State.setTrim
  split
  · exact .refl s
  · refine Within.trans ?_ (State.trimChanged_within _ _)
    refine Within.of_calcs rfl (fun hb v => ?_)
    simp only [State.updCalc, Four.get_upd]
    split
    · rename_i e; subst e; exact h
    · exact hb v

theorem State.transmit_within (s : State) (st : Idx) (q : SeqNo) : Within s (s.transmit st q) := by
  unfold State.transmit
  split
  · exact (s.updLink_within _ _).trans (State.updSeqr_within _ _ _ (by intro _; rfl) (by intro _; exact le_refl _))
  · exact .refl s

theorem State.issue_within (s : State) (st : Idx) (q : SeqNo) : Within s (s.issue st q) := by
  unfold State.issue
  split
  · exact s.transmit_within _ _
  · exact s.updSeqr_within _ _ (by intro _; rfl) (by intro _; exact le_refl _)

theorem State.releaseQueue_within (s : State) (st : Idx) : Within s (s.releaseQueue st) := by
  unfold State.releaseQueue
  split
  · exact s.transmit_within _ _
  · exact .refl s

theorem State.clearAwaited_within (s : State) (st : Idx) : Within s (s.clearAwaited st) :=
  (s.updSeqr_within _ _ (by intro _; rfl) (by intro _; exact le_refl _)).trans (State.updLink_within _ _ _)

theorem State.leaveInFlight_within (s : State) (st : Idx) (q : SeqNo) : Within s (s.leaveInFlight st q) :=
  s.updSeqr_within _ _ (by intro _; rfl) (by intro _; exact le_refl _)

theorem State.leaveAbortSet_within (s : State) (st : Idx) (q : SeqNo) : Within s (s.leaveAbortSet st q) :=
  s.updSeqr_within _ _ (by intro _; rfl) (by intro _; exact le_refl _)

theorem State.settleContext_within (s : State) (st : Idx) (q : SeqNo) (o : AbortOutcome) : Within s (s.settleContext st q o) :=
  s.updSeqr_within _ _ (by intro _; rfl) (by intro _; exact le_refl _)

theorem State.updContext_within (s : State) (st : Idx) (f : HoldContext → HoldContext) : Within s (s.updContext st f) :=
  s.updSeqr_within _ _ (by intro _; rfl) (by intro _; exact le_refl _)

theorem State.setAction_within (s : State) (st : Idx) (q : SeqNo) (a : ResumeAction) : Within s (s.setAction st q a) :=
  s.updContext_within _ _

theorem State.closeUnreported_within (s : State) (st : Idx) (q : SeqNo) (x : Status) : Within s (s.closeUnreported st q x) := by
  unfold State.closeUnreported
  split
  · exact ((s.updField_within _ _ _).trans (State.leaveInFlight_within _ _ _)).trans (State.endUnreported_within _ _ _ _ _)
  · exact s.leaveInFlight_within _ _

theorem State.closeAtReset_within (s : State) (st : Idx) (q : SeqNo) : Within s (s.closeAtReset st q) := by
  unfold State.closeAtReset
  split
  · exact ((s.updField_within _ _ _).trans (State.leaveInFlight_within _ _ _)).trans (State.settleUnreported_within _ _ _ _ _)
  · exact s.leaveInFlight_within _ _

theorem State.pushOverdue_within (s : State) (st : Idx) (e : OverdueEntry) : Within s (s.pushOverdue st e) := by
  unfold State.pushOverdue
  dsimp only
  split
  · rename_i x xs hx
    split
    · rename_i hl
      have a : Within s ((s.updSeqr st fun sq => { sq with overdue := xs }).giveUpFirstOff x.slot st x.seq) := by
        refine Within.trans ?_ (State.giveUpFirstOff_within _ _ _ _)
        refine Within.of_seqr rfl (fun v => ?_) (fun hb v => ?_)
        · simp only [State.updSeqr, Four.get_upd]; split
          · rename_i e; subst e; rfl
          · rfl
        · simp only [State.updSeqr, Four.get_upd]; split
          · have := hb st; rw [hx] at this; simp at this; simp only; omega
          · exact hb v
      have hq : ((s.updSeqr st fun sq => { sq with overdue := xs }).giveUpFirstOff x.slot st x.seq).seqr = (s.updSeqr st fun sq => { sq with overdue := xs }).seqr := by simp
      have b : OverdueBounded s → OverdueBounded (((s.updSeqr st fun sq => { sq with overdue := xs }).giveUpFirstOff x.slot st
          x.seq).updSeqr st fun sq => { sq with overdue := sq.overdue ++ [e] }) := by
        intro hb v
        simp only [State.updSeqr, Four.get_upd, State.giveUpFirstOff_frame]
        split
        · have := hb st; rw [hx] at this; simp [Config.overdueLimit] at this ⊢; exact this
        · exact hb v
      exact { (a.trans (t := _) (Within.refl _)) with
        toCalm := { a.toCalm with overdue := b }
        trips := fun v => by
          rw [← a.trips v]
          simp only [State.updSeqr, Four.get_upd]; split
          · rename_i e; subst e; rfl
          · rfl }
    · rename_i hl
      refine Within.of_seqr rfl (fun v => ?_) (fun hb v => ?_)
      · simp only [State.updSeqr, Four.get_upd]; split
        · rename_i e; subst e; rfl
        · rfl
      · simp only [State.updSeqr, Four.get_upd]; split
        · rw [hx]; simp [Config.overdueLimit] at hl ⊢; omega
        · exact hb v
  · rename_i hx
    refine Within.of_seqr rfl (fun v => ?_) (fun hb v => ?_)
    · simp only [State.updSeqr, Four.get_upd]; split
      · rename_i e; subst e; rfl
      · rfl
    · simp only [State.updSeqr, Four.get_upd]; split
      · rw [hx]; simp [Config.overdueLimit]
      · exact hb v

theorem State.emptyOverdue_within (s : State) (st : Idx) : Within s (s.emptyOverdue st) := by
  unfold State.emptyOverdue
  refine Within.trans (Within.foldl _ (fun s x => s.giveUpFirstOff_within _ _ _) _ _) (State.updSeqr_within _ _ _ (fun _ => rfl) ?_)
  intro q; simp

theorem State.takeDeadline_within (s : State) (st : Idx) (r : TrackRecord) : Within s (s.takeDeadline st r) :=
  ((((s.updField_within _ _ _).trans (State.leaveInFlight_within _ _ _)).trans (State.release_within _ _ _)).trans
    (State.pushOverdue_within _ _ _)).trans (State.raise_within _ _)

theorem State.ackAccepted_within (s : State) (st : Idx) (q : SeqNo) : Within s (s.ackAccepted st q) := by
  unfold State.ackAccepted
  dsimp only
  have a := (s.clearAwaited_within st).trans (State.updField_within _ q st fun f => { f with status := .acked })
  generalize (s.clearAwaited st).updField q st (fun f => { f with status := .acked }) = s1 at a ⊢
  refine Within.trans a ?_
  refine Within.trans ?_ (State.releaseQueue_within _ _)
  repeat' split
  · exact State.takeDeadline_within _ _ _
  · exact .refl _
  · exact .refl _

theorem State.ackRefused_within (s : State) (st : Idx) (q : SeqNo) (x : AckResult) : Within s (s.ackRefused st q x) :=
  (((s.clearAwaited_within _).trans (State.closeUnreported_within _ _ _ _)).trans (State.releaseQueue_within _ _)).trans
    (State.raise_within _ _)

theorem State.orderAck_within (s : State) (st : Idx) (q : SeqNo) (x : AckResult) : Within s (s.orderAck st q x) := by
  unfold State.orderAck
  repeat' split
  all_goals first
    | exact s.ackAccepted_within _ _
    | exact s.ackRefused_within _ _ _
    | exact .refl s

theorem State.ackTimeout_within (s : State) (st : Idx) : Within s (s.ackTimeout st) := by
  unfold State.ackTimeout
  split
  · exact (((((s.closeUnreported_within _ _ _).trans (State.unphase_within _ _)).trans (State.clearAwaited_within _ _)).trans
      (State.updSeqr_within _ _ _ (by intro _; rfl) (by intro _; exact le_refl _))).trans (State.releaseQueue_within _ _)).trans
        (State.raise_within _ _)
  · exact .refl s

theorem State.completeAbort_within (s : State) (st : Idx) : Within s (s.completeAbort st) := by
  unfold State.completeAbort
  split
  · exact (s.clearAwaited_within _).trans (State.releaseQueue_within _ _)
  · exact .refl s

theorem State.closeByAbort_within (s : State) (st : Idx) (q : SeqNo) (x : AbortFound) (n : Four Nat) :
    Within s (s.closeByAbort st q x n) := by
  unfold State.closeByAbort
  split
  · dsimp only
    split
    all_goals
      try refine Within.trans ?_ (State.raise_within _ _)
      refine Within.trans ?_ (State.applyFoilAll_within _ _ _)
      refine Within.trans ?_ (State.release_within _ _ _)
      refine Within.trans ?_ (State.settleContext_within _ _ _ _)
      refine Within.trans ?_ (State.leaveInFlight_within _ _ _)
      exact State.updField_within _ _ _ _
  · exact s.leaveInFlight_within _ _

theorem State.abortReport_within (s : State) (st : Idx) (q : SeqNo) (x : AbortFound) (n : Four Nat) :
    Within s (s.abortReport st q x n) := by
  unfold State.abortReport
  split
  · exact ((s.leaveAbortSet_within _ _).trans (State.closeByAbort_within _ _ _ _ _)).trans (State.completeAbort_within _ _)
  · exact .refl s

theorem State.closeAbortSet_within (s : State) (st : Idx) : Within s (s.closeAbortSet st) :=
  (Within.foldl _ (fun s q => (s.closeUnreported_within _ _ _).trans (State.settleContext_within _ _ _ _)) _ _).trans
    (State.updSeqr_within _ _ _ (by intro _; rfl) (by intro _; exact le_refl _))

theorem State.abortTimeout_within (s : State) (st : Idx) : Within s (s.abortTimeout st) := by
  unfold State.abortTimeout
  split
  · exact ((((s.closeAbortSet_within _).trans (State.raise_within _ _)).trans (State.unphase_within _ _)).trans
      (State.clearAwaited_within _ _)).trans (State.releaseQueue_within _ _)
  · exact .refl s

theorem State.withdrawQueued_within (s : State) (st : Idx) : Within s (s.withdrawQueued st) := by
  unfold State.withdrawQueued
  split
  · exact (s.updSeqr_within _ _ (by intro _; rfl) (by intro _; exact le_refl _)).trans (State.closeByAbort_within _ _ _ _ _)
  · exact .refl s

theorem State.sendAbort_within (s : State) (st : Idx) : Within s (s.sendAbort st) := by
  unfold State.sendAbort
  dsimp only
  split
  · exact .refl s
  · exact (s.updLink_within _ _).trans (State.updSeqr_within _ _ _ (by intro _; rfl) (by intro _; exact le_refl _))

theorem State.requestAbort_within (s : State) (st : Idx) : Within s (s.requestAbort st) := by
  unfold State.requestAbort
  split
  · exact .refl s
  · exact (s.withdrawQueued_within _).trans (State.sendAbort_within _ _)

/-! ### Reports (R73 to R79) -/

theorem State.learn_within (s : State) (st : Idx) (r : TrackRecord) (b : Bool) (o : ReportOutcome) (e : Option Int) :
    Within s (s.learn st r b o e) := by
  unfold State.learn
  dsimp only
  have a : ∀ (c : Prop) [Decidable c] (t : Int), t.natAbs ≤ s.trimLimit st → Within s (if c then s.setTrim st t else s) := by
    intro c _ t ht
    split
    · exact s.setTrim_within _ _ ht
    · exact .refl s
  repeat' split
  · exact s.updCalc_within _ _ fun _ => rfl
  · exact .refl s
  all_goals first
    | exact ((a _ _ (natAbs_clampAbs _ _))).trans (State.raise_within _ _)
    | exact a _ _ (natAbs_clampAbs _ _)
    | exact (s.setTrim_within _ _ (natAbs_clampAbs _ _)).trans (State.raise_within _ _)
    | exact s.raise_within _
    | exact s.setTrim_within _ _ (natAbs_clampAbs _ _)
    | exact .refl s

theorem State.reportAsAck_within (s : State) (st : Idx) (q : SeqNo) : Within s (s.reportAsAck st q) := by
  unfold State.reportAsAck
  split
  · exact (s.clearAwaited_within _).trans (State.releaseQueue_within _ _)
  · exact .refl s

theorem State.reportSettlesAbort_within (s : State) (st : Idx) (q : SeqNo) (o : ReportOutcome) :
    Within s (s.reportSettlesAbort st q o) := by
  unfold State.reportSettlesAbort
  split
  · exact ((s.leaveAbortSet_within _ _).trans (State.settleContext_within _ _ _ _)).trans (State.completeAbort_within _ _)
  · exact .refl s

theorem State.reportInTime_within (s : State) (st : Idx) (fr : StrikeReportFrame) (r : TrackRecord) :
    Within s (s.reportInTime st fr r) := by
  unfold State.reportInTime
  dsimp only
  refine Within.trans ?_ (State.reportSettlesAbort_within _ _ _ _)
  split
  all_goals
    first
      | refine Within.trans ?_ (State.learn_within _ _ _ _ _ _)
      | refine Within.trans ?_ (State.raise_within _ _)
    refine Within.trans ?_ (State.applyFoilAll_within _ _ _)
    refine Within.trans ?_ (State.release_within _ _ _)
    refine Within.trans ?_ (State.leaveInFlight_within _ _ _)
    refine Within.trans ?_ (State.updField_within _ _ _ _)
    exact State.reportAsAck_within _ _ _

theorem State.reportLate_within (s : State) (st : Idx) (fr : StrikeReportFrame) (x : OverdueEntry) :
    Within s (s.reportLate st fr x) := by
  unfold State.reportLate
  dsimp only
  refine Within.trans (Within.trans (Within.trans (s.updSeqr_within _ _ (by intro _; rfl) (fun q => ?_))
    (State.applyFoilAll_within _ _ _)) (State.updField_within _ _ _ _)) (State.raise_within _ _)
  exact List.length_erase_le

theorem State.strikeReport_within (s : State) (st : Idx) (fr : StrikeReportFrame) : Within s (s.strikeReport st fr) := by
  unfold State.strikeReport
  split
  · exact s.reportInTime_within _ _ _
  · exact s.reportLate_within _ _ _
  · exact .refl s

theorem State.faultInFlight_within (s : State) (st : Idx) : Within s (s.faultInFlight st) :=
  Within.foldl _ (fun s _ => s.closeUnreported_within _ _ _) _ _

theorem State.loseStationLink_within (s : State) (st : Idx) (b : Bool) : Within s (s.loseStationLink st b) := by
  unfold State.loseStationLink
  dsimp only
  split
  · exact ((((((s.updLink_within _ _).trans (State.faultInFlight_within _ _)).trans
      (State.updSeqr_within _ _ _ (by intro _; rfl) (by intro _; exact le_refl _))).trans (State.closeAbortSet_within _ _)).trans
        (State.emptyOverdue_within _ _)).trans (State.unphase_within _ _)).trans (State.raise_within _ _)
  · exact .refl s

theorem State.stationLinkLoss_within (s : State) (st : Idx) : Within s (s.stationLinkLoss st) := s.loseStationLink_within st _

/-! ### The Heat Arbiter (R102 to R120) -/

/-- Fewer zones in service hold fewer slots. -/
theorem slotsHeld_mono {s t : State} (h : ∀ st z, (t.zone st z).inService = true → (s.zone st z).inService = true) :
    t.slotsHeld ≤ s.slotsHeld := by
  rw [slotsHeld_countP, slotsHeld_countP]
  exact List.countP_mono_left fun p _ hp => h _ _ hp

/-- Zones changed without a grant, and unmasked and unblocked where they stay in service. -/
theorem PowerLimited.mono {s t : State} (hs : t.settings = s.settings) (ho : s.heat.order.Perm Heat.defaultOrder →
      t.heat.order.Perm Heat.defaultOrder)
    (h : ∀ st z, (t.zone st z).inService = true → (s.zone st z).inService = true ∧
      ((s.zone st z).mask = false ∧ (s.zone st z).block = .none → (t.zone st z).mask = false ∧ (t.zone st z).block = .none))
    (hp : PowerLimited s) : PowerLimited t := by
  obtain ⟨a, b, c⟩ := hp
  refine ⟨?_, fun st z hz => ?_, ho c⟩
  · rw [hs]; exact (slotsHeld_mono fun st z hz => (h st z hz).1).trans a
  · obtain ⟨h1, h2⟩ := h st z hz
    exact h2 (b st z h1)

theorem State.updZone_within (s : State) (st z : Idx) (f : Zone → Zone)
    (h : (f (s.zone st z)).inService = true → (s.zone st z).inService = true ∧
      ((s.zone st z).mask = false ∧ (s.zone st z).block = .none →
        (f (s.zone st z)).mask = false ∧ (f (s.zone st z)).block = .none)) : Within s (s.updZone st z f) := by
  refine Within.of_heat rfl (PowerLimited.mono rfl id fun a b hz => ?_)
  rw [State.zone_updZone] at hz ⊢
  by_cases e : (a, b) = (st, z)
  · rw [if_pos e] at hz ⊢
    injection e with e1 e2
    subst e1; subst e2
    exact h hz
  · rw [if_neg e] at hz ⊢
    exact ⟨hz, id⟩

/-- A zone changed but for its timer, mask and block. -/
theorem State.updZone_within_rest (s : State) (st z : Idx) (f : Zone → Zone) (h1 : ∀ q, (f q).slotTimer = q.slotTimer)
    (h2 : ∀ q, (f q).mask = q.mask) (h3 : ∀ q, (f q).block = q.block) : Within s (s.updZone st z f) := by
  refine s.updZone_within _ _ _ fun h => ?_
  rw [h2, h3]
  unfold Zone.inService at h ⊢
  rw [h1] at h
  exact ⟨h, id⟩

/-- A zone whose slot ends. -/
theorem State.updZone_within_end (s : State) (st z : Idx) (f : Zone → Zone) (h : ∀ q, (f q).slotTimer = none) :
    Within s (s.updZone st z f) := by
  refine s.updZone_within _ _ _ fun h' => ?_
  unfold Zone.inService at h'
  rw [h] at h'
  exact absurd h' (by simp)

theorem State.endSlot_within (s : State) (st z : Idx) (b : Bool) : Within s (s.endSlot st z b) :=
  s.updZone_within_end _ _ _ (by intro _; rfl)

theorem State.setOrder_within (s : State) (f : List (Idx × Idx) → List (Idx × Idx))
    (h : ∀ l, l.Perm Heat.defaultOrder → (f l).Perm Heat.defaultOrder) : Within s (s.setOrder f) :=
  Within.of_heat rfl (PowerLimited.mono rfl (h _) fun _ _ hz => ⟨hz, id⟩)

theorem State.finishSlot_within (s : State) (st z : Idx) : Within s (s.finishSlot st z) :=
  (s.updZone_within_end _ _ _ (by intro _; rfl)).trans (State.setOrder_within _ _ (rotate_perm _))

theorem State.setStale_within (s : State) (st : Idx) (b : Bool) : Within s (s.setStale st b) :=
  Within.of_heat rfl (PowerLimited.mono rfl id fun _ _ hz => ⟨hz, id⟩)

theorem HeatKept.limited {s t : State} (h : HeatKept s t) (hp : PowerLimited s) : PowerLimited t :=
  ⟨h.slots hp.2.2 hp.1, h.free hp.2.1, by rw [h.order]; exact hp.2.2⟩

theorem State.grantPass_within (s : State) : Within s s.grantPass := by
  refine Within.of_heat ?_ (grantPass_kept s).limited
  apply State.ext_fields <;> simp

theorem State.readOpen_within (s : State) (st z : Idx) : Within s (s.readOpen st z) := by
  unfold State.readOpen
  split
  · exact .refl s
  · exact (s.updZone_within_end _ _ _ (by intro _; rfl)).trans (State.raise_within _ _)

theorem State.judgeHeat_within (s : State) (st z : Idx) (p : ZoneParams) (t : Nat) : Within s (s.judgeHeat st z p t) := by
  unfold State.judgeHeat
  repeat' split
  · exact s.finishSlot_within _ _
  · exact .refl s
  · exact s.updZone_within_rest _ _ _ (by intro _; rfl) (by intro _; rfl) (by intro _; rfl)

theorem State.unblock_within (s : State) (st z : Idx) : Within s (s.updZone st z fun q => { q with block := .none }) := by
  refine s.updZone_within _ _ _ fun h => ⟨h, fun h' => ⟨h'.1, rfl⟩⟩

theorem State.readTemp_within (s : State) (st z : Idx) (p : ZoneParams) (t : Nat) : Within s (s.readTemp st z p t) := by
  unfold State.readTemp
  dsimp only
  have a : Within s (if (s.zone st z).block = .openCircuit then s.updZone st z fun q => { q with block := .none } else s) := by
    split
    · exact s.unblock_within _ _
    · exact .refl s
  generalize (if (s.zone st z).block = .openCircuit then s.updZone st z fun q => { q with block := .none } else s) = s1 at a ⊢
  refine a.trans ?_
  repeat' split
  · exact .refl _
  · exact (s1.updZone_within_end _ _ _ (by intro _; rfl)).trans (State.raise_within _ _)
  · exact .refl _
  · exact (s1.unblock_within _ _).trans (State.judgeHeat_within _ _ _ _ _)

theorem State.takeReading_within (s : State) (st z : Idx) (v : BitVec 16) : Within s (s.takeReading st z v) := by
  unfold State.takeReading
  dsimp only
  have a := s.updZone_within_rest st z (fun q => { q with reading := some (decodeReading v), age := some 0 })
    (by intro _; rfl) (by intro _; rfl) (by intro _; rfl)
  split
  · exact a
  · exact a.trans (State.readOpen_within _ _ _)
  · exact a.trans (State.readTemp_within _ _ _ _ _)

theorem State.heatReading_within (s : State) (st : Idx) (v : Four (BitVec 16)) : Within s (s.heatReading st v) :=
  ((Within.foldl _ (fun s z => s.takeReading_within _ _ _) _ _).trans (State.setStale_within _ _ _)).trans
    (State.grantPass_within _)

theorem State.tick_within (s : State) :
    Within s { s with heat := { s.heat with zones := .tab fun st => .tab fun z => (s.zone st z).tick } } := by
  refine Within.of_heat rfl (PowerLimited.mono rfl id fun a b hz => ?_)
  have e : ({ s with heat := { s.heat with zones := .tab fun st => .tab fun z => (s.zone st z).tick } } : State).zone a b =
      (s.zone a b).tick := by simp [State.zone]
  rw [e] at hz ⊢
  refine ⟨?_, id⟩
  unfold Zone.inService at hz ⊢
  simpa [Zone.tick] using hz

theorem State.staleHeat_within (s : State) (st : Idx) : Within s (s.staleHeat st) := by
  unfold State.staleHeat
  split
  · exact (s.setStale_within _ _).trans (State.raise_within _ _)
  · exact .refl s

theorem State.maxHold_within (s : State) (st z : Idx) : Within s (s.maxHold st z) := by
  unfold State.maxHold
  repeat' split
  · exact ((s.finishSlot_within _ _).trans (State.raise_within _ _)).trans (State.grantPass_within _)
  · exact .refl s
  · exact .refl s

theorem State.minHold_within (s : State) (st z : Idx) : Within s (s.minHold st z) := by
  unfold State.minHold
  repeat' split
  · exact s.grantPass_within
  · exact .refl s
  · exact .refl s

theorem State.heatSwitch_within (s : State) : Within s s.heatSwitch := by
  unfold State.heatSwitch
  refine Within.trans ?_ (State.grantPass_within _)
  refine Within.of_heat rfl (PowerLimited.mono rfl id fun a b hz => ?_)
  simp only [State.zone, Four.get_tab] at hz ⊢
  split at hz
  · rename_i h
    rw [if_pos h]
    exact ⟨hz, id⟩
  · simp [Zone.inService] at hz

/-- A zone's mask set within the request that also ends its slot. -/
theorem State.maskEnd_within (s : State) (st z : Idx) (b : Bool) :
    Within s ((s.updZone st z fun q => { q with mask := true }).endSlot st z b) := by
  have e : (s.updZone st z fun q => { q with mask := true }).endSlot st z b =
      s.updZone st z fun q => { q with mask := true, slotTimer := none, request := b } := by
    unfold State.endSlot State.updZone
    simp only [Four.upd, Four.set_set, Four.get_set_same]
  rw [e]
  exact s.updZone_within_end _ _ _ (by intro _; rfl)

theorem State.takeSetZoneMask_within (s : State) (a b : Byte) (v : Option Bool) : Within s (s.takeSetZoneMask a b v).1 := by
  unfold State.takeSetZoneMask
  split
  · dsimp only
    refine Within.trans ?_ (State.grantPass_within _)
    repeat' split
    · exact .refl s
    · exact s.maskEnd_within _ _ _
    · rename_i h
      refine s.updZone_within _ _ _ fun h' => ?_
      exact absurd h' h
    · exact s.updZone_within _ _ _ fun h' => ⟨h', fun x => ⟨rfl, x.2⟩⟩
  · exact .refl s

theorem State.takeFinishZone_within (s : State) (a b : Byte) (r : Option Bool) : Within s (s.takeFinishZone a b r).1 := by
  unfold State.takeFinishZone
  split
  · split
    · dsimp only
      refine Within.trans ?_ (State.grantPass_within _)
      split
      · exact s.finishSlot_within _ _
      · exact s.endSlot_within _ _ _
    · exact .refl s
  · exact .refl s

theorem State.takeSetLowest_within (s : State) (a b : Byte) : Within s (s.takeSetLowest a b).1 := by
  unfold State.takeSetLowest
  split
  · exact (s.setOrder_within _ (turn_perm _)).trans (State.grantPass_within _)
  · exact .refl s

/-! ### Commits and restrikes (R63 to R67, R89 to R92, R147) -/

theorem State.laneFeed_within (s : State) (st : Idx) (r : TrackRecord) (c : Idx) : Within s (s.laneFeed st r c).1 := by
  unfold State.laneFeed
  split
  · dsimp only
    repeat' split
    · exact .refl s
    · exact s.runOut_within _ _ _
    · exact .refl s
  · exact .refl s

theorem State.laneFeeds_within (s : State) (st : Idx) (r : TrackRecord) : Within s (s.laneFeeds st r).1 :=
  (((s.laneFeed_within st r .i0).trans (State.laneFeed_within _ st r .i1)).trans (State.laneFeed_within _ st r .i2)).trans
    (State.laneFeed_within _ st r .i3)

theorem State.feedEffect_within (s : State) (st : Idx) (j : Slot) (q : SeqNo) (c : Idx) : Within s (s.feedEffect st j q c) := by
  unfold State.feedEffect
  repeat' split
  · exact ((s.setDescriptor_within _ _ _ _).trans (State.updRecord_within _ _ _ (by intro _; rfl))).trans (State.offer_within _ _)
  · exact (s.setDescriptor_within _ _ _ _).trans (State.offer_within _ _)
  · exact .refl s
  · exact .refl s

theorem State.orderFoil_within (s : State) (st : Idx) (j : Slot) (q : SeqNo) (n : Four Nat) : Within s (s.orderFoil st j q n) := by
  unfold State.orderFoil
  refine (s.reserve_within _ _).trans (Within.foldl _ (fun s c => ?_) _ _)
  split
  · exact s.feedEffect_within _ _ _ _
  · exact .refl s

theorem State.decide5_within (s : State) (st : Idx) (r : TrackRecord) (e : StationEntry) (a : Aim) :
    Within s (s.decide5 st r e a).after := by
  unfold State.decide5
  repeat' split
  · exact .refl s
  · exact s.laneFeeds_within _ _
  · exact .refl s

theorem State.launch_within (s : State) (st : Idx) (q : SeqNo) (b x : Bool) : Within s (s.launch st q b x) :=
  (s.updSeqr_within _ _ (by intro _; rfl) (by intro _; exact le_refl _)).trans (State.issue_within _ _ _)

theorem State.commitFaults_within (s : State) (st : Idx) (q : SeqNo) (a : Aim) (d : Decision) (f : Option FaultKind) :
    Within s (s.commitFaults st q a d f) := by
  unfold State.commitFaults
  cases f with
  | none =>
    dsimp only
    split
    · exact State.raise_within _ _
    · exact .refl s
  | some k =>
    dsimp only
    split
    · exact (s.raise_within _).trans (State.raise_within _ _)
    · exact s.raise_within _

theorem State.commitOrder_within (s : State) (st : Idx) (r : TrackRecord) (e : StationEntry) : Within s (s.commitOrder st r e) := by
  unfold State.commitOrder
  dsimp only
  refine Within.trans ?_ (State.commitWatched_within _ _ _)
  refine Within.trans ?_ (State.commitFaults_within _ _ _ _ _ _)
  refine Within.trans ?_ (State.launch_within _ _ _ _ _)
  refine Within.trans ?_ (State.updCalc_within _ _ _ (by intro _; rfl))
  refine Within.trans ?_ (State.orderFoil_within _ _ _ _ _)
  refine Within.trans ?_ (State.updField_within _ _ _ _)
  refine Within.trans ?_ (State.decide5_within _ _ _ _ _)
  split
  · exact s.unphase_within _
  · exact .refl s

theorem State.commitMissed_within (s : State) (st : Idx) (q : SeqNo) (b : Bool) : Within s (s.commitMissed st q b) := by
  unfold State.commitMissed
  dsimp only
  refine Within.trans ?_ (State.commitWatched_within _ _ _)
  have a := (s.updField_within q st fun f => { f with status := .missed }).trans
    (State.updCalc_within _ st (fun c => { c with missed := min (c.missed + 1) Config.gapLimit }) (by intro _; rfl))
  split
  · exact a.trans (State.raise_within _ _)
  · exact a

theorem State.commitRecord_within (s : State) (st : Idx) (r : TrackRecord) : Within s (s.commitRecord st r) := by
  unfold State.commitRecord
  split
  · exact s.commitMissed_within st r.seq false
  · split
    · exact s.commitMissed_within st r.seq false
    · split
      · exact s.commitMissed_within st r.seq true
      · split
        · exact s.commitOrder_within st r _
        · exact .refl s

theorem State.recheckFeed_within (s : State) (st : Idx) (e : ContextEntry) (c : Idx) : Within s (s.recheckFeed st e c).1 := by
  unfold State.recheckFeed
  dsimp only
  repeat' split
  all_goals first
    | exact .refl s
    | exact s.runOut_within _ _ _

theorem State.recheckFeeds_within (s : State) (st : Idx) (e : ContextEntry) : Within s (s.recheckFeeds st e).1 :=
  (((s.recheckFeed_within st e .i0).trans (State.recheckFeed_within _ st e .i1)).trans (State.recheckFeed_within _ st e .i2)).trans
    (State.recheckFeed_within _ st e .i3)

theorem State.restrike_within (s : State) (st : Idx) (e : ContextEntry) : Within s (s.restrike st e) := by
  unfold State.restrike
  dsimp only
  refine Within.trans ?_ (State.launch_within _ _ _ _ _)
  refine Within.trans ?_ (State.updField_within _ _ _ _)
  exact (s.recheckFeeds_within _ _).trans (State.orderFoil_within _ _ _ _ _)

theorem State.restrikeStation_within (s : State) (st : Idx) : Within s (s.restrikeStation st) := by
  unfold State.restrikeStation
  refine Within.foldl _ (fun s e => ?_) _ _
  split
  · exact s.restrike_within _ _
  · exact .refl s

/-! ### The web, the reader, verdicts and splices -/

theorem State.web_within (s : State) (w : Web) : Within s { s with web := w } :=
  .of rfl rfl rfl rfl rfl rfl rfl rfl rfl rfl rfl rfl rfl

theorem State.reader_within (s : State) (r : Reader) : Within s { s with reader := r } :=
  .of rfl rfl rfl rfl rfl rfl rfl rfl rfl rfl rfl rfl rfl

theorem State.setReader_within (s : State) (m : Pos) (o : Origin) (st : ReaderState) (l c : Nat) :
    Within s (s.setReader m o st l c) := s.reader_within _

theorem State.reversalTest_within (s : State) : Within s s.reversalTest := by
  unfold State.reversalTest
  split
  · exact (s.web_within _).trans (State.raise_within _ _)
  · exact .refl s

theorem State.strayMark_within (s : State) (c : Pos) : Within s (s.strayMark c) := s.raise_within _

theorem State.lateTest_within (s : State) (st : Idx) (r : TrackRecord) (v : Four (Option Verdict)) :
    Within s (s.lateTest st r v) := by
  unfold State.lateTest
  dsimp only
  repeat' split
  all_goals first
    | exact s.raise_within _
    | exact .refl s

theorem State.spliceLate_within (s : State) (st : Idx) (l : List TrackRecord) : Within s (s.spliceLate st l) := by
  unfold State.spliceLate
  split
  · exact s.raise_within _
  · exact .refl s

theorem State.flagTrack_within (s : State) (x : SpliceEntry) : Within s (s.flagTrack x) := by
  unfold State.flagTrack
  dsimp only
  refine Within.trans (Within.of_track rfl ?_) (Within.foldl _ (fun s st => s.spliceLate_within _ _) _ _)
  simp only [List.map_map]
  apply List.map_congr_left
  intro r _
  simp only [Function.comp]
  split <;> rfl

theorem State.splices_within (s : State) (l : List SpliceEntry) : Within s { s with splices := l } :=
  .of rfl rfl rfl rfl rfl rfl rfl rfl rfl rfl rfl rfl rfl

/-! ### The line -/

theorem State.line_within (s : State) (l : LineState) : Within s { s with line := l } :=
  .of rfl rfl rfl rfl rfl rfl rfl rfl rfl rfl rfl rfl rfl

theorem State.estop_within (s : State) (b : Bool) : Within s { s with estop := b } :=
  .of rfl rfl rfl rfl rfl rfl rfl rfl rfl rfl rfl rfl rfl

theorem State.unphaseAll_within (s : State) : Within s s.unphaseAll := by
  refine Within.of_calcs rfl fun h st => ?_
  simpa [State.unphaseAll] using h st

theorem State.startLine_within (s : State) : Within s s.startLine :=
  (((s.line_within _).trans (State.unphaseAll_within _)).trans (State.reader_within _ _)).trans (State.reversalTest_within _)

theorem State.saveContexts_within (s : State) : Within s s.saveContexts := by
  refine Within.of_seqr rfl (fun v => ?_) (fun h v => ?_)
  · simp [State.saveContexts]
  · simpa [State.saveContexts] using h v

theorem State.dropContexts_within (s : State) : Within s s.dropContexts := by
  refine Within.of_seqr rfl (fun v => ?_) (fun h v => ?_)
  · simp [State.dropContexts]
  · simpa [State.dropContexts] using h v

theorem State.enterHold_within (s : State) : Within s s.enterHold := by
  unfold State.enterHold
  refine Within.trans ?_ (State.offer_within _ _)
  refine Within.trans ?_ (State.deassertStop_within _)
  refine Within.trans ?_ (Within.foldl _ (fun s st => s.requestAbort_within st) _ _)
  exact (s.line_within _).trans (State.saveContexts_within _)

theorem State.loadTrim_within (s : State) (st : Idx) : Within s (s.loadTrim st) := by
  unfold State.loadTrim
  split
  · exact s.setTrim_within _ _ (natAbs_clampAbs _ _)
  · exact .refl s

theorem State.resumeLine_within (s : State) : Within s s.resumeLine := by
  unfold State.resumeLine
  dsimp only
  refine Within.trans ?_ (State.reversalTest_within _)
  refine Within.trans ?_ (State.dropContexts_within _)
  refine Within.trans ?_ (Within.foldl _ (fun s st => s.restrikeStation_within st) _ _)
  exact (s.line_within _).trans (Within.foldl _ (fun s st => s.loadTrim_within st) _ _)

theorem State.missInFlight_within (s : State) (st : Idx) : Within s (s.missInFlight st) :=
  Within.foldl _ (fun s _ => (s.closeAtReset_within _ _).trans (State.settleContext_within _ _ _ _)) _ _

end Sys2Proof.Machine
end

