-- ==== Sys2Proof/Laws/Trips.lean ====
section
/-! SUPPORT. Handing trips over (R84, R153): what settling them keeps, that it leaves every station state mirroring its fault unit, and
that it does nothing where they mirror them already. -/

namespace Sys2Proof.Machine

/-! ### Flags -/

/-- The flags of every fault unit stand as before. -/
def SameFlags (s t : State) : Prop :=
  ∀ u, (t.unit u).soft = (s.unit u).soft ∧ (t.unit u).hard = (s.unit u).hard ∧ (t.unit u).tripped = (s.unit u).tripped

theorem SameFlags.refl (s : State) : SameFlags s s := fun _ => ⟨rfl, rfl, rfl⟩

theorem SameFlags.trans {s t u : State} (a : SameFlags s t) (b : SameFlags t u) : SameFlags s u := fun v =>
  ⟨(b v).1.trans (a v).1, (b v).2.1.trans (a v).2.1, (b v).2.2.trans (a v).2.2⟩

theorem SameFlags.of_units {s t : State} (h : t.units = s.units) (h' : t.lineUnit = s.lineUnit) : SameFlags s t := by
  intro u; cases u <;> simp [State.unit, h, h']

theorem SameFlags.foldl {α : Type} (g : State → α → State) (h : ∀ s x, SameFlags s (g s x)) (l : List α) :
    ∀ s, SameFlags s (l.foldl g s) := by
  induction l with
  | nil => exact fun s => .refl s
  | cons x xs ih => exact fun s => (h s x).trans (ih _)

theorem State.warning_flags (s : State) (ev : FaultEvent) (h : ev.kind.cls = .warning) : SameFlags s (s.raise ev) := by
  rw [s.raise_warning ev h]
  exact fun u => ⟨(s.writeLatest_flags ev _ u).1, (s.writeLatest_flags ev _ u).2.1, (s.writeLatest_flags ev _ u).2.2.1⟩

theorem State.lowTest_flags (s : State) (st c : Idx) : SameFlags s (s.lowTest st c) := by
  unfold State.lowTest
  dsimp only
  split
  · refine SameFlags.trans ?_ (.of_units rfl rfl)
    refine SameFlags.trans ?_ (State.warning_flags _ _ rfl)
    exact .of_units rfl rfl
  · exact .refl s

theorem State.applyFoil_flags (s : State) (st : Idx) (r : FoilReport) (c : Idx) (h : r.breaks = .all false) :
    SameFlags s (s.applyFoil st r c) := by
  unfold State.applyFoil
  dsimp only
  have hb : r.breaks.get c = false := by rw [h]; cases c <;> rfl
  rw [hb, if_neg (by simp)]
  refine SameFlags.trans ?_ (State.lowTest_flags _ _ _)
  have h1 : SameFlags s (s.consume st c (r.advanced.get c)) := .of_units (by simp [State.consume]) (by simp [State.consume])
  refine h1.trans ?_
  split
  · split
    · exact .of_units (by simp) (by simp)
    · exact .refl _
  · exact .refl _

theorem State.applyFoilAll_flags (s : State) (st : Idx) (r : FoilReport) (h : r.breaks = .all false) :
    SameFlags s (s.applyFoilAll st r) := SameFlags.foldl _ (fun s c => s.applyFoil_flags st r c h) _ _

theorem State.closeByAbort_notMade_flags (s : State) (st : Idx) (q : SeqNo) (n : Four Nat) :
    SameFlags s (s.closeByAbort st q .notMade n) := by
  unfold State.closeByAbort
  split
  · rename_i r hr
    have hs : abortStatus (r.st.get st).decision .notMade ≠ .faulted := by
      cases (r.st.get st).decision <;> simp [abortStatus]
    dsimp only
    rw [if_neg hs]
    refine SameFlags.trans ?_ (State.applyFoilAll_flags _ _ _ rfl)
    exact .of_units (by simp) (by simp)
  · exact .of_units (by simp) (by simp)

theorem State.requestAbort_flags (s : State) (st : Idx) : SameFlags s (s.requestAbort st) := by
  unfold State.requestAbort
  split
  · exact .refl s
  · refine SameFlags.trans (t := s.withdrawQueued st) ?_ (.of_units (by simp) (by simp))
    unfold State.withdrawQueued
    split
    · exact SameFlags.trans (.of_units (by simp) (by simp)) (State.closeByAbort_notMade_flags _ _ _ _)
    · exact .refl s

/-! ### Trips -/

/-- What handing over trips keeps: all that an effect within a command keeps but the station states. -/
structure Settled (s t : State) : Prop extends Calm s t where
  keys : t.track.map recordKey = s.track.map recordKey
  next : t.nextSeq = s.nextSeq
  slots : ∀ j, slotKey (t.slots.get j) = slotKey (s.slots.get j)
  flags : SameFlags s t

theorem Settled.refl (s : State) : Settled s s :=
  let w := Within.refl s
  ⟨w.toCalm, w.keys, w.next, w.slots, .refl s⟩

theorem Settled.trans {s t u : State} (a : Settled s t) (b : Settled t u) : Settled s u :=
  ⟨a.toCalm.trans b.toCalm, b.keys.trans a.keys, b.next.trans a.next, fun j => (b.slots j).trans (a.slots j),
    a.flags.trans b.flags⟩

theorem Within.settled {s t : State} (w : Within s t) (f : SameFlags s t) : Settled s t := ⟨w.toCalm, w.keys, w.next, w.slots, f⟩

/-- The mark of a trip at the sequencer, with what the trip found. -/
theorem State.markTripped_settled (s : State) (st : Idx) (b : Option BeforeTrip) :
    Settled s (s.updSeqr st fun sq => { sq with tripped := true, beforeTrip := b }) where
  ports _ := rfl
  notices h := h
  stop h := h
  units u := by cases u <;> exact .refl _
  claims _ := rfl
  owned h := h
  overdue h := by
    intro v
    simp only [State.updSeqr, Four.get_upd]
    split
    · exact h _
    · exact h v
  outcomes h := h
  heat h := h
  settings := rfl
  trims h := h
  keys := rfl
  next := rfl
  slots _ := rfl
  flags := .of_units rfl rfl

/-- A trip handed over keeps what settling keeps, and marks its station alone. -/
theorem State.tripEffects_settled (s : State) (st : Idx) : Settled s (s.tripEffects st) ∧
    ∀ v, ((s.tripEffects st).seqr.get v).tripped = if v = st then true else (s.seqr.get v).tripped := by
  unfold State.tripEffects
  have w : Within (s.updSeqr st fun sq => { sq with tripped := true, beforeTrip := s.tripFinds st })
      (((s.updSeqr st fun sq => { sq with tripped := true, beforeTrip := s.tripFinds st }).unphase st).requestAbort st) :=
    (State.unphase_within _ _).trans (State.requestAbort_within _ _)
  have f : SameFlags (s.updSeqr st fun sq => { sq with tripped := true, beforeTrip := s.tripFinds st })
      (((s.updSeqr st fun sq => { sq with tripped := true, beforeTrip := s.tripFinds st }).unphase st).requestAbort st) :=
    SameFlags.trans (.of_units rfl rfl) (State.requestAbort_flags _ _)
  refine ⟨(s.markTripped_settled st _).trans (w.settled f), fun v => ?_⟩
  rw [w.trips v]
  simp only [State.updSeqr, Four.get_upd]
  split
  · rfl
  · rfl

/-- Closing an order by an abort leaves what a trip found. -/
theorem State.closeByAbort_beforeTrip (s : State) (st : Idx) (q : SeqNo) (x : AbortFound) (n : Four Nat) (v : Idx) :
    ((s.closeByAbort st q x n).seqr.get v).beforeTrip = (s.seqr.get v).beforeTrip := by
  have u : ∀ (f : Sequencer → Sequencer) (t : State), (∀ y, (f y).beforeTrip = y.beforeTrip) →
      ((t.updSeqr st f).seqr.get v).beforeTrip = (t.seqr.get v).beforeTrip := by
    intro f t h
    simp only [State.updSeqr, Four.get_upd]
    split
    · rename_i e; rw [h, e]
    · rfl
  unfold State.closeByAbort
  split
  · dsimp only
    split <;> simp [State.settleContext, State.leaveInFlight, u]
  · exact u _ _ fun _ => rfl

/-- A trip keeps what it found, for the hold entry that comes with it (R84, R141). -/
theorem State.tripEffects_beforeTrip (s : State) (st : Idx) : ((s.tripEffects st).seqr.get st).beforeTrip = s.tripFinds st := by
  have h : ∀ t : State, ((t.requestAbort st).seqr.get st).beforeTrip = (t.seqr.get st).beforeTrip := by
    intro t
    unfold State.requestAbort State.withdrawQueued State.sendAbort
    dsimp only
    repeat' split
    all_goals simp [State.updSeqr, State.updLink, State.closeByAbort_beforeTrip]
  unfold State.tripEffects
  rw [h]
  simp [State.updSeqr, State.unphase, State.updCalc]

theorem settleFold (l : List Idx) : ∀ s : State,
    Settled s (l.foldl (fun s st => if (s.units.get st).tripped ∧ (s.seqr.get st).tripped = false then s.tripEffects st else s) s) ∧
    ∀ v, ((l.foldl (fun s st => if (s.units.get st).tripped ∧ (s.seqr.get st).tripped = false then s.tripEffects st else s) s).seqr.get
        v).tripped = ((s.seqr.get v).tripped || (decide (v ∈ l) && (s.units.get v).tripped)) := by
  induction l with
  | nil => intro s; exact ⟨.refl s, fun v => by simp⟩
  | cons x xs ih =>
    intro s
    rw [List.foldl_cons]
    by_cases hx : (s.units.get x).tripped = true ∧ (s.seqr.get x).tripped = false
    · rw [if_pos hx]
      obtain ⟨h1, h2⟩ := s.tripEffects_settled x
      obtain ⟨k1, k2⟩ := ih (s.tripEffects x)
      refine ⟨h1.trans k1, fun v => ?_⟩
      rw [k2 v, h2 v]
      have hu : ((s.tripEffects x).units.get v).tripped = (s.units.get v).tripped := (h1.flags (.station v)).2.2
      rw [hu]
      by_cases e : v = x
      · subst e; simp [hx.1]
      · simp [e]
    · rw [if_neg hx]
      obtain ⟨k1, k2⟩ := ih s
      refine ⟨k1, fun v => ?_⟩
      rw [k2 v]
      by_cases e : v = x
      · subst e
        cases h1 : (s.units.get v).tripped <;> cases h2 : (s.seqr.get v).tripped <;> simp_all
      · simp [e]

theorem State.settleTrips_settled (s : State) : Settled s s.settleTrips := (settleFold Idx.all s).1

/-- After settling every station with a tripped unit is TRIPPED. -/
theorem State.settleTrips_trips (s : State) (v : Idx) :
    (s.settleTrips.seqr.get v).tripped = ((s.seqr.get v).tripped || (s.units.get v).tripped) := by
  have h := (settleFold Idx.all s).2 v
  have e : decide (v ∈ Idx.all) = true := by cases v <;> decide
  rw [e, Bool.true_and] at h
  exact h

/-- Where every tripped unit's station is TRIPPED already, nothing is handed over. -/
theorem State.settleTrips_id {s : State} (h : ∀ st, (s.units.get st).tripped = true → (s.seqr.get st).tripped = true) :
    s.settleTrips = s := by
  have : ∀ st, ¬ ((s.units.get st).tripped = true ∧ (s.seqr.get st).tripped = false) := by
    intro st ⟨a, b⟩; rw [h st a] at b; exact absurd b (by simp)
  unfold State.settleTrips
  have key : ∀ l : List Idx, l.foldl (fun s st => if (s.units.get st).tripped ∧ (s.seqr.get st).tripped = false then s.tripEffects st
      else s) s = s := by
    intro l
    induction l with
    | nil => rfl
    | cons x xs ih => rw [List.foldl_cons, if_neg (this x), ih]
  exact key _

/-- A commit taken at a join keeps what an effect within a command keeps, but for the station states: its trip is handed over with
it (R90). -/
theorem State.commitIfReached_calm (s : State) (st : Idx) (q : SeqNo) :
    Calm s (s.commitIfReached st q) ∧ (s.commitIfReached st q).track.map recordKey = s.track.map recordKey ∧
    (s.commitIfReached st q).nextSeq = s.nextSeq ∧
    ∀ j, slotKey ((s.commitIfReached st q).slots.get j) = slotKey (s.slots.get j) := by
  have refl : Within s s := .refl s
  unfold State.commitIfReached
  repeat' split
  · have a := s.commitRecord_within st
    exact ⟨(a _).toCalm.trans (State.settleTrips_settled _).toCalm, (State.settleTrips_settled _).keys.trans (a _).keys,
      (State.settleTrips_settled _).next.trans (a _).next, fun j => ((State.settleTrips_settled _).slots j).trans ((a _).slots j)⟩
  · exact ⟨refl.toCalm, rfl, rfl, fun _ => rfl⟩
  · exact ⟨refl.toCalm, rfl, rfl, fun _ => rfl⟩

/-- An event in which no unit trips ends as it stands. -/
theorem State.done_of {s t : State} (h : TripsMirrored s) (hu : ∀ st, (t.units.get st).tripped = (s.units.get st).tripped)
    (hq : ∀ st, (t.seqr.get st).tripped = (s.seqr.get st).tripped) : t.done = .next t := by
  unfold State.done
  rw [State.settleTrips_id]
  intro st hst; rw [hq st, h st]; rwa [hu] at hst

end Sys2Proof.Machine
end

