-- ==== Sys2Proof/Laws/Fields.lean ====
section
/-! SUPPORT. What the sequencers' operations do to the station fields of the track's records, to the lanes, and to the entries of the
job slots: one lemma for each operation, from which the effect of a report, an ack or an abort is read off. -/

namespace Sys2Proof.Machine

/-! ### Station fields of records -/

/-- The station fields of the record of a seq. -/
def State.fieldsOf (s : State) (q : SeqNo) : Option (Four StationField) := (s.record q).map (·.st)

theorem findRecord_seq {q : SeqNo} {l : List TrackRecord} {r : TrackRecord} (h : findRecord q l = some r) : r.seq = q := by
  induction l with
  | nil => simp [findRecord] at h
  | cons x xs ih =>
    unfold findRecord at h
    split at h
    · cases h; assumption
    · exact ih h

theorem State.record_seq {s : State} {q : SeqNo} {r : TrackRecord} (h : s.record q = some r) : r.seq = q := findRecord_seq h

theorem State.record_updRecord (s : State) (q q' : SeqNo) (f : TrackRecord → TrackRecord) (hf : ∀ r, (f r).seq = r.seq) :
    (s.updRecord q f).record q' = (s.record q').map fun r => if q' = q then f r else r := by
  unfold State.record State.updRecord
  dsimp only
  induction s.track with
  | nil => rfl
  | cons x xs ih =>
    simp only [List.map_cons, findRecord]
    have e : (if x.seq = q then f x else x).seq = x.seq := by split <;> simp [hf]
    rw [e]
    split
    · rename_i h; subst h; simp
    · exact ih

theorem State.record_updField (s : State) (q q' : SeqNo) (st : Idx) (f : StationField → StationField) :
    (s.updField q st f).record q' = (s.record q').map fun r => if q' = q then r.updStation st f else r :=
  s.record_updRecord q q' _ (fun _ => rfl)

/-- The fields of two states agree at every seq. -/
def SameFields (s t : State) : Prop := ∀ q, t.fieldsOf q = s.fieldsOf q

theorem SameFields.refl (s : State) : SameFields s s := fun _ => rfl

theorem SameFields.trans {s t u : State} (a : SameFields s t) (b : SameFields t u) : SameFields s u := fun q => (b q).trans (a q)

theorem SameFields.of_track {s t : State} (h : t.track = s.track) : SameFields s t := by
  intro q; simp only [State.fieldsOf, State.record, h]

theorem SameFields.foldl {α : Type} (g : State → α → State) (h : ∀ s x, SameFields s (g s x)) (l : List α) :
    ∀ s, SameFields s (l.foldl g s) := by
  induction l with
  | nil => exact fun s => .refl s
  | cons x xs ih => exact fun s => (h s x).trans (ih _)

theorem SameFields.updRecord (s : State) (q : SeqNo) (f : TrackRecord → TrackRecord) (h : ∀ r, (f r).seq = r.seq)
    (h' : ∀ r, (f r).st = r.st) : SameFields s (s.updRecord q f) := by
  intro q'
  simp only [State.fieldsOf, State.record_updRecord s q q' f h, Option.map_map]
  congr 1
  funext r
  simp only [Function.comp]
  split
  · exact h' r
  · rfl

theorem State.meetWatch_fields (s : State) (w : Idx) (q : Option SeqNo) : SameFields s (s.meetWatch w q) := by
  unfold State.meetWatch
  dsimp only
  repeat' split
  all_goals first
    | exact .of_track (by simp)
    | exact SameFields.trans (.of_track (by simp)) (SameFields.updRecord _ _ _ (by intro _; rfl) (by intro _; rfl))

theorem State.testLevel_fields (s : State) (w : Idx) (b : Bool) : SameFields s (s.testLevel w b) := by
  unfold State.testLevel
  repeat' split
  · exact .refl s
  · exact s.meetWatch_fields _ _
  · exact .of_track (by simp)

theorem State.laneChanged_fields (s : State) (st c : Idx) : SameFields s (s.laneChanged st c) := by
  refine SameFields.foldl _ (fun s w => ?_) _ _
  repeat' split
  all_goals first | exact .refl s | exact s.testLevel_fields _ _

theorem State.trimChanged_fields (s : State) (st : Idx) : SameFields s (s.trimChanged st) := by
  refine SameFields.foldl _ (fun s w => ?_) _ _
  repeat' split
  all_goals first | exact .refl s | exact s.testLevel_fields _ _

theorem State.commitWatched_fields (s : State) (st : Idx) (q : SeqNo) : SameFields s (s.commitWatched st q) := by
  refine SameFields.foldl _ (fun s w => ?_) _ _
  dsimp only
  split
  · exact s.meetWatch_fields _ _
  · exact .refl s

theorem State.setTrim_fields (s : State) (st : Idx) (t : Int) : SameFields s (s.setTrim st t) := by
  unfold State.setTrim
  split
  · exact .refl s
  · exact SameFields.trans (.of_track (by simp)) (State.trimChanged_fields _ _)

theorem State.applyFoil_fields (s : State) (st : Idx) (r : FoilReport) (c : Idx) : SameFields s (s.applyFoil st r c) := by
  unfold State.applyFoil
  dsimp only
  have h1 : SameFields s (s.consume st c (r.advanced.get c)) :=
    SameFields.trans (.of_track (by simp)) (State.laneChanged_fields _ _ _)
  refine h1.trans ?_
  generalize s.consume st c (r.advanced.get c) = s1
  repeat' split
  all_goals exact .of_track (by simp)

theorem State.applyFoilAll_fields (s : State) (st : Idx) (r : FoilReport) : SameFields s (s.applyFoilAll st r) :=
  SameFields.foldl _ (fun s c => s.applyFoil_fields st r c) _ _

/-- The status and the report of a record at a station. -/
theorem State.fieldsOf_updField (s : State) (q q' : SeqNo) (st : Idx) (f : StationField → StationField) :
    (s.updField q st f).fieldsOf q' = (s.fieldsOf q').map fun x => if q' = q then x.upd st f else x := by
  simp only [State.fieldsOf, State.record_updField, Option.map_map]
  congr 1
  funext r
  simp only [Function.comp]
  split <;> rfl

/-! ### Lanes -/

/-- The remaining and the reserved foil of a lane. -/
def Lane.foil (l : Lane) : Nat × Nat := (l.remaining, l.reserved)

theorem State.lane_updLane (s : State) (st c st' c' : Idx) (f : Lane → Lane) :
    (s.updLane st c f).lane st' c' = if (st', c') = (st, c) then f (s.lane st c) else s.lane st' c' := by
  simp only [State.lane, State.updLane, Four.get_upd]
  by_cases h : st' = st
  · subst h
    by_cases h' : c' = c
    · subst h'; simp
    · simp [h', Four.get_upd]
  · simp [h]

theorem State.lowTest_foil (s : State) (st c st' c' : Idx) : ((s.lowTest st c).lane st' c').foil = (s.lane st' c').foil := by
  unfold State.lowTest
  dsimp only
  split
  · have : ((((s.updLane st c fun l => { l with state := .low }).raise
      { kind := .foilLow, unit := .station st, column := some c }).offer (.foilLow st c)).lane st' c') =
        (s.updLane st c fun l => { l with state := .low }).lane st' c' := by simp [State.lane]
    rw [this, State.lane_updLane]
    split
    · rename_i e; cases e; rfl
    · rfl
  · rfl

theorem State.breakLane_foil (s : State) (st c : Idx) (q : SeqNo) (st' c' : Idx) :
    ((s.breakLane st c q).lane st' c').foil = (s.lane st' c').foil := by
  unfold State.breakLane
  have h : ∀ ev : FaultEvent, (((s.updLane st c fun l => { l with state := .broken }).raise ev).lane st' c').foil =
      (s.lane st' c').foil := by
    intro ev
    have : ((s.updLane st c fun l => { l with state := .broken }).raise ev).lane st' c' =
        (s.updLane st c fun l => { l with state := .broken }).lane st' c' := by simp [State.lane]
    rw [this, State.lane_updLane]
    split
    · rename_i e; cases e; rfl
    · rfl
  split
  all_goals first | exact h _ | rfl

theorem State.consume_foil (s : State) (st c : Idx) (n : Nat) (st' c' : Idx) :
    ((s.consume st c n).lane st' c').foil =
      if (st', c') = (st, c) then ((s.lane st c).remaining - n, (s.lane st c).reserved) else (s.lane st' c').foil := by
  have : (s.consume st c n).lane st' c' = (s.updLane st c fun l => { l with remaining := l.remaining - n }).lane st' c' := by
    simp [State.lane, State.consume]
  rw [this, State.lane_updLane]
  split <;> rfl

theorem State.applyFoil_foil (s : State) (st : Idx) (r : FoilReport) (c st' c' : Idx) :
    ((s.applyFoil st r c).lane st' c').foil =
      if (st', c') = (st, c) then ((s.lane st c).remaining - r.advanced.get c, (s.lane st c).reserved)
      else (s.lane st' c').foil := by
  unfold State.applyFoil
  dsimp only
  rw [← State.consume_foil]
  generalize s.consume st c (r.advanced.get c) = s1
  have h2 : ∀ s2 : State, s2.lanes = s1.lanes →
      ((if r.breaks.get c = true then (s2.lowTest st c).breakLane st c r.seq else s2.lowTest st c).lane st' c').foil =
        (s1.lane st' c').foil := by
    intro s2 e
    split
    · rw [State.breakLane_foil, State.lowTest_foil]; simp only [State.lane, e]
    · rw [State.lowTest_foil]; simp only [State.lane, e]
  apply h2
  repeat' split
  all_goals simp

/-- What a report takes from the lanes of its station. -/
theorem State.applyFoilAll_foil (s : State) (st : Idx) (r : FoilReport) (st' c' : Idx) :
    ((s.applyFoilAll st r).lane st' c').foil =
      if st' = st then ((s.lane st c').remaining - r.advanced.get c', (s.lane st c').reserved) else (s.lane st' c').foil := by
  have key : ∀ (l : List Idx), l.Nodup → ∀ s : State, ((l.foldl (fun s c => s.applyFoil st r c) s).lane st' c').foil =
      if st' = st ∧ c' ∈ l then ((s.lane st c').remaining - r.advanced.get c', (s.lane st c').reserved)
      else (s.lane st' c').foil := by
    intro l
    induction l with
    | nil => intro _ s; simp
    | cons x xs ih =>
      intro hn s
      obtain ⟨hx, hn⟩ := List.nodup_cons.1 hn
      rw [List.foldl_cons, ih hn]
      have k := fun a b => s.applyFoil_foil st r x a b
      by_cases e : st' = st
      · subst e
        by_cases e' : c' = x
        · subst e'
          rw [if_neg (by simp [hx]), if_pos (by simp), k, if_pos rfl]
        · have h1 := k st' c'
          rw [if_neg (by simp [e'])] at h1
          have h2 : ((s.applyFoil st' r x).lane st' c').remaining = (s.lane st' c').remaining := congrArg Prod.fst h1
          have h3 : ((s.applyFoil st' r x).lane st' c').reserved = (s.lane st' c').reserved := congrArg Prod.snd h1
          rw [h1, h2, h3]
          simp [e']
      · rw [if_neg (fun h => e h.1), if_neg (fun h => e h.1), k, if_neg (by simp [e])]
  have h := key Idx.all (by decide) s
  unfold State.applyFoilAll
  rw [h]
  have : c' ∈ Idx.all := by cases c' <;> decide
  simp [this]

theorem State.release_foil (s : State) (st : Idx) (n : Four Nat) (st' c' : Idx) :
    ((s.release st n).lane st' c').foil =
      if st' = st then ((s.lane st c').remaining, (s.lane st c').reserved - n.get c') else (s.lane st' c').foil := by
  simp only [State.lane, State.release, State.updLanes, Four.get_upd]
  split
  · rename_i e; subst e; simp [Lane.foil]
  · rfl

theorem State.lane_of_lanes {s t : State} (h : t.lanes = s.lanes) (st c : Idx) : t.lane st c = s.lane st c := by
  simp only [State.lane, h]

theorem State.endUnreported_foil (s : State) (st : Idx) (j : Slot) (q : SeqNo) (n : Four Nat) (st' c' : Idx) :
    ((s.endUnreported st j q n).lane st' c').foil =
      if st' = st then ((s.lane st c').remaining, (s.lane st c').reserved - n.get c') else (s.lane st' c').foil := by
  unfold State.endUnreported
  have key : ∀ (l : List Idx) (s : State), ((l.foldl (fun s c => s.lowTest st c) s).lane st' c').foil = (s.lane st' c').foil := by
    intro l
    induction l with
    | nil => exact fun _ => rfl
    | cons x xs ih => intro s; rw [List.foldl_cons, ih, State.lowTest_foil]
  rw [key, State.lane_of_lanes (s := s.release st n) (by simp [State.settleUnreported]), State.release_foil]

/-! ### The numbers of an entry -/

/-- What of an entry no descriptor's change touches. -/
def StationEntry.numbers (e : StationEntry) : StationEntry := { e with lanes := none }

/-- Every entry keeps its numbers. -/
def SameNumbers (s t : State) : Prop := ∀ j st, (t.entry j st).map (·.numbers) = (s.entry j st).map (·.numbers)

theorem SameNumbers.refl (s : State) : SameNumbers s s := fun _ _ => rfl

theorem SameNumbers.trans {s t u : State} (a : SameNumbers s t) (b : SameNumbers t u) : SameNumbers s u :=
  fun j st => (b j st).trans (a j st)

theorem SameNumbers.of_slots {s t : State} (h : t.slots = s.slots) : SameNumbers s t := by
  intro j st; simp only [State.entry, h]

theorem SameNumbers.foldl {α : Type} (g : State → α → State) (h : ∀ s x, SameNumbers s (g s x)) (l : List α) :
    ∀ s, SameNumbers s (l.foldl g s) := by
  induction l with
  | nil => exact fun s => .refl s
  | cons x xs ih => exact fun s => (h s x).trans (ih _)

theorem State.setEntry_numbers (s : State) (j : Slot) (st : Idx) (e e' : StationEntry) (h : s.entry j st = some e)
    (h' : e'.numbers = e.numbers) : SameNumbers s (s.setEntry j st e') := by
  intro i v
  unfold State.entry State.setEntry at *
  dsimp only
  rw [Two.get_upd]
  by_cases hi : i = j
  · subst hi
    rw [if_pos rfl]
    cases hr : (s.slots.get i).job with
    | none => simp [hr]
    | some r =>
      simp only [hr, Option.map_some] at h ⊢
      rw [Four.get_set]
      split
      · rename_i e; subst e; rw [h]; simp [h']
      · rfl
  · rw [if_neg hi]

theorem State.setDescriptor_numbers (s : State) (j : Slot) (st c : Idx) (d : Descriptor) :
    SameNumbers s (s.setDescriptor j st c d) := by
  unfold State.setDescriptor
  split
  · rename_i e h; exact s.setEntry_numbers j st e _ h rfl
  · exact .refl s

theorem State.giveUpFirstOff_numbers (s : State) (j : Slot) (st : Idx) (q : SeqNo) : SameNumbers s (s.giveUpFirstOff j st q) := by
  unfold State.giveUpFirstOff
  split
  · rename_i e h; exact s.setEntry_numbers j st e _ h rfl
  · exact .refl s

theorem State.applyFoil_numbers (s : State) (st : Idx) (r : FoilReport) (c : Idx) : SameNumbers s (s.applyFoil st r c) := by
  unfold State.applyFoil
  dsimp only
  have h1 : SameNumbers s (s.consume st c (r.advanced.get c)) := .of_slots (by simp)
  refine h1.trans ?_
  generalize s.consume st c (r.advanced.get c) = s1
  have h2 : ∀ s2 : State, SameNumbers s1 s2 →
      SameNumbers s1 (if r.breaks.get c = true then (s2.lowTest st c).breakLane st c r.seq else s2.lowTest st c) := by
    intro s2 k
    split
    · exact k.trans (.of_slots (by simp))
    · exact k.trans (.of_slots (by simp))
  apply h2
  repeat' split
  all_goals first | exact .refl _ | exact s1.setDescriptor_numbers _ _ _ _

theorem State.applyFoilAll_numbers (s : State) (st : Idx) (r : FoilReport) : SameNumbers s (s.applyFoilAll st r) :=
  SameNumbers.foldl _ (fun s c => s.applyFoil_numbers st r c) _ _

/-! ### Closing an order (R60, R91, R94) -/

@[simp] theorem State.endUnreported_track (s : State) (st : Idx) (j : Slot) (q : SeqNo) (n : Four Nat) :
    (s.endUnreported st j q n).track = s.track := by simp

/-- A warning at a station leaves the line's unit and STOP REQUEST. -/
theorem State.warning_rest (s : State) (ev : FaultEvent) (st : Idx) (h : ev.kind.cls = .warning) (hu : ev.unit = .station st) :
    (s.raise ev).lineUnit = s.lineUnit ∧ (s.raise ev).stopReq = s.stopReq := by
  rw [s.raise_warning ev h]
  simp [State.writeLatest, hu, State.setUnit]

@[simp] theorem State.lowTest_rest (s : State) (st c : Idx) :
    (s.lowTest st c).lineUnit = s.lineUnit ∧ (s.lowTest st c).stopReq = s.stopReq := by
  unfold State.lowTest
  dsimp only
  split
  · exact (s.updLane st c fun l => { l with state := .low }).warning_rest _ st rfl rfl
  · exact ⟨rfl, rfl⟩

@[simp] theorem State.endUnreported_rest (s : State) (st : Idx) (j : Slot) (q : SeqNo) (n : Four Nat) :
    (s.endUnreported st j q n).lineUnit = s.lineUnit ∧ (s.endUnreported st j q n).stopReq = s.stopReq := by
  unfold State.endUnreported
  simp only [Idx.all, List.foldl_cons, List.foldl_nil, State.lowTest_rest]
  simp

@[simp] theorem State.closeUnreported_rest (s : State) (st : Idx) (q : SeqNo) (x : Status) :
    (s.closeUnreported st q x).lineUnit = s.lineUnit ∧ (s.closeUnreported st q x).stopReq = s.stopReq := by
  unfold State.closeUnreported
  split
  · simp only [State.endUnreported_rest]; simp
  · simp

@[simp] theorem State.applyFoilAll_lineUnit (s : State) (st : Idx) (r : FoilReport) : (s.applyFoilAll st r).lineUnit = s.lineUnit := by
  have hb : ∀ (s : State) (c : Idx) (q : SeqNo), (s.breakLane st c q).lineUnit = s.lineUnit := by
    intro s c q
    unfold State.breakLane
    split
    all_goals first
      | exact ((s.updLane st c fun l => { l with state := .broken }).raise_station_others _ st rfl).1
      | rfl
  have h : ∀ (s : State) (c : Idx), (s.applyFoil st r c).lineUnit = s.lineUnit := by
    intro s c
    unfold State.applyFoil
    dsimp only
    repeat' split
    all_goals simp [hb]
  unfold State.applyFoilAll
  simp only [Idx.all, List.foldl_cons, List.foldl_nil, h]

/-- What a record's station fields are after its order is closed without a report. -/
theorem State.closeUnreported_fields (s : State) (st : Idx) (q : SeqNo) (x : Status) (q' : SeqNo) :
    (s.closeUnreported st q x).fieldsOf q' =
      (s.fieldsOf q').map fun y => if q' = q then y.upd st fun f => { f with status := x } else y := by
  unfold State.closeUnreported
  split
  · have h : ∀ (j : Slot) (n : Four Nat), SameFields (s.updField q st fun f => { f with status := x })
        (((s.updField q st fun f => { f with status := x }).leaveInFlight st q).endUnreported st j q n) :=
      fun _ _ => .of_track (by simp)
    rw [h, State.fieldsOf_updField]
  · rename_i h
    have : SameFields s (s.leaveInFlight st q) := .of_track (by simp)
    rw [this]
    by_cases e : q' = q
    · subst e; simp [State.fieldsOf, h]
    · simp [e]

theorem State.closeUnreported_seqr (s : State) (st : Idx) (q : SeqNo) (x : Status) :
    (s.closeUnreported st q x).seqr = s.seqr.upd st fun sq =>
      { sq with inFlight := sq.inFlight.filter fun e => decide (e.seq ≠ q) } := by
  unfold State.closeUnreported
  split
  · have h : ∀ (a : State) (j : Slot) (n : Four Nat), (a.endUnreported st j q n).seqr = a.seqr := by simp
    rw [h]; rfl
  · rfl

theorem State.closeUnreported_flags (s : State) (st : Idx) (q : SeqNo) (x : Status) : SameFlags s (s.closeUnreported st q x) := by
  unfold State.closeUnreported
  split
  · refine SameFlags.trans (t := ((s.updField q st fun f => { f with status := x }).leaveInFlight st q)) (.of_units (by simp) (by simp)) ?_
    unfold State.endUnreported
    exact SameFlags.trans (.of_units (by simp) (by simp)) (SameFlags.foldl _ (fun s c => s.lowTest_flags st c) _ _)
  · exact .of_units (by simp) (by simp)

theorem State.closeUnreported_foil {s : State} {q : SeqNo} {r : TrackRecord} (h : s.record q = some r) (st : Idx) (x : Status)
    (st' c' : Idx) : ((s.closeUnreported st q x).lane st' c').foil =
      if st' = st then ((s.lane st c').remaining, (s.lane st c').reserved - (r.st.get st).feeds.get c')
      else (s.lane st' c').foil := by
  unfold State.closeUnreported
  rw [h]
  dsimp only
  rw [State.endUnreported_foil]
  simp [State.lane]

/-- Closing orders one after the other. -/
theorem closeFold_fields (st : Idx) (x : Status) (g : State → SeqNo → State)
    (hg : ∀ s q, SameFields (s.closeUnreported st q x) (g s q)) : ∀ (l : List SeqNo) (s : State) (q : SeqNo),
    (l.foldl g s).fieldsOf q = (s.fieldsOf q).map fun y => if q ∈ l then y.upd st fun f => { f with status := x } else y := by
  intro l
  induction l with
  | nil => intro s q; simp
  | cons p ps ih =>
    intro s q
    rw [List.foldl_cons, ih, hg, State.closeUnreported_fields, Option.map_map]
    congr 1
    funext y
    simp only [Function.comp, List.mem_cons]
    by_cases h1 : q = p
    · subst h1
      by_cases h2 : q ∈ ps
      · simp only [if_true, true_or, h2]
        cases st <;> rfl
      · simp only [if_true, true_or, h2, if_false]
    · simp only [h1, if_false, false_or]

theorem closeFold_seqr (st : Idx) (x : Status) (g : State → SeqNo → State)
    (hg : ∀ s q v, ((g s q).seqr.get v).inFlight = ((s.closeUnreported st q x).seqr.get v).inFlight) :
    ∀ (l : List SeqNo) (s : State) (v : Idx), ((l.foldl g s).seqr.get v).inFlight =
      if v = st then (s.seqr.get st).inFlight.filter fun e => decide (e.seq ∉ l) else (s.seqr.get v).inFlight := by
  intro l
  induction l with
  | nil => intro s v; by_cases h : v = st <;> simp [h]
  | cons p ps ih =>
    intro s v
    rw [List.foldl_cons, ih, hg, hg, State.closeUnreported_seqr]
    simp only [Four.get_upd]
    by_cases h : v = st
    · subst h
      simp only [if_true, List.filter_filter, List.mem_cons, not_or]
      apply List.filter_congr
      intro e _
      by_cases h1 : e.seq = p <;> by_cases h2 : e.seq ∈ ps <;> simp [h1, h2]
    · simp [h]

end Sys2Proof.Machine
end

