-- ==== Sys2Proof/Laws/Orders.lean ====
section
/-! SUPPORT. What the operations on an order do: its ack, the learning from its report, its closing by an abort, the overdue orders. -/

namespace Sys2Proof.Machine

/-- A first soft fault at a unit sets SOFT, writes LATEST and offers the notice (R154). -/
theorem Orders.raise_soft_first (s : State) (ev : FaultEvent) (h : ev.kind.cls = .soft) (h' : (s.unit ev.unit).soft = false) :
    s.raise ev = ((s.setUnit ev.unit { s.unit ev.unit with soft := true }).writeLatest ev .setSoft).offer (.unitSoft ev.unit) := by
  unfold State.raise; rw [h]; simp [h']

/-- A warning at a station writes its LATEST record and nothing else (R153, R161). -/
theorem Orders.warning_eq (s : State) (st : Idx) (ev : FaultEvent) (h : ev.kind.cls = .warning) (hu : ev.unit = .station st) :
    s.raise ev = { s with units := s.units.set st { s.units.get st with latest := some (s.faultRecord ev .warning) } } := by
  rw [State.raise_warning _ _ h]; simp only [State.writeLatest, hu, State.setUnit, State.unit]

/-- A deadline the web has not reached is not due. -/
theorem Orders.due_false {s : State} {st : Idx} {r : TrackRecord} (h : reached s.web.h (s.deadline st r) = false) : s.deadlineDue st r = false := by
  simp [State.deadlineDue, h]

/-- An accepted ack before the report deadline: the awaited answer and its timer end, the order is ACKED, and the queue moves up (R69). -/
theorem Orders.ack_mid (s : State) (st : Idx) (q : SeqNo) (r : TrackRecord) (hr : s.record q = some r)
    (hd : reached s.web.h (plus ((r.st.get st).target.getD 0) (s.reportSpan r.slot st)) = false) :
    s.ackAccepted st q = ((s.clearAwaited st).updField q st fun f => { f with status := .acked }).releaseQueue st := by
  unfold State.ackAccepted
  dsimp only
  have e : ((s.clearAwaited st).updField q st fun f => { f with status := .acked }).record q = some (r.updStation st fun f => { f with status := .acked }) := by
    rw [State.record_updField]
    have : (s.clearAwaited st).record q = s.record q := rfl
    rw [this, hr]; simp
  rw [e]
  dsimp only
  rw [Orders.due_false, if_neg (by simp)]
  rw [← hd]
  simp only [State.deadline, TrackRecord.updStation, Four.get_upd, if_true, StationField.issued]
  rfl

/-- An empty queue releases nothing. -/
theorem Orders.release_queue_none {x : State} {st : Idx} (h : (x.seqr.get st).queue = none) : x.releaseQueue st = x := by
  unfold State.releaseQueue; rw [h]; split <;> simp_all

/-- The status in a record whose station fields are known. -/
theorem Orders.status_of {t : State} {q : SeqNo} {st : Idx} {y : Four StationField} (h : t.fieldsOf q = some y) :
    (t.record q).map (fun x => (x.st.get st).status) = some (y.get st).status := by
  unfold State.fieldsOf at h
  cases hr : t.record q with
  | none => rw [hr] at h; exact absurd h (by simp)
  | some r => rw [hr] at h; simp only [Option.map_some, Option.some.injEq] at h ⊢; rw [h]

/-- The station fields of a record. -/
theorem Orders.fields_of_of {s : State} {q : SeqNo} {r : TrackRecord} (h : s.record q = some r) : s.fieldsOf q = some r.st := by
  simp [State.fieldsOf, h]

/-- Raising a fault leaves the track as it is. -/
theorem Orders.raise_fields (s : State) (ev : FaultEvent) : SameFields s (s.raise ev) := .of_track (by simp)

/-- A first hard fault at a station sets HARD, fills FIRST and offers the notice (R155). -/
theorem Orders.raise_hard_first (s : State) (ev : FaultEvent) (st : Idx) (hc : ev.kind.cls = .hard) (hu : ev.unit = .station st) (hh : (s.units.get st).hard = false) :
    s.raise ev = { s with units := s.units.set st (({ s.units.get st with hard := true } : FaultUnit).fillFirst (s.faultRecord ev .setHard)),
                          ports := (s.offer (.unitHard (.station st))).ports } := by
  have : s.raise ev = s.raiseHard ev := by unfold State.raise; rw [hc]
  rw [this]; unfold State.raiseHard FaultUnit.hardEffect
  simp only [hu, State.unit, hh, if_true]
  rfl

/-- The parts of the state within which an order is closed without a report. -/
theorem Orders.close_unreported_shape (s : State) (st : Idx) (q : SeqNo) (x : Status) :
    s.closeUnreported st q x = { s with track := (s.closeUnreported st q x).track, seqr := (s.closeUnreported st q x).seqr, lanes := (s.closeUnreported st q x).lanes, slots := (s.closeUnreported st q x).slots, units := (s.closeUnreported st q x).units, ports := (s.closeUnreported st q x).ports } := by
  apply State.ext_fields <;> simp

/-- What ending an awaited answer does to the sequencers. -/
theorem Orders.clear_seqr (s : State) (st : Idx) : (s.clearAwaited st).seqr = s.seqr.upd st fun sq => { sq with awaited := .none, timer := none } := rfl

/-- An update of one sequencer that keeps TRIPPED keeps it everywhere. -/
theorem Orders.upd_trip (s t : State) (st : Idx) (f : Sequencer → Sequencer) (h : t.seqr = s.seqr.upd st f) (hf : ∀ q, (f q).tripped = q.tripped) :
    ∀ v, (t.seqr.get v).tripped = (s.seqr.get v).tripped := by
  intro v; rw [h, Four.get_upd]; split
  · rename_i e; subst e; exact hf _
  · rfl

/-- A soft fault at a station whose HARD is clear changes no TRIPPED. -/
theorem Orders.raise_soft_hard (s : State) (ev : FaultEvent) (st : Idx) (hc : ev.kind.cls = .soft) (hu : ev.unit = .station st) (hh : (s.units.get st).hard = false) :
    s.raise ev = { s with units := (s.raise ev).units, ports := (s.raise ev).ports } ∧ ∀ v, ((s.raise ev).units.get v).tripped = (s.units.get v).tripped := by
  unfold State.raise State.raiseHard FaultUnit.hardEffect
  rw [hc]
  simp only [hu, State.unit, hh, if_true]
  cases hs : (s.units.get st).soft
  · simp only [if_true, State.setUnit, State.writeLatest, State.offer, State.unit, hu]
    refine ⟨trivial, fun v => ?_⟩
    simp only [Four.get_set]
    split
    · rename_i e; subst e; simp
    · rfl
  · simp only [Bool.true_eq_false, if_false, State.setUnit, State.writeLatest, State.offer, State.unit, hu]
    refine ⟨trivial, fun v => ?_⟩
    simp only [Four.get_set]
    split
    · rename_i e; subst e; simp [FaultUnit.fillFirst]
    · rfl

/-- A hard fault at a station whose HARD is clear sets HARD and changes no TRIPPED. -/
theorem Orders.raise_hard_trip (s : State) (ev : FaultEvent) (st : Idx) (hc : ev.kind.cls = .hard) (hu : ev.unit = .station st) (hh : (s.units.get st).hard = false) :
    s.raise ev = { s with units := (s.raise ev).units, ports := (s.raise ev).ports } ∧ (∀ v, ((s.raise ev).units.get v).tripped = (s.units.get v).tripped) ∧
    ((s.raise ev).units.get st).hard = true := by
  rw [Orders.raise_hard_first s ev st hc hu hh]
  refine ⟨rfl, fun v => ?_, ?_⟩
  · simp only [Four.get_set]
    split
    · rename_i e; subst e; simp [FaultUnit.fillFirst]
    · rfl
  · simp [FaultUnit.fillFirst]

/-- The parts of the state within which a trim is set. -/
theorem Orders.set_trim_shape (s : State) (st : Idx) (t : Int) : s.setTrim st t = { s with calcs := (s.setTrim st t).calcs, track := (s.setTrim st t).track, watches := (s.setTrim st t).watches, stopReq := (s.setTrim st t).stopReq, ports := (s.setTrim st t).ports } := by
  apply State.ext_fields <;> simp

/-- Learning from a strike or a coasted order with a measured error: the trim and the off-register warning (R53 to R55). -/
theorem Orders.learn_order (x : State) (st : Idx) (r : TrackRecord) (d : Decision) (hl : d ≠ .lift) (n : Int) (p : StationEntry)
    (hh : (x.units.get st).hard = false) (ph : Bool) :
    let z := if d = .strike ∧ r.origin ≠ .coasted then x.setTrim st (learnedTrim (x.calcs.get st).trim n p.gain p.slew (x.trimLimit st)) else x
    let y := if p.tol < n.natAbs then z.raise { kind := .offRegister, unit := .station st, seq := some r.seq, target := (r.st.get st).target } else z
    SameFields x y ∧ (∀ v, (y.units.get v).tripped = (x.units.get v).tripped) ∧
      y = { x with track := y.track, calcs := y.calcs, units := y.units, ports := y.ports, watches := y.watches, stopReq := y.stopReq } ∧
      (d = .strike → r.origin ≠ .coasted → ∀ m, some n = some m → y.calcs.get st = { x.calcs.get st with trim := clampAbs (x.trimLimit st) ((x.calcs.get st).trim + (if p.slew < (-(rha (m * p.gain) 16)).natAbs then signOf (-(rha (m * p.gain) 16)) * p.slew else -(rha (m * p.gain) 16))) }) ∧
      (d ≠ .strike ∨ r.origin = .coasted ∨ some n = none → (y.calcs.get st).trim = (x.calcs.get st).trim) ∧
      (y.calcs.get st).phased = ((x.calcs.get st).phased || (decide (d = .lift) && ph && !(x.seqr.get st).tripped)) := by
  dsimp only
  generalize hz : (if d = .strike ∧ r.origin ≠ .coasted then x.setTrim st (learnedTrim (x.calcs.get st).trim n p.gain p.slew (x.trimLimit st)) else x) = z
  have z1 : SameFields x z := by
    subst hz; split
    · exact x.setTrim_fields _ _
    · exact .refl _
  have z2 : z = { x with calcs := z.calcs, track := z.track, watches := z.watches, stopReq := z.stopReq, ports := z.ports } := by
    subst hz; split
    · exact Orders.set_trim_shape _ _ _
    · rfl
  have zu : z.units = x.units := by rw [z2]
  have z3 : d = .strike → r.origin ≠ .coasted → z.calcs.get st = { x.calcs.get st with trim := learnedTrim (x.calcs.get st).trim n p.gain p.slew (x.trimLimit st) } := by
    intro hd ho; subst hz; rw [if_pos ⟨hd, ho⟩]; simp
  have z4 : d ≠ .strike ∨ r.origin = .coasted → z = x := by
    intro ho; subst hz; rw [if_neg (by rintro ⟨a, b⟩; exact ho.elim (fun h => h a) b)]
  have zf : z.calcs.get st = { x.calcs.get st with trim := (z.calcs.get st).trim } := by
    by_cases hd : d = .strike
    · by_cases ho : r.origin = .coasted
      · rw [z4 (.inr ho)]
      · rw [z3 hd ho]
    · rw [z4 (.inl hd)]
  have key : ∀ y : State, SameFields z y → (∀ v, (y.units.get v).tripped = (z.units.get v).tripped) → y = { z with units := y.units, ports := y.ports } →
      SameFields x y ∧ (∀ v, (y.units.get v).tripped = (x.units.get v).tripped) ∧
      y = { x with track := y.track, calcs := y.calcs, units := y.units, ports := y.ports, watches := y.watches, stopReq := y.stopReq } ∧
      (d = .strike → r.origin ≠ .coasted → ∀ m, some n = some m → y.calcs.get st = { x.calcs.get st with trim := clampAbs (x.trimLimit st) ((x.calcs.get st).trim + (if p.slew < (-(rha (m * p.gain) 16)).natAbs then signOf (-(rha (m * p.gain) 16)) * p.slew else -(rha (m * p.gain) 16))) }) ∧
      (d ≠ .strike ∨ r.origin = .coasted ∨ some n = none → (y.calcs.get st).trim = (x.calcs.get st).trim) ∧
      (y.calcs.get st).phased = ((x.calcs.get st).phased || (decide (d = .lift) && ph && !(x.seqr.get st).tripped)) := by
    intro y y1 y2 y3
    have yc : y.calcs = z.calcs := by rw [y3]
    refine ⟨z1.trans y1, fun v => (y2 v).trans (by rw [zu]), ?_, ?_, ?_, ?_⟩
    · rw [y3, z2]
    · intro hd ho m hm; cases hm; rw [yc, z3 hd ho]; rfl
    · rintro (h | h | h)
      · rw [yc, z4 (.inl h)]
      · rw [yc, z4 (.inr h)]
      · exact absurd h (by simp)
    · rw [yc, zf]; simp [hl]
  split
  · obtain ⟨s1, s2⟩ := Orders.raise_soft_hard z { kind := .offRegister, unit := .station st, seq := some r.seq, target := (r.st.get st).target } st rfl rfl (by rw [zu]; exact hh)
    exact key _ (Orders.raise_fields _ _) s2 s1
  · exact key z (.refl _) (fun _ => rfl) rfl

/-- What learning from a report does, HARD being clear (R51, R53 to R55). -/
theorem Orders.learn_spec (x : State) (st : Idx) (r : TrackRecord) (ph : Bool) (o : ReportOutcome) (e : Option Int) (p : StationEntry)
    (hp : x.entry r.slot st = some p) (hh : (x.units.get st).hard = false) :
    let y := x.learn st r ph o e
    let d (e : Int) : Int := -(rha (e * p.gain) 16)
    let moved (e : Int) : Int := if p.slew < (d e).natAbs then signOf (d e) * p.slew else d e
    SameFields x y ∧ (∀ v, (y.units.get v).tripped = (x.units.get v).tripped) ∧
    y = { x with track := y.track, calcs := y.calcs, units := y.units, ports := y.ports, watches := y.watches, stopReq := y.stopReq } ∧
    ((r.st.get st).decision = .strike → r.origin ≠ .coasted → ∀ n, e = some n → y.calcs.get st = { x.calcs.get st with trim := clampAbs (x.trimLimit st) ((x.calcs.get st).trim + moved n) }) ∧
    ((r.st.get st).decision ≠ .strike ∨ r.origin = .coasted ∨ e = none → (y.calcs.get st).trim = (x.calcs.get st).trim) ∧
    (y.calcs.get st).phased = ((x.calcs.get st).phased || (decide ((r.st.get st).decision = .lift) && ph && !(x.seqr.get st).tripped)) := by
  dsimp only
  unfold State.learn
  dsimp only
  cases hd : (r.st.get st).decision
  case lift =>
    dsimp only
    split
    · rename_i h
      refine ⟨.of_track rfl, fun _ => rfl, rfl, by simp, by simp [State.updCalc], by simp [State.updCalc, h.1, h.2]⟩
    · rename_i h
      refine ⟨.refl _, fun _ => rfl, rfl, by simp, fun _ => rfl, ?_⟩
      cases hph : ph
      · simp
      · cases ht : (x.seqr.get st).tripped
        · exact absurd ⟨hph, ht⟩ h
        · simp
  all_goals
    dsimp only
    cases he : e with
    | none => exact ⟨.refl _, fun _ => rfl, rfl, by simp, fun _ => rfl, by simp⟩
    | some n =>
      rw [hp]
      exact Orders.learn_order x st r _ (by simp) n p hh ph

/-- No order of a mark in flight. -/
theorem Orders.holds_false {s : State} {st : Idx} {q : SeqNo} (h : ∀ e ∈ (s.seqr.get st).inFlight, e.seq ≠ q) : (s.seqr.get st).holds q = false := by
  unfold Sequencer.holds; rw [Bool.eq_false_iff]; intro h'
  obtain ⟨e, he, h2⟩ := List.any_eq_true.1 h'
  exact h e he (by simpa using h2)

/-- The parts of the state within which a foil report is applied. -/
theorem Orders.apply_foil_all_shape (s : State) (st : Idx) (r : FoilReport) :
    s.applyFoilAll st r = { s with track := (s.applyFoilAll st r).track, lanes := (s.applyFoilAll st r).lanes, slots := (s.applyFoilAll st r).slots, units := (s.applyFoilAll st r).units, ports := (s.applyFoilAll st r).ports, watches := (s.applyFoilAll st r).watches, stopReq := (s.applyFoilAll st r).stopReq } := by
  apply State.ext_fields <;> simp

/-- The status and the report in a record whose station fields are known. -/
theorem Orders.status_report {t : State} {q : SeqNo} {st : Idx} {y : Four StationField} (h : t.fieldsOf q = some y) :
    (t.record q).map (fun x => ((x.st.get st).status, (x.st.get st).report)) = some ((y.get st).status, (y.get st).report) := by
  unfold State.fieldsOf at h
  cases hr : t.record q with
  | none => rw [hr] at h; exact absurd h (by simp)
  | some r => rw [hr] at h; simp only [Option.map_some, Option.some.injEq] at h ⊢; rw [h]

/-- The status a report leaves: FAULTED where contact does not agree with the decision (R74). -/
theorem Orders.report_status_eq (d : Decision) (o : ReportOutcome) : reportStatus d o = if (d = .lift ↔ o = .contact) then .faulted else .done := by
  cases d <;> cases o <;> simp [reportStatus]

/-- Equal numbers of two entries have equal gain, slew and tolerance. -/
theorem Orders.numbers_eq {e e' : StationEntry} (h : e'.numbers = e.numbers) : e'.gain = e.gain ∧ e'.slew = e.slew ∧ e'.tol = e.tol := by
  have a := congrArg StationEntry.gain h
  have b := congrArg StationEntry.slew h
  have c := congrArg StationEntry.tol h
  exact ⟨a, b, c⟩

/-- What adding an overdue order does: the oldest leaves when the list is full (R76). -/
theorem Orders.push_overdue_spec (s : State) (st : Idx) (e : OverdueEntry) :
    (s.pushOverdue st e).seqr = s.seqr.upd st (fun sq => { sq with overdue := (match (s.seqr.get st).overdue with
          | [] => []
          | x :: xs => if 2 ≤ xs.length + 1 then xs else x :: xs) ++ [e] }) ∧
    s.pushOverdue st e = { s with seqr := (s.pushOverdue st e).seqr, slots := (s.pushOverdue st e).slots } := by
  unfold State.pushOverdue
  cases h : (s.seqr.get st).overdue with
  | nil => 
    dsimp only
    refine ⟨?_, rfl⟩
    simp only [State.updSeqr, Four.upd, h]
  | cons x xs =>
    dsimp only
    have : Config.overdueLimit = 2 := rfl
    rw [this]
    by_cases hc : 2 ≤ xs.length + 1
    · rw [if_pos hc, if_pos hc]
      have g : ∀ a : State, (a.giveUpFirstOff x.slot st x.seq) = { a with slots := (a.giveUpFirstOff x.slot st x.seq).slots } := by
        intro a; apply State.ext_fields <;> simp
      constructor
      · simp only [State.updSeqr]
        rw [g]
        cases st <;> rfl
      · rw [State.updSeqr, g]; rfl
    · rw [if_neg hc, if_neg hc]
      refine ⟨?_, rfl⟩
      simp only [State.updSeqr, Four.upd, h]

/-- What an abort answer that closes an order does, HARD being clear and no foil advanced (R81). -/
theorem Orders.close_by_abort_spec (s : State) (st : Idx) (q : SeqNo) (found : AbortFound) (r : TrackRecord) (hr : s.record q = some r) (hh : (s.units.get st).hard = false) :
    let y := s.closeByAbort st q found (.all 0)
    (y.record q).map (fun x => (x.st.get st).status) = some
          (if found = .notMade then .missed else if (r.st.get st).decision = .lift then .faulted else .done) ∧
    (∃ f, y.seqr = s.seqr.upd st f ∧ (∀ sq, (f sq) = { sq with inFlight := sq.inFlight.filter (fun e => decide (e.seq ≠ q)), context := (f sq).context })) ∧
    (∀ c, (y.lane st c).remaining = (s.lane st c).remaining) ∧
    (found = .contactMade → (r.st.get st).decision = .lift → (y.units.get st).hard = true) ∧
    (∀ v, (y.units.get v).tripped = (s.units.get v).tripped) ∧
    y = { s with track := y.track, seqr := y.seqr, lanes := y.lanes, slots := y.slots, units := y.units, ports := y.ports,
                     watches := y.watches, stopReq := y.stopReq } := by
  dsimp only
  unfold State.closeByAbort
  rw [hr]
  dsimp only
  have hs : abortStatus (r.st.get st).decision found = if found = .notMade then .missed else if (r.st.get st).decision = .lift then .faulted else .done := by
    cases found <;> cases (r.st.get st).decision <;> simp [abortStatus]
  generalize ha : ((((s.updField q st fun f => { f with report := some { outcome := foundReported found, e := none, advanced := .all 0 }, status := abortStatus (r.st.get st).decision found }).leaveInFlight st q).settleContext st q (foundOutcome found)).release st (r.st.get st).feeds) = a
  have a0 : a = { s with track := a.track, seqr := a.seqr, lanes := a.lanes } := by subst ha; rfl
  have a1 : a.seqr = s.seqr.upd st fun sq => { sq with inFlight := sq.inFlight.filter (fun e => decide (e.seq ≠ q)), context := sq.context.map fun c =>
        { c with entries := c.entries.map fun e => if e.seq = q ∧ e.outcome = .pending then { e with outcome := foundOutcome found } else e } } := by
    subst ha; cases st <;> rfl
  have a2 : a.fieldsOf q = some (r.st.upd st fun f => { f with report := some { outcome := foundReported found, e := none, advanced := .all 0 }, status := abortStatus (r.st.get st).decision found }) := by
    subst ha
    change (s.updField q st _).fieldsOf q = _
    rw [State.fieldsOf_updField, Orders.fields_of_of hr]; simp
  have a3 : ∀ c, (a.lane st c).foil = ((s.lane st c).remaining, (s.lane st c).reserved - (r.st.get st).feeds.get c) := by
    intro c; subst ha; rw [State.release_foil, if_pos rfl]; rfl
  generalize hF : ({ slot := r.slot, seq := q, fed := (r.st.get st).feeds, advanced := .all 0, breaks := .all false, whole := true } : FoilReport) = F
  have F1 : F.advanced = .all 0 := by subst hF; rfl
  have F2 : F.breaks = .all false := by subst hF; rfl
  have b0 := Orders.apply_foil_all_shape a st F
  have b2 := a.applyFoilAll_fields st F
  have b3 := fun c => a.applyFoilAll_foil st F st c
  have b4 := a.applyFoilAll_flags st F F2
  generalize a.applyFoilAll st F = b at b0 b2 b3 b4 ⊢
  have au : a.units = s.units := by rw [a0]
  have bfl : ∀ v, (b.units.get v).tripped = (s.units.get v).tripped ∧ (b.units.get v).hard = (s.units.get v).hard := by
    intro v
    have := b4 (.station v)
    change (b.units.get v).soft = (a.units.get v).soft ∧ (b.units.get v).hard = (a.units.get v).hard ∧ (b.units.get v).tripped = (a.units.get v).tripped at this
    rw [au] at this
    exact ⟨this.2.2, this.2.1⟩
  have key : ∀ y : State, SameFields b y → (∀ v, (y.units.get v).tripped = (b.units.get v).tripped) → y = { b with units := y.units, ports := y.ports } →
     (found = .contactMade → (r.st.get st).decision = .lift → (y.units.get st).hard = true) →
    (y.record q).map (fun x => (x.st.get st).status) = some
          (if found = .notMade then .missed else if (r.st.get st).decision = .lift then .faulted else .done) ∧
    (∃ f, y.seqr = s.seqr.upd st f ∧ (∀ sq, (f sq) = { sq with inFlight := sq.inFlight.filter (fun e => decide (e.seq ≠ q)), context := (f sq).context })) ∧
    (∀ c, (y.lane st c).remaining = (s.lane st c).remaining) ∧
    (found = .contactMade → (r.st.get st).decision = .lift → (y.units.get st).hard = true) ∧
    (∀ v, (y.units.get v).tripped = (s.units.get v).tripped) ∧
    y = { s with track := y.track, seqr := y.seqr, lanes := y.lanes, slots := y.slots, units := y.units, ports := y.ports,
                     watches := y.watches, stopReq := y.stopReq } := by
    intro y y1 y2 y3 y4
    refine ⟨?_, ⟨_, ((by rw [y3, b0] : y.seqr = a.seqr).trans a1), by intro _; rfl⟩, ?_, y4, fun v => (y2 v).trans (bfl v).1, ?_⟩
    · rw [Orders.status_of ((y1 q).trans ((b2 q).trans a2))]
      simp only [Four.get_upd, if_true, hs]
    · intro c
      have := b3 c
      rw [if_pos rfl] at this
      have e1 : (b.lane st c).remaining = (a.lane st c).remaining - F.advanced.get c := congrArg Prod.fst this
      have e0 : y.lane st c = b.lane st c := State.lane_of_lanes (by rw [y3]) st c
      have e2 : (a.lane st c).remaining = (s.lane st c).remaining := congrArg Prod.fst (a3 c)
      rw [e0, e1, F1, e2]; cases c <;> rfl
    · rw [y3, b0, a0]
  by_cases hd : abortStatus (r.st.get st).decision found = .faulted
  · rw [if_pos hd]
    obtain ⟨m1, m2, m3⟩ := Orders.raise_hard_trip b { kind := .driveMismatch, unit := .station st, detail := some (.abortReported found), seq := some q, target := (r.st.get st).target } st rfl rfl (by rw [(bfl st).2]; exact hh)
    exact key _ (Orders.raise_fields _ _) m2 m1 (fun _ _ => m3)
  · rw [if_neg hd]
    refine key b (.refl _) (fun _ => rfl) rfl (fun h1 h2 => ?_)
    rw [h1, h2] at hd; exact absurd rfl hd

/-- No counts advanced. -/
theorem Orders.counts_zero : counts (.all 0) = .all 0 := rfl

/-- The status after one station field of a record has been set. -/
theorem Orders.fields_of_status {t : State} {q : SeqNo} {st : Idx} {x : Status} {s : State} {r : TrackRecord} (hr : s.record q = some r)
    (h : t.fieldsOf q = (s.fieldsOf q).map fun y => y.upd st fun f => { f with status := x }) :
    (t.record q).map (fun x => (x.st.get st).status) = some x := by
  rw [Orders.fields_of_of hr] at h
  rw [Orders.status_of h]; simp [Four.get_upd]

/-- What closing the orders of an abort set does (R79, R82). -/
theorem Orders.close_set_spec (s : State) (st : Idx) :
    let y := s.closeAbortSet st
    (∀ q, y.fieldsOf q = (s.fieldsOf q).map fun x => if q ∈ (s.seqr.get st).abortSet then x.upd st fun f => { f with status := .missed } else x) ∧
    (y.seqr.get st).inFlight = (s.seqr.get st).inFlight.filter (fun e => decide (e.seq ∉ (s.seqr.get st).abortSet)) ∧
    (y.seqr.get st).abortSet = [] ∧ (y.seqr.get st).awaited = (s.seqr.get st).awaited ∧ (y.seqr.get st).queue = (s.seqr.get st).queue ∧ (y.seqr.get st).timer = (s.seqr.get st).timer ∧
    (∀ v, (y.seqr.get v).tripped = (s.seqr.get v).tripped) ∧ SameFlags s y ∧
    y = { s with track := y.track, seqr := y.seqr, lanes := y.lanes, slots := y.slots, units := y.units, ports := y.ports } := by
  dsimp only
  unfold State.closeAbortSet
  generalize (s.seqr.get st).abortSet = l
  have f1 := closeFold_fields st .missed (fun s q => (s.closeUnreported st q .missed).settleContext st q .unknown) (fun s q => .of_track (by simp)) l s
  have f2 := closeFold_seqr st .missed (fun s q => (s.closeUnreported st q .missed).settleContext st q .unknown) (fun s q v => by
    simp only [State.settleContext, State.updSeqr, Four.get_upd]; split
    · rename_i e; subst e; rfl
    · rfl) l s st
  rw [if_pos rfl] at f2
  have f3 : ∀ (l : List SeqNo) (s : State), let y := l.foldl (fun s q => (s.closeUnreported st q .missed).settleContext st q .unknown) s
      (y.seqr.get st).awaited = (s.seqr.get st).awaited ∧ (y.seqr.get st).queue = (s.seqr.get st).queue ∧ (y.seqr.get st).timer = (s.seqr.get st).timer ∧
      (∀ v, (y.seqr.get v).tripped = (s.seqr.get v).tripped) ∧ SameFlags s y ∧
      y = { s with track := y.track, seqr := y.seqr, lanes := y.lanes, slots := y.slots, units := y.units, ports := y.ports } := by
    intro l
    induction l with
    | nil => intro s; exact ⟨rfl, rfl, rfl, fun _ => rfl, .refl _, rfl⟩
    | cons p ps ih =>
      intro s
      rw [List.foldl_cons]
      obtain ⟨i1, i2, i3, i4, i5, i6⟩ := ih ((s.closeUnreported st p .missed).settleContext st p .unknown)
      have c1 := s.closeUnreported_seqr st p .missed
      have c2 := Orders.close_unreported_shape s st p .missed
      have c3 := s.closeUnreported_flags st p .missed
      generalize s.closeUnreported st p .missed = b at *
      have d0 : b.settleContext st p .unknown = { b with seqr := (b.settleContext st p .unknown).seqr } := rfl
      have d1 : (b.settleContext st p .unknown).seqr.get st = { b.seqr.get st with context := ((b.settleContext st p .unknown).seqr.get st).context } := by
        simp only [State.settleContext, State.updSeqr, Four.get_upd, if_true]
      have d2 : ∀ v, ((b.settleContext st p .unknown).seqr.get v).tripped = (b.seqr.get v).tripped := by
        intro v; simp only [State.settleContext, State.updSeqr, Four.get_upd]; split
        · rename_i e; subst e; rfl
        · rfl
      have d3 : SameFlags b (b.settleContext st p .unknown) := .of_units rfl rfl
      generalize b.settleContext st p .unknown = d at *
      have e1 : b.seqr.get st = { s.seqr.get st with inFlight := (s.seqr.get st).inFlight.filter fun e => decide (e.seq ≠ p) } := by
        rw [c1]; simp only [Four.get_upd, if_true]
      refine ⟨?_, ?_, ?_, ?_, (c3.trans d3).trans i5, ?_⟩
      · rw [i1, d1, e1]
      · rw [i2, d1, e1]
      · rw [i3, d1, e1]
      · intro v; exact (i4 v).trans ((d2 v).trans (Orders.upd_trip s b st _ c1 (fun _ => rfl) v))
      · rw [i6, d0, c2]
  obtain ⟨g1, g2, g3, g4, g5, g6⟩ := f3 l s
  generalize l.foldl (fun s q => (s.closeUnreported st q .missed).settleContext st q .unknown) s = y at *
  refine ⟨fun q => ?_, ?_, ?_, ?_, ?_, ?_, ?_, ?_, ?_⟩
  · exact f1 q
  · simp only [State.updSeqr, Four.get_upd, if_true]; exact f2
  · simp only [State.updSeqr, Four.get_upd, if_true]
  · simp only [State.updSeqr, Four.get_upd, if_true]; exact g1
  · simp only [State.updSeqr, Four.get_upd, if_true]; exact g2
  · simp only [State.updSeqr, Four.get_upd, if_true]; exact g3
  · intro v; simp only [State.updSeqr, Four.get_upd]; split
    · rename_i e; subst e; exact g4 v
    · exact g4 v
  · exact g5.trans (.of_units rfl rfl)
  · rw [g6]; rfl

end Sys2Proof.Machine
end

