-- ==== Sys2Proof/Laws/Aborts.lean ====
section
/-! SUPPORT. What follows an abort, said in the terms of Safety.lean: the hold context that is settled, the queued order that goes out,
the abort that is complete (R81, R140), and what the loss of a station link does to its sequencer (R52, R79). -/

namespace Sys2Proof.Machine

/-- The settling of one seq in a hold context (R140). -/
theorem Aborts.settleContext_context (s : State) (st : Idx) (q : SeqNo) (o : AbortOutcome) :
    ((s.settleContext st q o).seqr.get st).context = contextSettled (s.seqr.get st).context [q] o := by
  simp [State.settleContext, State.updSeqr, contextSettled]

/-- Nothing named settles nothing (R140). -/
theorem Aborts.contextSettled_nil (c : Option HoldContext) (o : AbortOutcome) : contextSettled c [] o = c := by
  cases c <;> simp [contextSettled]

/-- The sequencer awaits nothing any more, and the queued order goes out (R68, R81). -/
theorem Aborts.queued_goes_out (s : State) (st : Idx) :
    QueuedGoesOut s ((s.clearAwaited st).releaseQueue st) st { s.seqr.get st with awaited := .none, timer := none } := by
  have e : (s.clearAwaited st).record = s.record := by funext q; simp [State.record]
  unfold QueuedGoesOut State.releaseQueue
  cases hq : (s.seqr.get st).queue with
  | none => simp [State.clearAwaited, State.updSeqr, State.updLink, Link.withdraw, hq]
  | some q =>
    cases hr : s.record q with
    | none =>
      simp [State.clearAwaited, State.updSeqr, State.updLink, Link.withdraw, hq, State.transmit, State.record,
        show findRecord q s.track = none from hr]
    | some r =>
      have hs : r.seq = q := findRecord_seq hr
      subst hs
      simp [State.clearAwaited, State.updSeqr, State.updLink, Link.withdraw, hq, State.transmit, State.record,
        show findRecord r.seq s.track = some r from hr, TrackRecord.strikeOrder, StationField.issued, StationField.feeds,
        Sequencer.phasing, Config.ackTimeout]

/-- The order of a seq leaves an outstanding abort with its outcome (R81, R83, R140). -/
theorem Aborts.settled (s : State) (st : Idx) (q : SeqNo) (o : AbortOutcome) (h : (s.seqr.get st).awaited = .abort) :
    AbortSettled s ((((s.leaveAbortSet st q).leaveInFlight st q).settleContext st q o).completeAbort st) st (s.seqr.get st) q o := by
  have hx (x : State) (hseq : (x.seqr.get st) = { s.seqr.get st with
        inFlight := (s.seqr.get st).inFlight.filter fun e => decide (e.seq ≠ q),
        abortSet := (s.seqr.get st).abortSet.filter fun y => decide (y ≠ q),
        context := contextSettled (s.seqr.get st).context [q] o }) (hl : x.links = s.links) (ht : x.track = s.track) :
      AbortSettled s (x.completeAbort st) st (s.seqr.get st) q o := by
    unfold AbortSettled
    dsimp only
    by_cases hn : (s.seqr.get st).abortSet.filter (fun y => decide (y ≠ q)) = []
    · rw [if_pos hn, show x.completeAbort st = (x.clearAwaited st).releaseQueue st from
        if_pos ⟨by rw [hseq]; exact h, by rw [hseq]; exact hn⟩]
      have g := Aborts.queued_goes_out x st
      have e : x.record = s.record := by funext q; simp [State.record, ht]
      unfold QueuedGoesOut at g ⊢
      rw [hseq, hl, e] at g
      exact g
    · rw [if_neg hn, show x.completeAbort st = x from if_neg (by rw [hseq]; exact fun c => hn c.2), hseq, hl]
      exact ⟨rfl, rfl⟩
  apply hx
  · simp [State.settleContext, State.leaveInFlight, State.leaveAbortSet, State.updSeqr, contextSettled]
  · simp
  · simp

/-! ### The loss of a station link (R52, R79) -/

/-- Settling the context of one sequencer, as an update of the sequencers. -/
theorem Aborts.settleContext_seqr (s : State) (st : Idx) (q : SeqNo) (o : AbortOutcome) :
    (s.settleContext st q o).seqr = s.seqr.upd st fun sq => { sq with context := contextSettled sq.context [q] o } := by
  simp [State.settleContext, State.updSeqr, contextSettled]

/-- Settling one seq and then others settles them all (R140). -/
theorem Aborts.contextSettled_cons (c : Option HoldContext) (q : SeqNo) (qs : List SeqNo) (o : AbortOutcome) (h : o ≠ .pending) :
    contextSettled (contextSettled c [q] o) qs o = contextSettled c (q :: qs) o := by
  cases c with
  | none => rfl
  | some c =>
    simp only [contextSettled, Option.map_some, List.map_map, List.mem_cons]
    congr 3
    funext e
    by_cases h1 : e.seq = q <;> by_cases h2 : e.outcome = .pending <;> by_cases h3 : e.seq ∈ qs <;> simp [h1, h2, h3, h]

/-- Faulting the orders of a lost link takes those that no abort names out of the in-flight list and does nothing else to a sequencer
(R79). -/
theorem Aborts.fault_in_flight_seqr (s : State) (st : Idx) :
    (s.faultInFlight st).seqr = s.seqr.upd st fun sq =>
      { sq with inFlight := sq.inFlight.filter fun e => sq.abortSet.contains e.seq } := by
  have key : ∀ (l : List InFlight) (s : State), (l.foldl (fun s e => s.closeUnreported st e.seq .faulted) s).seqr =
      s.seqr.upd st fun sq => { sq with inFlight := sq.inFlight.filter fun e => decide (e.seq ∉ l.map (·.seq)) } := by
    intro l
    induction l with
    | nil => intro s; exact (Four.upd_same (by simp)).symm
    | cons x xs ih =>
      intro s
      rw [List.foldl_cons, ih, State.closeUnreported_seqr, Four.upd_upd]
      simp only [List.filter_filter, List.map_cons, List.mem_cons, not_or, Bool.decide_and, Bool.and_comm]
  unfold State.faultInFlight
  dsimp only
  rw [key]
  refine congrArg (s.seqr.set st) ?_
  dsimp only
  congr 1
  apply List.filter_congr
  intro e he
  have closed : e.seq ∈ ((s.seqr.get st).inFlight.filter fun e => !(s.seqr.get st).abortSet.contains e.seq).map (·.seq) ↔
      e.seq ∉ (s.seqr.get st).abortSet := by
    simp only [List.mem_map, List.mem_filter, Bool.not_eq_true', List.contains_eq_mem, decide_eq_false_iff_not]
    exact ⟨fun ⟨x, ⟨_, h⟩, hx⟩ => hx ▸ h, fun h => ⟨e, ⟨he, h⟩, rfl⟩⟩
  rw [Bool.eq_iff_iff, decide_eq_true_iff, not_congr closed]
  simp

/-- Closing the abort set empties it, takes its orders out of the in-flight list and settles the hold context UNKNOWN (R79, R82, R140). -/
theorem Aborts.close_set_seqr (s : State) (st : Idx) :
    (s.closeAbortSet st).seqr = s.seqr.upd st fun sq =>
      { sq with inFlight := sq.inFlight.filter fun e => decide (e.seq ∉ sq.abortSet), abortSet := [],
                context := contextSettled sq.context sq.abortSet .unknown } := by
  have key : ∀ (l : List SeqNo) (s : State),
      (l.foldl (fun s q => (s.closeUnreported st q .missed).settleContext st q .unknown) s).seqr =
        s.seqr.upd st fun sq => { sq with inFlight := sq.inFlight.filter (fun e => decide (e.seq ∉ l)),
                                          context := contextSettled sq.context l .unknown } := by
    intro l
    induction l with
    | nil =>
      intro s
      exact (Four.upd_same (by simp [Aborts.contextSettled_nil])).symm
    | cons x xs ih =>
      intro s
      rw [List.foldl_cons, ih, Aborts.settleContext_seqr, State.closeUnreported_seqr, Four.upd_upd, Four.upd_upd]
      simp only [List.filter_filter, List.mem_cons, not_or, Bool.decide_and, Bool.and_comm,
        Aborts.contextSettled_cons _ _ _ _ (show AbortOutcome.unknown ≠ .pending by decide)]
  unfold State.closeAbortSet State.updSeqr
  dsimp only
  rw [key, Four.upd_upd]
  rfl

/-- Emptying the overdue list changes nothing else of a sequencer (R79, R85). -/
theorem Aborts.empty_overdue_seqr (s : State) (st : Idx) :
    (s.emptyOverdue st).seqr = s.seqr.upd st fun sq => { sq with overdue := [] } := by
  have h : ∀ (l : List OverdueEntry) (s : State), (l.foldl (fun s x => s.giveUpFirstOff x.slot st x.seq) s).seqr = s.seqr := by
    intro l
    induction l with
    | nil => intro s; rfl
    | cons x xs ih => intro s; rw [List.foldl_cons, ih]; simp
  unfold State.emptyOverdue State.updSeqr
  dsimp only
  rw [h]

/-- What the loss of a station link's carrier does to its sequencer, its link and its calculator: every order in flight is closed, the
abort is settled UNKNOWN, the link holds at most the frame of a queued order measured as PHASED, and LINK_DOWN is raised last (R52, R79,
R140). -/
theorem Aborts.link_lost (s : State) (st : Idx) (b : Bool) (h : (s.links.get st).carrier = true) :
    let sq := s.seqr.get st
    ∃ y : State, s.loseStationLink st b = y.raise { kind := .linkDown, unit := .station st } ∧
      y.seqr = s.seqr.set st { sq with
        inFlight := [], awaited := .none, queue := none, timer := none, abortSet := [], overdue := [],
        context := contextSettled sq.context sq.abortSet .unknown } ∧
      y.links = s.links.set st { carrier := false, sending := none, waiting := s.framesAfterLoss st b } ∧
      y.calcs = s.calcs.set st { s.calcs.get st with phased := false } := by
  dsimp only
  refine ⟨_, by unfold State.loseStationLink; rw [if_pos h], ?_, ?_, ?_⟩
  · have e : ∀ x : State, (x.unphase st).seqr = x.seqr := fun _ => rfl
    have u : ∀ (x : State) f, (x.updSeqr st f).seqr = x.seqr.upd st f := fun _ _ => rfl
    rw [e, Aborts.empty_overdue_seqr, Aborts.close_set_seqr, u, Aborts.fault_in_flight_seqr, Four.upd_upd, Four.upd_upd, Four.upd_upd]
    refine congrArg (s.seqr.set st) ?_
    simp only [List.filter_filter]
    congr 1
    simp
  · simp [State.unphase, State.updCalc, State.updLink, Four.upd]
  · simp [State.unphase, State.updCalc, Four.upd]

end Sys2Proof.Machine
end

