-- ==== Sys2Proof/Laws/Events.lean ====
section
/-! SUPPORT. Handing positional events over: each event is the row of the table that takes it, and what every event keeps the whole
hand-over keeps. -/

namespace Sys2Proof.Machine

/-- The row of an event takes it. -/
theorem PositionalEvent.exec_command (e : PositionalEvent) (s : State) : exec e.command s = e.taken s := by
  cases e <;> rfl

/-- An event whose row answers a next state leads to it. -/
theorem PositionalEvent.after_eq {e : PositionalEvent} {s t : State} (h : e.taken s = .next t) : e.after s = t := by
  unfold PositionalEvent.after; rw [h]

/-- What each event due keeps, the hand-over keeps. -/
theorem State.handOver_keeps (P : State → Prop) (h : ∀ e s, s.eventDue = some e → P s → P (e.after s)) (s : State) (hs : P s) :
    P s.handOver := by
  have key : ∀ n s, P s → P (handOverLoop n s) := by
    intro n
    induction n with
    | zero => exact fun s hs => hs
    | succ n ih =>
      intro s hs
      rw [handOverLoop]
      split
      · exact ih _ (h _ _ ‹_› hs)
      · exact hs
  exact key _ s hs

/-- With no event due nothing is handed over. -/
theorem State.handOver_none {s : State} (h : s.eventDue = none) : s.handOver = s := by
  simp only [State.handOver, handOverFuel, handOverLoop, h]

/-- With one event due, after which none is, it is the one handed over. -/
theorem State.handOver_one {s : State} {e : PositionalEvent} (h : s.eventDue = some e) (h' : (e.after s).eventDue = none) :
    s.handOver = e.after s := by
  simp only [State.handOver, handOverFuel, handOverLoop, h, h']

end Sys2Proof.Machine
end

