-- ==== Sys2Proof/Laws/Grants.lean ====
section
/-! SUPPORT. What the grant pass does to each zone, said once: no reading, mask or block changes, a zone that waits or holds a slot
goes on doing one of the two, a slot timer is left, started or ended, only a preemption ends one, and the pass ends where no further
grant can be made. -/

namespace Sys2Proof.Machine

/-- What the grant pass leaves of a zone: all but its request and its slot, of which one stands before and after. -/
structure ZoneGranted (a b : Zone) : Prop where
  reading : b.reading = a.reading
  age : b.age = a.age
  mask : b.mask = a.mask
  block : b.block = a.block
  demand : b.demand = a.demand
  timer : b.slotTimer = a.slotTimer ∨ (b.slotTimer = some 0 ∧ a.mask = false ∧ a.block = .none) ∨ b.slotTimer = none

theorem ZoneGranted.refl (z : Zone) : ZoneGranted z z := ⟨rfl, rfl, rfl, rfl, rfl, .inl rfl⟩

theorem ZoneGranted.trans {a b c : Zone} (h : ZoneGranted a b) (k : ZoneGranted b c) : ZoneGranted a c where
  reading := k.reading.trans h.reading
  age := k.age.trans h.age
  mask := k.mask.trans h.mask
  block := k.block.trans h.block
  demand := k.demand.trans h.demand
  timer := by
    rcases k.timer with e | e | e
    · rw [e]; exact h.timer
    · exact .inr (.inl ⟨e.1, h.mask ▸ e.2.1, h.block ▸ e.2.2⟩)
    · exact .inr (.inr e)

/-- A grant, with the displacement that may come before it. -/
theorem grantStep_zones {s t : State} (h : s.grantStep = some t) :
    (∀ st z, ZoneGranted (s.zone st z) (t.zone st z)) ∧ t.heat.stale = s.heat.stale ∧ t.heat.onSet = s.heat.onSet ∧
      ∃ ch : Idx × Idx, s.eligible ch = true ∧ (t.zone ch.1 ch.2).slotTimer = some 0 ∧
        ∀ p : Idx × Idx, p ≠ ch → (t.zone p.1 p.2).slotTimer = (s.zone p.1 p.2).slotTimer ∨
          ((t.zone p.1 p.2).slotTimer = none ∧ s.settings.arbMode = .preempt ∧ s.settings.minHold < s.settings.maxHold ∧
            ∃ n, (s.zone p.1 p.2).slotTimer = some n ∧ s.settings.minHold ≤ n) := by
  unfold State.grantStep at h
  split at h
  · exact absurd h (by simp)
  rename_i ch hch
  have hel := List.find?_some hch
  have hel' := hel
  simp only [State.eligible, Bool.and_eq_true, Bool.not_eq_true', decide_eq_true_eq] at hel
  obtain ⟨⟨⟨⟨-, hr⟩, hm⟩, hb⟩, hi⟩ := hel
  split at h
  · cases h
    refine ⟨?_, rfl, rfl, ch, hel', ?_, ?_⟩
    · intro st z
      simp only [State.grant, State.zone_updZone]
      split
      · rename_i e
        have : ch = (st, z) := e.symm
        subst this
        exact ⟨rfl, rfl, rfl, rfl, by simp [Zone.demand, Zone.inService, hr], .inr (.inl ⟨rfl, hm, hb⟩)⟩
      · exact .refl _
    · simp [State.grant]
    · intro p hp
      have hp' : (p.1, p.2) ≠ (ch.1, ch.2) := hp
      have hz : (s.grant ch).zone p.1 p.2 = s.zone p.1 p.2 := by simp only [State.grant, State.zone_updZone, hp', if_false]
      exact .inl (by rw [hz])
  · split at h
    · exact absurd h (by simp)
    split at h
    · rename_i v hv
      cases h
      have hv' := List.mem_of_getLast? hv
      simp only [State.displaceable, List.mem_filter] at hv'
      obtain ⟨n, hn, hlt, hle⟩ : ∃ n, (s.zone v.1 v.2).slotTimer = some n ∧ s.settings.minHold < s.settings.maxHold ∧
          s.settings.minHold ≤ n := by
        have := hv'.2
        cases h : (s.zone v.1 v.2).slotTimer <;> simp_all
      have hne : ch ≠ v := by
        intro e
        subst e
        simp [Zone.inService, hn] at hi
      refine ⟨?_, rfl, rfl, ch, hel', ?_, ?_⟩
      · intro st z
        simp only [State.grant, State.endSlot, State.zone_updZone]
        split
        · rename_i e
          have : ch = (st, z) := e.symm
          subst this
          have hne' : (st, z) ≠ (v.1, v.2) := hne
          simp only [hne', if_false]
          exact ⟨rfl, rfl, rfl, rfl, by simp [Zone.demand, Zone.inService, hr], .inr (.inl ⟨rfl, hm, hb⟩)⟩
        · split
          · rename_i e
            have : v = (st, z) := e.symm
            subst this
            exact ⟨rfl, rfl, rfl, rfl, by simp [Zone.demand, Zone.inService, hn], .inr (.inr rfl)⟩
          · exact .refl _
      · simp [State.grant]
      · intro p hp
        have hp' : (p.1, p.2) ≠ (ch.1, ch.2) := hp
        simp only [State.grant, State.endSlot, State.zone_updZone, hp', if_false]
        split
        · rename_i e
          have : p = v := e
          subst this
          exact .inr ⟨rfl, ‹_›, hlt, n, hn, hle⟩
        · exact .inl rfl
    · exact absurd h (by simp)

theorem grantLoop_zones (n : Nat) : ∀ s : State, (∀ st z, ZoneGranted (s.zone st z) ((grantLoop n s).zone st z)) ∧
    (grantLoop n s).heat.stale = s.heat.stale := by
  induction n with
  | zero => exact fun s => ⟨fun _ _ => .refl _, rfl⟩
  | succ n ih =>
    intro s
    unfold grantLoop
    split
    · rename_i t h
      obtain ⟨h1, h2, -⟩ := grantStep_zones h
      exact ⟨fun st z => (h1 st z).trans ((ih t).1 st z), (ih t).2.trans h2⟩
    · exact ⟨fun _ _ => .refl _, rfl⟩

@[simp] theorem handOnSet_zone (s : State) (st a b : Idx) : (s.handOnSet st).zone a b = s.zone a b := by
  unfold State.handOnSet; split <;> rfl

@[simp] theorem handOnSet_stale (s : State) (st : Idx) : (s.handOnSet st).heat.stale = s.heat.stale := by
  unfold State.handOnSet; split <;> rfl

@[simp] theorem handOnSet_order (s : State) (st : Idx) : (s.handOnSet st).heat.order = s.heat.order := by
  unfold State.handOnSet; split <;> rfl

theorem foldl_handOnSet (l : List Idx) : ∀ s : State, (∀ a b, (l.foldl (fun s st => s.handOnSet st) s).zone a b = s.zone a b) ∧
    (l.foldl (fun s st => s.handOnSet st) s).heat.stale = s.heat.stale ∧
    (l.foldl (fun s st => s.handOnSet st) s).heat.order = s.heat.order := by
  induction l with
  | nil => exact fun s => ⟨fun _ _ => rfl, rfl, rfl⟩
  | cons x xs ih =>
    intro s
    obtain ⟨h1, h2, h3⟩ := ih (s.handOnSet x)
    exact ⟨fun a b => (h1 a b).trans (by simp), h2.trans (by simp), h3.trans (by simp)⟩

/-- The grant pass leaves of every zone what `ZoneGranted` says, and the stale flags. -/
theorem grantPass_zones (s : State) : (∀ st z, ZoneGranted (s.zone st z) (s.grantPass.zone st z)) ∧
    s.grantPass.heat.stale = s.heat.stale ∧ s.grantPass.heat.order = s.heat.order := by
  unfold State.grantPass
  obtain ⟨h1, h2, h3⟩ := foldl_handOnSet Idx.all (grantLoop 16 s)
  obtain ⟨k1, k2⟩ := grantLoop_zones 16 s
  exact ⟨fun st z => by rw [h1]; exact k1 st z, h2.trans k2, h3.trans (grantLoop_kept 16 s).order⟩

/-! ### Where preemption never takes place (R110, R112) -/

/-- A challenger displaces no zone while MIN_HOLD is at or above MAX_HOLD (R112). -/
theorem displaceable_eq_nil {s : State} (h : s.settings.maxHold ≤ s.settings.minHold) (ch : Idx × Idx) : s.displaceable ch = [] := by
  refine List.filter_eq_nil_iff.2 fun p _ => ?_
  split
  · have := Nat.not_lt.2 h
    simp [this]
  · simp

theorem grantLoop_keeps_slots (n : Nat) : ∀ s : State,
    s.settings.arbMode = .queued ∨ s.settings.maxHold ≤ s.settings.minHold → ∀ st z, (s.zone st z).inService = true →
    ((grantLoop n s).zone st z).slotTimer = (s.zone st z).slotTimer := by
  induction n with
  | zero => exact fun _ _ _ _ _ => rfl
  | succ n ih =>
    intro s hp st z hi
    unfold grantLoop
    split
    · rename_i t h
      obtain ⟨-, -, -, ch, hel, -, ho⟩ := grantStep_zones h
      have hs := (grantStep_kept h).settings
      have hne : (st, z) ≠ ch := by
        rintro rfl
        simp [State.eligible, hi] at hel
      have ht : (t.zone st z).slotTimer = (s.zone st z).slotTimer := by
        rcases ho (st, z) hne with e | ⟨-, hm, hlt, -⟩
        · exact e
        · rcases hp with hq | hle
          · rw [hq] at hm; cases hm
          · omega
      rw [ih t (by rw [hs]; exact hp) st z (by unfold Zone.inService; rw [ht]; exact hi), ht]
    · rfl

/-- In QUEUED mode, and with MIN_HOLD at or above MAX_HOLD, the grant pass takes no zone's slot and restarts no timer (R110, R112). -/
theorem grantPass_keeps_slots {s : State} (hp : s.settings.arbMode = .queued ∨ s.settings.maxHold ≤ s.settings.minHold) (st z : Idx)
    (hi : (s.zone st z).inService = true) : (s.grantPass.zone st z).slotTimer = (s.zone st z).slotTimer := by
  unfold State.grantPass
  rw [(foldl_handOnSet Idx.all _).1]
  exact grantLoop_keeps_slots 16 s hp st z hi

/-! ### The pass ends (R110, R113) -/

/-- The number of zones that are not freshly granted. -/
def State.ungranted (s : State) : Nat := Heat.defaultOrder.countP fun p => decide ((s.zone p.1 p.2).slotTimer ≠ some 0)

/-- A grant leaves fewer zones to grant: with MIN_HOLD above 0 no zone that was just granted is displaced. -/
theorem grantStep_ungranted {s t : State} (hm : 0 < s.settings.minHold) (h : s.grantStep = some t) : t.ungranted < s.ungranted := by
  obtain ⟨-, -, -, ch, hel, hc, ho⟩ := grantStep_zones h
  simp only [State.eligible, Bool.and_eq_true, Bool.not_eq_true'] at hel
  have hcs : (s.zone ch.1 ch.2).slotTimer = none := by
    have := hel.2
    simpa [Zone.inService] using this
  have hk := countP_change (fun p : Idx × Idx => decide ((s.zone p.1 p.2).slotTimer ≠ some 0))
    (fun p => decide ((t.zone p.1 p.2).slotTimer ≠ some 0)) ch (by
      intro p hp
      rcases ho p hp with e | ⟨e, -, -, n, en, hn⟩
      · simp only [e]
      · simp only [e, en]
        have : n ≠ 0 := by omega
        simp [this]) Heat.defaultOrder nodup_defaultOrder (mem_defaultOrder ch)
  rw [hc, hcs] at hk
  rw [if_neg (by simp), if_pos (by simp)] at hk
  simp only [State.ungranted]
  omega

theorem grantLoop_ends (n : Nat) : ∀ s : State, 0 < s.settings.minHold → s.ungranted ≤ n → (grantLoop n s).grantStep = none := by
  induction n with
  | zero =>
    intro s hm h
    unfold grantLoop
    cases hg : s.grantStep with
    | none => rfl
    | some t => have := grantStep_ungranted hm hg; omega
  | succ n ih =>
    intro s hm h
    unfold grantLoop
    cases hg : s.grantStep with
    | none => exact hg
    | some t =>
      have := grantStep_ungranted hm hg
      exact ih t (by rw [(grantStep_kept hg).settings]; exact hm) (by omega)

theorem grantStep_congr {s t : State} (hz : ∀ a b, t.zone a b = s.zone a b) (ho : t.heat.order = s.heat.order)
    (hp : ∀ a b, t.zoneParams a b = s.zoneParams a b) (hs : t.settings = s.settings) (h : s.grantStep = none) :
    t.grantStep = none := by
  have he : t.eligible = s.eligible := by funext p; simp only [State.eligible, hz, hp]
  have hsv : t.served = s.served := by simp only [State.served, hz, ho]
  have hd : ∀ c, t.displaceable c = s.displaceable c := by intro c; simp only [State.displaceable, hz, ho, hs]
  unfold State.grantStep at h ⊢
  rw [ho, he, hsv, hs]
  cases hf : List.find? s.eligible s.heat.order with
  | none => rfl
  | some ch =>
    rw [hf] at h
    dsimp only at h ⊢
    split at h
    · exact absurd h (by simp)
    · rename_i hlt
      rw [if_neg hlt]
      cases hm : s.settings.arbMode with
      | queued => rfl
      | preempt =>
        rw [hm] at h
        dsimp only at h ⊢
        rw [hd]
        split at h
        · exact absurd h (by simp)
        · rfl

/-- With MIN_HOLD above 0 the pass ends where no grant can be made (R110, R113). -/
theorem grantPass_ends (s : State) (hm : 0 < s.settings.minHold) : s.grantPass.grantStep = none := by
  have h16 : s.ungranted ≤ 16 := by
    unfold State.ungranted
    exact le_trans List.countP_le_length (by decide)
  obtain ⟨h1, -, h3⟩ := foldl_handOnSet Idx.all (grantLoop 16 s)
  have e := grantLoop_ends 16 s hm h16
  refine grantStep_congr h1 h3 ?_ ?_ e
  · intro a b
    have f : s.grantPass.slots = (grantLoop 16 s).slots := by simp
    change s.grantPass.zoneParams a b = _
    simp only [State.zoneParams, State.activeEntry, State.active, State.entry, f]
  · have f : s.grantPass.settings = (grantLoop 16 s).settings := by simp
    exact f

end Sys2Proof.Machine
end

