-- ==== Sys2Proof/Tests/Slice0.lean ====
section
/-! SUPPORT. Tests. The job and the figures are those of the manual's worked sequences: the walk-through of Chapter 2, whose
stations S0 (FOIL) and S1 (EMBOSS) most of the others use. Every expected value is the manual's. -/

open Sys2Proof Sys2Proof.Machine

section

set_option Elab.async false

namespace Sys2Proof.Tests

/-! ### Well-formed commands -/

def lineHdr : ReqHdr := { port := .line, tag := 7, stage := .whole }
def inspHdr : ReqHdr := { port := .inspection, tag := 8, stage := .whole }
def rollHdr : ReqHdr := { port := .roll, tag := 9, stage := .whole }

theorem test_wf_refuses_a_named_code : (Instr.unknownRequest lineHdr 31).wf = false := by decide
theorem test_wf_takes_an_unknown_code_and_an_unknown_form :
    (Instr.unknownRequest lineHdr 0).wf = true ∧ (Instr.unknownRequest lineHdr 15).wf = true := by decide
theorem test_wf_refuses_busy_of_no_request : (Instr.busyAnswer .line 1 38).wf = false := by decide
theorem test_wf_refuses_no_settings : (Instr.writeLineSettings lineHdr []).wf = false := by decide
theorem test_wf_refuses_too_many_settings :
    (Instr.writeLineSettings lineHdr (List.replicate 256 .unlisted)).wf = false := by decide +kernel
theorem test_wf_takes_one_setting : (Instr.writeLineSettings lineHdr [.nSlot 4]).wf = true := by decide
theorem test_no_table_word_spells_a_command : decodeTableWord 8 1 = none := rfl

/-! ### The job of Chapter 2 and a state that runs it -/

def zoneOff : ZoneParams := { enabled := false, setpoint := 0, band := 1, reqOffset := 1, mode := .level }
def laneAt (code : LaneCode) (lf gf : Nat) : Descriptor :=
  { code := code, lf := lf, gf := gf, struck := false, attn := false, stage := .vacant }
def lanesOn : Four Descriptor :=
  ⟨laneAt .on 24000 800, laneAt .on 24000 800, laneAt .off 0 200, laneAt .off 0 200⟩

/-- S0 of 2.11. -/
def foilStation : StationEntry :=
  { type := .foil, d := 200000, a := 5000, lead := 20000, reportSpan := 4000, stepMax := 40, tol := 25, trimLim := 300,
    gain := 6, slew := 5, liftOnReject := false, zones := .all zoneOff, lanes := some lanesOn }

/-- S1 of 2.11 and 3.7. -/
def embossStation : StationEntry :=
  { type := .emboss, d := 412500, a := 11200, lead := 30000, reportSpan := 4000, stepMax := 40, tol := 25, trimLim := 500,
    gain := 6, slew := 5, liftOnReject := false, zones := .all zoneOff, lanes := none }

def walkGlobals : JobGlobals :=
  { pitch := some 30000, window := some 1000, lockN := 3, coastMax := 2, stretchSmooth := 2, strikeMinSpeed := 0,
    columns := some ⟨true, true, false, false⟩, splBefore := 2000, splAfter := 32000, unknownFeed := true,
    coastPredict := false }

def walkJob : JobRecord := { globals := walkGlobals, stations := ⟨some foilStation, some embossStation, none, none⟩ }

def walkSlot : JobSlot := { state := .active, job := some walkJob, refs := 0, failing := none, retireDist := some 428201 }

/-- The line in RUN under the job, with an empty track and both links up. -/
def walk : State :=
  { State.reset with
    slots := ⟨walkSlot, .reset⟩, line := .run,
    links := .all { carrier := true, sending := none, waiting := [] },
    lanes := .all (.all { state := .ready, remaining := 6000000, reserved := 0 }) }

def at' (h : Pos) (s : State) : State := { s with web := { s.web with w := h, h := h, v := 100, intervalStart := h } }

def fieldAt (k : Pos) (status : Status) : StationField :=
  { k := some k, decision := .none, status := status, target := none, feed := none, report := none }
def fieldNone : StationField :=
  { k := none, decision := .pass, status := .passed, target := none, feed := none, report := none }

/-- Seq 40 of 2.11.1 as it joins. -/
def seq40 : TrackRecord :=
  { seq := 40, mark := 1000012, origin := .real, locked := true, pitch := some 30012, eSnap := 329, slot := .slot0,
    flagged := false, watchMark := .all false, firstOff := .all (.all false),
    verdict := ⟨some .unknown, some .unknown, none, none⟩,
    st := ⟨fieldAt 1180012 .pending, fieldAt 1382512 .pending, fieldNone, fieldNone⟩, z := 1428213 }

/-- An order of seq 40 at S1 as 2.11.3 gives it, with the status named. -/
def ordered40 (status : Status) (d : Decision) : TrackRecord :=
  let f : StationField := fieldAt 1382512 status
  { seq40 with st := seq40.st.set .i1 { f with decision := d, target := some 1423679, feed := some (.all 0) } }

/-- The outcome's next state, or the state after reset where there is none. -/
def after (o : Host.Outcome State Fault Refusal) : State :=
  match o with
  | .next t => t
  | _ => .reset

def result (p : PortState) : Option ResultCode := p.tx.getLast?.map (·.result)


/-! ### The web (R4, R5, R7, R8) -/

theorem test_encoder_backward_holds_high_water :
    (after (exec (.encoderStep .backward) (at' 100 walk))).web = { (at' 100 walk).web with w := 99 } := by decide +kernel

theorem test_encoder_forward_wraps :
    (after (exec (.encoderStep .forward) (at' 4294967295 walk))).web.h = 0 := by decide +kernel

theorem test_speed_is_capped :
    (after (exec .speedIntervalEnd { walk with web := { walk.web with h := 9000, intervalStart := 4000 } })).web.v = 4095 := by
  decide +kernel

/-! ### The Mark Reader (1.3) -/

def locked (e : Int) (mark pred : Pos) (o : Origin) : State :=
  { walk with nextSeq := 40,
              reader := { state := .locked, last := some { mark := mark, origin := o, pred := pred }, lock := 3, coast := 0, e := e,
                          event := some (.windowClose (pred + 1001)) } }

/-- 1.3.2 and seq 40 of 2.11.1: an edge at 1,000,012 with E = 300. -/
theorem test_edge_updates_the_stretch :
    (after (exec (.markEdge 1000012 false) (at' 1000012 (locked 300 970000 1000000 .real)))).reader.e = 329 ∧
    (after (exec (.markEdge 1000012 false) (at' 1000012 (locked 300 970000 1000000 .real)))).track = [seq40] := by decide +kernel

/-- 1.3.1: the edge at 265,000 in COAST is stray. -/
theorem test_edge_outside_the_window_is_stray :
    (after (exec (.markEdge 265000 false) { at' 265000 (locked 70 250022 280024 .coasted) with
      reader := { (locked 70 250022 280024 .coasted).reader with state := .coast, coast := 1 } })).lineUnit.latest.map (·.kind) =
      some .strayMark := by decide +kernel

/-- 2.11.1: the window close at 1,031,022 makes seq 41 at 1,030,021. -/
theorem test_window_close_coasts :
    ((after (exec .windowClose (at' 1031022 (locked 329 1000012 1030021 .real)))).track.map fun r =>
      (r.mark, r.origin, r.locked, r.z)) = [(1030021, .coasted, true, 1458222)] ∧
    (after (exec .windowClose (at' 1031022 (locked 329 1000012 1030021 .real)))).reader.coast = 1 := by decide +kernel

/-- R18: at pred in SEARCH a LOST record joins. -/
theorem test_search_synthesis_joins_lost :
    ((after (exec .searchSynthesis { at' 1030021 walk with
      reader := { state := .search, last := some { mark := 1000012, origin := .lost, pred := 1030021 }, lock := 0, coast := 0,
                  e := 0, event := some (.synthesis 1030021) } })).track.map fun r => (r.origin, r.locked)) =
      [(.lost, false)] := by decide +kernel

/-! ### Commits and reports (3.7, 4.11) -/

/-- S1 of 3.7 at the commit of seq 40. -/
def atCommit (stepMax tol : Nat) : State :=
  { at' 1382512 walk with
    track := [{ seq40 with st := seq40.st.set .i0 (fieldAt 1180012 .done) }], nextSeq := 41,
    slots := ⟨{ walkSlot with refs := 1, job := some { walkJob with stations :=
      ⟨some foilStation, some { embossStation with stepMax := stepMax, tol := tol }, none, none⟩ } }, .reset⟩,
    calcs := walk.calcs.set .i1 { trim := -37, phased := true, last := some { target := 1393650, seq := 39, slot := .slot0 },
                                  missed := 0 } }

def commitRow (s : State) : Option (Decision × Option Pos) :=
  ((after (exec (.commit .i1 40) s)).record 40).map fun r => ((r.st.get .i1).decision, (r.st.get .i1).target)

/-- The three rows of 3.7.1. -/
theorem test_commit_targets_of_3_7 :
    commitRow (atCommit 40 25) = some (.strike, some 1423679) ∧ commitRow (atCommit 10 25) = some (.strike, some 1423660) ∧
    commitRow (atCommit 10 15) = some (.lift, some 1423660) := by decide +kernel

/-- The faults of 3.7.1: CLAMP_IN_TOL is a warning, REGISTER_CLAMP a soft fault. -/
theorem test_commit_faults_of_3_7 :
    (((after (exec (.commit .i1 40) (atCommit 10 25))).units.get .i1).latest.map (·.kind)) = some .clampInTol ∧
    (((after (exec (.commit .i1 40) (atCommit 10 15))).units.get .i1).latest.map (·.kind)) = some .registerClamp ∧
    ((after (exec (.commit .i1 40) (atCommit 10 15))).units.get .i1).soft = true := by decide +kernel

/-- Seq 40 in flight at S1, and what is awaited. -/
def inFlight (status : Status) (d : Decision) (awaited : Awaited) : State :=
  { at' 1423700 walk with
    track := [{ ordered40 status d with st := (ordered40 status d).st.set .i0 (fieldAt 1180012 .done) }], nextSeq := 41,
    slots := ⟨{ walkSlot with refs := 1 }, .reset⟩,
    calcs := walk.calcs.set .i1 { trim := -37, phased := true, last := some { target := 1423679, seq := 40, slot := .slot0 },
                                  missed := 0 },
    seqr := walk.seqr.set .i1 { Sequencer.reset with inFlight := [{ seq := 40, phasing := false }], awaited := awaited,
                                                     timer := if awaited = .none then none else some 500 } }

def report40 (e : BitVec 16) : StrikeReportFrame :=
  { seq := 40, outcome := .contact, ePresent := true, e := e, breakMask := .all false, advanced := .all 0 }

/-- 3.7.2: e = +23 takes the trim from -37 to -42. -/
theorem test_report_trims_by_the_slew :
    ((after (exec (.strikeReport .i1 (report40 23)) (inFlight .acked .strike .none))).calcs.get .i1).trim = -42 ∧
    ((after (exec (.strikeReport .i1 (report40 23)) (inFlight .acked .strike .none))).record 40).map
      (fun r => (r.st.get .i1).status) = some .done := by decide +kernel

/-- 9.8, row 2: e = +31 is off register at TOL 25. -/
theorem test_report_off_register :
    (((after (exec (.strikeReport .i1 (report40 31)) (inFlight .acked .strike .none))).units.get .i1).latest.map (·.kind)) =
      some .offRegister := by decide +kernel

theorem test_ack_makes_acked :
    ((after (exec (.orderAck .i1 40 .accepted) (inFlight .committed .strike (.order 40)))).record 40).map
      (fun r => (r.st.get .i1).status) = some .acked := by decide +kernel

/-- 4.11: a refusal with HARD set trips the unit and the station. -/
theorem test_refusal_trips_a_hard_unit :
    let s := inFlight .committed .strike (.order 40)
    let t := after (exec (.orderAck .i1 40 .refusedRange) { s with units := s.units.set .i1 { FaultUnit.reset with hard := true } })
    (t.units.get .i1).tripped = true ∧ (t.seqr.get .i1).tripped = true ∧ (t.calcs.get .i1).phased = false ∧
      t.stopReq.trip = true := by decide +kernel

theorem test_ack_timeout_unphases :
    ((after (exec (.ackTimeout .i1) (inFlight .committed .strike (.order 40)))).calcs.get .i1).phased = false := by decide +kernel

/-- 2.11.3: the report deadline of seq 40 is 1,427,679. -/
theorem test_deadline_leaves_unconfirmed :
    ((after (exec (.reportDeadline .i1 40) (at' 1427679 (inFlight .acked .strike .none)))).record 40).map
      (fun r => (r.st.get .i1).status) = some .unconfirmed ∧
    after (exec (.reportDeadline .i1 40) (at' 1427678 (inFlight .acked .strike .none))) =
      at' 1427678 (inFlight .acked .strike .none) := by decide +kernel

def aborting (d : Decision) : State :=
  let s := inFlight .acked d .abort
  { s with seqr := s.seqr.upd .i1 fun q => { q with abortSet := [40] } }

theorem test_abort_report_contact_is_done :
    ((after (exec (.abortReport .i1 40 .contactMade (.all 0)) (aborting .strike))).record 40).map
      (fun r => (r.st.get .i1).status) = some .done := by decide +kernel

theorem test_abort_timeout_is_missed :
    ((after (exec (.abortTimeout .i1) (aborting .strike))).record 40).map (fun r => (r.st.get .i1).status) = some .missed := by
  decide +kernel

theorem test_link_loss_faults_the_order :
    ((after (exec (.stationLinkLoss .i1) (inFlight .acked .strike .none))).record 40).map
      (fun r => (r.st.get .i1).status) = some .faulted ∧
    ((after (exec (.stationLinkLoss .i1) (inFlight .acked .strike .none))).links.get .i1).carrier = false := by decide +kernel

/-! ### Foil (5.7) -/

/-- Seq 40 stands at its commit at S0, where lane (0,1) is a roll's end of 10,400. -/
def atFoil (code : LaneCode) (rem1 : Nat) : State :=
  { at' 1180012 walk with
    track := [seq40], nextSeq := 41,
    slots := ⟨{ walkSlot with refs := 1, job := some { walkJob with stations :=
      ⟨some { foilStation with lanes := some (lanesOn.set .i0 (laneAt code 24000 800)) }, some embossStation, none, none⟩ } },
      .reset⟩,
    lanes := walk.lanes.upd .i0 fun row => row.upd .i1 fun l => { l with state := .low, remaining := rem1 },
    calcs := walk.calcs.set .i0 { trim := 0, phased := true, last := some { target := 1175014, seq := 39, slot := .slot0 },
                                  missed := 0 } }

/-- 2.11.2: T' of seq 40 at S0, and 5.7: the first-off feed awaits approval, the ON lane is fed. -/
theorem test_commit_feeds_a_first_off :
    let t := after (exec (.commit .i0 40) (atFoil .firstOff 60000))
    ((t.record 40).map fun r => ((r.st.get .i0).target, (r.st.get .i0).feed)) =
      some (some 1205014, some ⟨24800, 24800, 0, 0⟩) ∧
    (t.descriptor .slot0 .i0 .i0).map (fun d => (d.stage, d.attn)) = some (.awaiting 40, true) := by decide +kernel

/-- 5.7, commit of seq 202: 10,400 unpromised is below F, so the lane is OUT. -/
theorem test_commit_runs_a_lane_out :
    let t := after (exec (.commit .i0 40) (atFoil .on 10400))
    ((t.record 40).bind fun r => (r.st.get .i0).feed) = some ⟨24800, 0, 0, 0⟩ ∧ ((t.lanes.get .i0).get .i1).state = .out ∧
      (t.units.get .i0).hard = true := by decide +kernel

theorem test_foil_roll_reloads :
    (((after (exec (.reportFoilRoll rollHdr 0 1 8000000) (atFoil .on 10400))).lanes.get .i0).get .i1) =
      { state := .ready, remaining := 8000000, reserved := 0 } := by decide +kernel

theorem test_approval_needs_a_strike :
    result ((after (exec (.approveFirstOff inspHdr 0 0) (atFoil .firstOff 60000))).ports.get .inspection) = some .notStruck := by
  decide +kernel


/-! ### Leaving, splices and watches -/

/-- 2.11.4: seq 40 stands done at both stations and H has reached its Z; all ports but the Line Port are subscribed. -/
def leaving : State :=
  { at' 1428213 walk with
    track := [{ ordered40 .done .strike with st := (ordered40 .done .strike).st.set .i0 (fieldAt 1180012 .pending) }], nextSeq := 41,
    slots := ⟨{ walkSlot with state := .retiring, refs := 1 }, .reset⟩,
    outcomes := { records := [], cursors := ⟨none, some { pos := 0, gap := false }, some { pos := 0, gap := false }⟩ } }

theorem test_retire_appends_and_frees_the_slot :
    let t := after (exec .retire leaving)
    (t.outcomes.records.map fun r => (r.seq, (r.st.get .i0).status)) = [(40, .unconfirmed)] ∧ t.track = [] ∧
      t.slots.s0.state = .ready := by decide +kernel

theorem test_retire_waits_for_z : after (exec .retire (at' 1428212 leaving)) = at' 1428212 leaving := by decide +kernel

/-- The first two reports of 7.4.2. -/
def oneSplice : State :=
  { at' 1026000 walk with splices := [{ start := 1028000, stop := 1062000, reports := 1 }],
                          settings := { walk.settings with spliceDist := 150000 } }

theorem test_splice_report_makes_its_zone :
    (after (exec (.reportSplice rollHdr 880000) (at' 1020000 { oneSplice with splices := [] }))).splices = oneSplice.splices := by
  decide +kernel

theorem test_splice_reports_merge :
    (after (exec (.reportSplice rollHdr 914050) oneSplice)).splices = [{ start := 1028000, stop := 1096050, reports := 2 }] := by
  decide +kernel

theorem test_splice_zone_end_removes :
    (after (exec (.spliceZoneEnd 1062000) (at' 1062000 oneSplice))).splices = [] := by decide +kernel

def watching (a : WatchAction) : State :=
  { at' 500 walk with watches := walk.watches.set .i2 { Watch.reset with
      owner := some .roll, condition := some (.atPosition 500), action := some a, scope := some .line, enabled := true,
      armed := true } }

theorem test_position_watch_stops :
    (after (exec (.positionWatch .i2) (watching .stop))).stopReq = { asserted := true, trip := false, trackFull := false, watch := true } ∧
    ((after (exec (.positionWatch .i2) (watching .stop))).watches.get .i2).armed = false := by decide +kernel

/-- 10.6: a foil watch below 2,000,000 is not met at 2,030,000, and is met in arming below it. -/
theorem test_arm_watch_tests_its_condition :
    let s := { walk with lanes := walk.lanes.upd .i0 fun row => row.upd .i1 fun l => { l with remaining := 2030000 } }
    let armed (x : BitVec 32) :=
      ((after (exec (.armWatch rollHdr 1 (.foilBelow 0 1 x) (some .notice) (some .line) (some true)) s)).watches.get .i1)
    (armed 2000000).hit = false ∧ (armed 2030001).hit = true ∧ (armed 2030001).owner = some .roll := by decide +kernel

theorem test_enable_watch_is_the_owners :
    result ((after (exec (.enableWatch lineHdr 2 (some false)) (watching .stop))).ports.get .line) = some .owned ∧
    ((after (exec (.enableWatch rollHdr 2 (some false)) (watching .stop))).watches.get .i2).enabled = false := by decide +kernel

theorem test_clear_watch_hit :
    ((after (exec (.clearWatchHit rollHdr 2) (after (exec (.positionWatch .i2) (watching .notice))))).watches.get .i2).hit = false := by
  decide +kernel

theorem test_line_port_releases_any_watch :
    (after (exec (.releaseWatch lineHdr 2) (watching .stop))).watches.get .i2 = .reset := by decide +kernel

/-! ### Links and ports -/

theorem test_carrier_return_orders_heat :
    ((after (exec (.stationCarrierReturn .i3) .reset)).links.get .i3).sending = some (.heatOrder (.all false)) := by decide +kernel

theorem test_frame_sent_starts_the_next :
    let l : Link := { carrier := true, sending := some (.heatOrder (.all true)), waiting := [.abortOrder [3]] }
    ((after (exec (.stationFrameSent .i0) { walk with links := .all l })).links.get .i0).sending = some (.abortOrder [3]) := by
  decide +kernel

theorem test_dropped_frames_do_nothing :
    after (exec (.stationFrameDropped .i0) walk) = walk ∧ after (exec (.portFrameDropped .roll) walk) = walk := by decide +kernel

theorem test_port_link_loss_drops_the_request :
    let s := after (exec (.readLine { lineHdr with stage := .arrives }) walk)
    (s.ports.get .line).inService = some (.readLine { lineHdr with stage := .arrives }) ∧
      ((after (exec (.portLinkLoss .line) s)).ports.get .line).inService = none := by decide +kernel

theorem test_port_carrier_returns :
    ((after (exec (.portCarrierReturn .line) (after (exec (.portLinkLoss .line) walk)))).ports.get .line).carrier = true := by
  decide +kernel

theorem test_busy_then_sent :
    let s := after (exec (.busyAnswer .line 5 31) (after (exec (.readLine { lineHdr with stage := .arrives }) walk)))
    result (s.ports.get .line) = some .busy ∧ ((after (exec (.portReplySent .line) s)).ports.get .line).tx = [] := by decide +kernel

theorem test_unknown_code_is_range :
    result ((after (exec (.unknownRequest rollHdr 99) walk)).ports.get .roll) = some .range := by decide +kernel

/-! ### Heat (6.12) -/

def zoneOn : ZoneParams := { enabled := true, setpoint := 1850, band := 20, reqOffset := 30, mode := .level }
def zones2 : Four ZoneParams := ⟨zoneOn, zoneOn, zoneOff, zoneOff⟩

def preempting (zones : Four (Four Zone)) : State :=
  { walk with
    slots := ⟨{ walkSlot with job := some { walkJob with stations :=
      ⟨some { foilStation with zones := zones2 }, some { embossStation with zones := zones2 }, none, none⟩ } }, .reset⟩,
    settings := { walk.settings with nSlot := 2, arbMode := .preempt },
    heat := { Heat.reset with zones := zones } }

def asking (t : Nat) : Zone := { Zone.reset with reading := some (.temp t), age := some 60, request := true }
def serving (t held : Nat) : Zone := { Zone.reset with reading := some (.temp t), age := some 60, slotTimer := some held }

/-- t = 200: (0,0) waits, (1,0) has held for 200 ms and (1,1) for 100 ms. -/
def at200 : State :=
  preempting ⟨⟨asking 1812, .reset, .reset, .reset⟩, ⟨serving 1805 200, serving 1815 100, .reset, .reset⟩, .all .reset, .all .reset⟩

theorem test_min_hold_preempts :
    let t := after (exec (.minHoldReached .i1 .i0) at200)
    (t.zone .i0 .i0).slotTimer = some 0 ∧ (t.zone .i1 .i0).request = true ∧ (t.zone .i1 .i0).inService = false ∧
      (t.zone .i1 .i1).slotTimer = some 100 := by decide +kernel

/-- R112: at 200 ms with MIN_HOLD and MAX_HOLD both 200 the MIN_HOLD of (1,0) preempts nothing, and its MAX_HOLD ends the slot. -/
def holdsEqual : State := { at200 with settings := { at200.settings with maxHold := 200 } }

theorem test_min_hold_at_max_hold_never_preempts :
    let t := after (exec (.minHoldReached .i1 .i0) holdsEqual)
    let u := after (exec (.maxHoldExpiry .i1 .i0) t)
    (t.zone .i1 .i0).slotTimer = some 200 ∧ (t.zone .i0 .i0).request = true ∧ (u.zone .i0 .i0).slotTimer = some 0 ∧
      (u.zone .i1 .i0).request = false ∧ u.heat.order.getLast? = some (.i1, .i0) := by decide +kernel

/-- t = 0: 1,790 asks and is granted, 1,825 does not ask. -/
theorem test_heat_reading_asks_and_is_granted :
    let t := after (exec (.heatReading .i1 ⟨1790, 1825, 0, 0⟩) (preempting (.all (.all .reset))))
    (t.zone .i1 .i0).inService = true ∧ (t.zone .i1 .i1).demand = false := by decide +kernel

/-- t = 290: 1,823 withdraws the request, 1,851 finishes. -/
theorem test_heat_reading_finishes_and_rotates :
    let s := preempting ⟨.all .reset, ⟨asking 1818, serving 1830 190, .reset, .reset⟩, .all .reset, .all .reset⟩
    let t := after (exec (.heatReading .i1 ⟨1823, 1851, 0, 0⟩) s)
    (t.zone .i1 .i0).request = false ∧ (t.zone .i1 .i1).inService = false ∧ t.heat.order.getLast? = some (.i1, .i1) := by
  decide +kernel

theorem test_tick_ages : ((after (exec .millisecondTick at200)).zone .i1 .i0).slotTimer = some 201 := by decide +kernel

theorem test_stale_heat_is_soft :
    let s := preempting ⟨⟨{ asking 1812 with age := some 501 }, .reset, .reset, .reset⟩, .all .reset, .all .reset, .all .reset⟩
    ((after (exec (.staleHeat .i0) s)).units.get .i0).soft = true := by decide +kernel

theorem test_max_hold_warns_and_rotates :
    let s := preempting ⟨⟨serving 1812 4000, .reset, .reset, .reset⟩, .all .reset, .all .reset, .all .reset⟩
    let t := after (exec (.maxHoldExpiry .i0 .i0) s)
    ((t.units.get .i0).latest.map (·.kind)) = some .heatSlow ∧ t.heat.order.getLast? = some (.i0, .i0) := by decide +kernel

theorem test_mask_ends_the_slot :
    let t := after (exec (.setZoneMask lineHdr 1 0 (some true)) at200)
    (t.zone .i1 .i0).inService = false ∧ (t.zone .i1 .i0).request = true ∧ (t.zone .i0 .i0).inService = true := by decide +kernel

theorem test_finish_needs_service :
    result ((after (exec (.finishZone lineHdr 0 0 (some true)) at200)).ports.get .line) = some .state := by decide +kernel

theorem test_set_lowest_turns_the_ring :
    (after (exec (.setLowest lineHdr 0 1) at200)).heat.order.head? = some (.i0, .i2) ∧
    (after (exec (.setLowest lineHdr 0 1) at200)).heat.order.getLast? = some (.i0, .i1) := by decide +kernel

/-! ### The line -/

theorem test_power_on_takes_the_estop :
    (after (exec (.powerOn true) walk)).estop = true ∧ (after (exec (.powerOn true) walk)).line = .stopped := by decide +kernel

theorem test_start_needs_stopped :
    result ((after (exec (.start lineHdr) walk)).ports.get .line) = some .state ∧
    (after (exec (.start lineHdr) { walk with line := .stopped })).line = .run := by decide +kernel

/-- 8.8.1: the order in flight is in the context, and the abort names it. -/
theorem test_hold_saves_and_aborts :
    let t := after (exec (.hold lineHdr) (inFlight .acked .strike .none))
    t.line = .hold ∧ (t.seqr.get .i1).abortSet = [40] ∧ (t.seqr.get .i1).awaited = .abort ∧
      (t.entries .i1).map (fun e => (e.seq, e.outcome, e.action)) = [(40, .pending, .skip)] := by decide +kernel

theorem test_estop_holds : (after (exec .estopAsserted walk)).line = .hold ∧ (after (exec .estopCleared walk)).line = .run := by
  decide +kernel

/-- The hold of 8.8.1 over seq 40, its abort answered NOT_MADE, H short of its T' at 1,423,679. -/
def held : State :=
  after (exec (.abortReport .i1 40 .notMade (.all 0)) (at' 1423600 (after (exec (.hold lineHdr) (inFlight .acked .strike .none)))))

theorem test_restrike_is_reordered :
    let s := after (exec (.editHoldContextAction lineHdr 1 40 (some .restrike)) held)
    ((s.entries .i1).map (·.action)) = [.restrike] ∧
      ((after (exec (.resume lineHdr) s)).seqr.get .i1).awaited = .order 40 := by decide +kernel

theorem test_context_trim_is_clamped :
    (((after (exec (.editHoldContextTrim lineHdr 1 900) held)).seqr.get .i1).context.map (·.trim)) = some 500 := by decide +kernel

theorem test_stop_empties :
    (after (exec (.stop lineHdr) held)).track = [] ∧ (after (exec (.stop lineHdr) held)).line = .stopped := by decide +kernel

def tripped : State :=
  { held with units := held.units.set .i1 { FaultUnit.reset with tripped := true },
              seqr := held.seqr.upd .i1 fun q => { q with tripped := true } }

theorem test_station_reset_clears_the_trip :
    ((after (exec (.stationReset lineHdr 1) tripped)).units.get .i1).tripped = false ∧
    ((after (exec (.stationReset lineHdr 1) tripped)).seqr.get .i1).tripped = false := by decide +kernel

/-- R85, R101, R150: STATION RESET closes an order in flight MISSED, and a READY lane below its threshold stays READY, with the
latest-event record as it was. -/
theorem test_station_reset_takes_no_low_test :
    let s : State := { inFlight .acked .strike .none with line := .hold, settings := { walk.settings with low := .all (.all 9000000) } }
    let t := after (exec (.stationReset lineHdr 1) s)
    (t.record 40).map (fun r => (r.st.get .i1).status) = some .missed ∧
    ((s.lane .i1 .i0).state, (t.lane .i1 .i0).state) = (.ready, .ready) ∧ decide ((s.lane .i1 .i0).remaining < 9000000) = true ∧
    t.units.get .i1 = (s.units.get .i1).stationReset := by decide +kernel

theorem test_line_reset_needs_stopped :
    result ((after (exec (.lineReset lineHdr) tripped)).ports.get .line) = some .state ∧
    ((after (exec (.lineReset lineHdr) { tripped with line := .stopped })).units.get .i1).tripped = false := by decide +kernel

/-! ### Flags, records and notices (9.8) -/

theorem test_clear_flags_keeps_a_trip :
    let t := after (exec (.clearFlags lineHdr 1 { soft := true, hard := true, beyond := false }) tripped)
    (t.units.get .i1).tripped = true ∧ result (t.ports.get .line) = some .ok := by decide +kernel

theorem test_set_flags_twice_does_not_trip :
    let set := Instr.setFlags lineHdr 4 { soft := false, hard := true, beyond := false } { soft := false, hard := false, beyond := false }
    (after (exec set (after (exec set walk)))).lineUnit = { FaultUnit.reset with hard := true } := by decide +kernel

theorem test_clear_fault_record_is_the_line_ports :
    result ((after (exec (.clearFaultRecord rollHdr 1) walk)).ports.get .roll) = some .denied ∧
    result ((after (exec (.clearFaultRecord lineHdr 5) walk)).ports.get .line) = some .range := by decide +kernel

theorem test_routing_and_taking_notices :
    let s := after (exec (.setRouting rollHdr 512 (some .routine)) walk)
    let t := after (exec (.hold lineHdr) s)
    ((t.ports.get .roll).pending.map fun n => (n.notice, n.urgent)) = [(.holdEntered, false)] ∧
      (t.ports.get .line).pending = [] ∧ ((after (exec (.takeNotices rollHdr) t)).ports.get .roll).pending = [] := by decide +kernel

/-! ### Jobs (11.8) -/

/-- Slot 1 LOADING with the copy of slot 0, P = 10,000, and S1 and lanes as the table gives them. -/
def loading (a lf : Nat) : State :=
  let lane := laneAt .on lf 800
  let off := laneAt .off 0 200
  let job : JobRecord :=
    { globals := { walkGlobals with pitch := some 10000 },
      stations := ⟨some { foilStation with lanes := some ⟨lane, lane, off, off⟩ }, some { embossStation with a := a }, none, none⟩ }
  { walk with slots := ⟨walkSlot, { JobSlot.reset with state := .loading, job := some job }⟩ }

theorem test_check_job_of_11_8 :
    (after (exec (.checkJob lineHdr 1) (loading 11200 24000))).slots.s1.failing = some { check := .anchor, item := .station .i1 } ∧
    (after (exec (.checkJob lineHdr 1) (loading 1200 24000))).slots.s1.failing = some { check := .feed, item := .lane .i0 .i0 } ∧
    (after (exec (.checkJob lineHdr 1) (loading 1200 8000))).slots.s1.retireDist = some 418201 := by decide +kernel

theorem test_begin_job_copies :
    (after (exec (.beginJob lineHdr 1 (some .copy)) walk)).slots.s1.job = some walkJob ∧
    result ((after (exec (.beginJob lineHdr 0 (some .blank)) walk)).ports.get .line) = some .inUse := by decide +kernel

theorem test_switch_needs_ready :
    result ((after (exec (.switchJob lineHdr 1) (loading 1200 8000))).ports.get .line) = some .state ∧
    (after (exec (.switchJob lineHdr 1) (after (exec (.checkJob lineHdr 1) (loading 1200 8000))))).slots.s1.state = .active := by
  decide +kernel

theorem test_job_item_global_and_lane :
    ((after (exec (.jobItemGlobal lineHdr 1 (.lockN 5)) (loading 1200 8000))).globals .slot1).lockN = 5 ∧
    ((after (exec (.jobItemLane lineHdr 1 0 1 (some .firstOff) 7000 300) (loading 1200 8000))).descriptor .slot1 .i0 .i1) =
      some (laneAt .firstOff 7000 300) := by decide +kernel

theorem test_job_item_zone_needs_a_station :
    let item : ZoneItem := { enabled := some true, setpoint := 1850, band := 20, reqOffset := 30, mode := some .level }
    result ((after (exec (.jobItemZone lineHdr 1 2 0 item) (loading 1200 8000))).ports.get .line) = some .state ∧
    ((after (exec (.jobItemZone lineHdr 1 1 0 item) (loading 1200 8000))).entry .slot1 .i1).map (·.zones.get .i0) = some zoneOn := by
  decide +kernel

theorem test_job_item_station_and_removal :
    let item : StationItem := { type := some .emboss, d := 412500, a := 1200, lead := 30000, reportSpan := 4000, stepMax := 40,
                                tol := 25, trimLim := 500, gain := 6, slew := 5, liftOnReject := some false }
    ((after (exec (.jobItemStation lineHdr 1 1 item) (loading 11200 8000))).entry .slot1 .i1) = some { embossStation with a := 1200 } ∧
    ((after (exec (.jobItemRemoveStation lineHdr 1 1) (loading 11200 8000))).entry .slot1 .i1) = none := by decide +kernel

theorem test_settings_are_written_in_stopped :
    result ((after (exec (.writeLineSettings lineHdr [.nSlot 3]) walk)).ports.get .line) = some .state ∧
    (after (exec (.writeLineSettings lineHdr [.nSlot 3]) { walk with line := .stopped })).settings.nSlot = 3 := by decide +kernel

/-! ### Verdicts (7.4.1), reads and outcomes -/

/-- Seq 40 in the place of seq 42: C1 REJECT, S0 committed with a feed of 24,800 on C0. -/
def posted : State :=
  { at' 1320000 walk with
    track := [{ seq40 with
      verdict := ⟨some .good, some .reject, none, none⟩,
      st := seq40.st.upd .i0 fun f =>
        { f with status := .acked, decision := .strike, target := some 1205014, feed := some ⟨24800, 0, 0, 0⟩ } }] }

theorem test_late_reject_warns :
    let t := after (exec (.postVerdict lineHdr 40 ⟨true, false, false, false⟩ (some .reject)) posted)
    ((t.record 40).map (·.verdict)) = some ⟨some .reject, some .reject, none, none⟩ ∧
      ((t.units.get .i0).latest.map fun l => (l.kind, l.column)) = some (.lateVerdict, some .i0) := by decide +kernel

theorem test_good_keeps_reject :
    let t := after (exec (.postVerdict inspHdr 40 ⟨true, true, false, false⟩ (some .good)) posted)
    ((t.record 40).map (·.verdict)) = some ⟨some .good, some .reject, none, none⟩ ∧
      result (t.ports.get .inspection) = some .kept := by decide +kernel

theorem test_read_track_knows_its_seqs :
    result ((after (exec (.readTrack rollHdr 41) posted)).ports.get .roll) = some .noRepeat ∧
    result ((after (exec (.readTrack rollHdr 40) posted)).ports.get .roll) = some .ok := by decide +kernel

theorem test_reads_judge_their_index :
    result ((after (exec (.readStation lineHdr 4) posted)).ports.get .line) = some .range ∧
    result ((after (exec (.readLane lineHdr 3 3) posted)).ports.get .line) = some .ok := by decide +kernel

theorem test_reads_judge_zones_and_watches :
    result ((after (exec (.readZone lineHdr 0 4) posted)).ports.get .line) = some .range ∧
    result ((after (exec (.readWatch lineHdr 3) posted)).ports.get .line) = some .ok := by decide +kernel

theorem test_read_fault_record_has_five_units :
    result ((after (exec (.readFaultRecord lineHdr 4) posted)).ports.get .line) = some .ok ∧
    result ((after (exec (.readFaultRecord lineHdr 5) posted)).ports.get .line) = some .range := by decide +kernel

theorem test_read_line : result ((after (exec (.readLine inspHdr) posted)).ports.get .inspection) = some .ok := by decide +kernel

theorem test_take_outcomes_needs_a_subscription :
    result ((after (exec (.takeOutcomes lineHdr) leaving)).ports.get .line) = some .state ∧
    ((after (exec (.subscribeOutcomes lineHdr) leaving)).outcomes.cursors.get .line) = some { pos := 0, gap := false } := by
  decide +kernel


/-! ### Events handed over (R5, R6), and bytes (R187, R194, R195) -/

/-- With no command waiting the event that H has reached is handed over; an encoder step takes it before W moves. -/
theorem test_reached_events_are_handed_over :
    step (atCommit 40 25) = exec (.commit .i1 40) (atCommit 40 25) ∧
    (((after (exec (.encoderStep .forward) (atCommit 40 25))).calcs.get .i1).last.map (·.seq)) = some 40 ∧
    (after (exec (.encoderStep .forward) (atCommit 40 25))).web.h = 1382513 := ⟨rfl, by decide +kernel, by decide +kernel⟩

/-- A receiver skips to the sync byte; a frame with a bad CRC is dropped and the frame behind it is found; a frame not yet complete
waits. -/
theorem test_receiver_hunts :
    let frame := framed 126 ([0, 7, 31] ++ u2 0)
    (portKind .line).receive ([1, 2] ++ frame) = ([.readLine lineHdr], []) ∧
    (portKind .line).receive ([126, 0, 7, 31, 0, 0, 0, 0] ++ frame) = ([.portFrameDropped .line, .readLine lineHdr], []) ∧
    (portKind .line).receive (frame.take 7) = ([], frame.take 7) := by decide +kernel

/-- A length of 2,049 is dropped where it is read, and the frame behind it is found. -/
theorem test_receiver_drops_a_length_beyond :
    (portKind .line).receive ([126, 0, 7, 31, 8, 1] ++ framed 126 ([0, 7, 31] ++ u2 0)) =
      ([.portFrameDropped .line, .readLine lineHdr], []) := by decide +kernel

/-- R185: a low threshold is sent value first, then its lane; two settings of which the second is missing are dropped. -/
theorem test_setting_bodies :
    (requestOf 18 [1, 7, 0, 0, 39, 16, 2, 3]).map (fun make => make lineHdr) =
      some (.writeLineSettings lineHdr [.lowThreshold 2 3 10000]) ∧
    (requestOf 18 [2, 3, 9]).isNone = true ∧
    (requestOf 18 [1, 3, 9]).map (fun make => make lineHdr) = some (.writeLineSettings lineHdr [.unlisted]) := by decide +kernel

/-- R194, R195: a set of two bytes goes high byte first with lane (0,0) in bit 0; a unit's three flags are three items; a zone is a
station and a zone; the code of an answer is 128 above the request's. -/
theorem test_reply_bytes :
    laneSetB ((Four.all (.all false)).set .i0 ⟨true, false, false, false⟩) = [0, 1] ∧
    laneSetB ((Four.all (.all false)).set .i3 ⟨false, false, false, true⟩) = [128, 0] ∧
    unitFlagsB { soft := true, hard := false, tripped := true } = [1, 0, 1] ∧ detailB (.zone .i2 .i3) = [2, 3] ∧
    ({ tag := 7, code := 31, result := .ok, body := .empty } : Reply).bytes.take 6 = [126, 0, 7, 159, 0, 0] := by decide +kernel

/-- R102, R190: READ ZONE carries the on-set last handed to the station's link. -/
theorem test_read_zone_carries_the_on_set :
    ((after (exec (.stationCarrierReturn .i1) { at200 with links := .all { carrier := false, sending := none, waiting := [] } })).zoneView
      .i1 .i0).onSet = ⟨true, true, false, false⟩ := by decide +kernel


/-! ### Witnesses: states and operands that meet the hypotheses of the statements, clause by clause -/

def arrivesLine : State := after (exec (.readLine { lineHdr with stage := .arrives }) walk)
def takenHdr : ReqHdr := { lineHdr with stage := .taken }

theorem mirrored_walk : TripsMirrored walk ∧ TripsMirrored (at' 1423700 walk) ∧ TripsMirrored (at' 500 walk) := by
  refine ⟨?_, ?_, ?_⟩ <;> (intro v; cases v <;> rfl)

/-- With a command waiting, with none but an event that H has reached, and with neither. -/
theorem witness_StepRunsTheFrontCommand :
    ({ walk with pending := [.retire] } : State).pending = .retire :: [] ∧ (atCommit 40 25).pending = [] ∧
    (atCommit 40 25).eventDue = some (.commit .i1 40) ∧ walk.pending = [] ∧ walk.eventDue = none := by decide +kernel

theorem witness_EncoderStepsMoveWebAndHighWater :
    (let s := at' 100 walk
     s.eventDue = none ∧ s.web.h - (s.web.w - 1) = 1 ∧ ({ s with line := .stopped } : State).line ≠ .run) ∧
    HandedOver [.commit .i1 40] (atCommit 40 25) (after (exec (.commit .i1 40) (atCommit 40 25))) :=
  ⟨by decide +kernel, by decide +kernel, rfl, by decide +kernel⟩

/-- The backward step at the limit and one beyond it, a later one in the same excursion, the first one of an excursion, and the forward
steps that end one and that do not. -/
theorem witness_EncoderStepsMoveWebAndHighWater_reversal :
    let s (w : Pos) : State := { at' 100000 walk with web := { (at' 100000 walk).web with w := w } }
    (s 50000).eventDue = none ∧ (s 50000).line = .run ∧ (s 50000).web.reversalRaised = false ∧
    ((s 50001).web.h - ((s 50001).web.w - 1)).toNat = (s 50001).settings.reverseLimit ∧
    ((s 50000).web.h - ((s 50000).web.w - 1)).toNat = (s 50000).settings.reverseLimit + 1 ∧
    (let x : State := { s 49999 with web := { (s 49999).web with reversalRaised := true } }
     x.web.reversalRaised = true ∧ 2 ≤ (x.web.h - (x.web.w - 1)).toNat) ∧
    ((s 100000).web.h - ((s 100000).web.w - 1)).toNat = 1 ∧ ((s 99999).web.h - ((s 99999).web.w - 1)).toNat = 2 ∧
    (s 99999).web.h = (s 99999).web.w + 1 ∧ (s 99998).web.h ≠ (s 99998).web.w + 1 := by decide +kernel

/-- R7: the flag is kept at 2 counts back, cleared at the step from 0 to 1 and at the return to 0. -/
theorem test_reversal_flag :
    let s (w : Pos) : State := { at' 100 walk with web := { (at' 100 walk).web with w := w, reversalRaised := true } }
    let flag (c : EncoderChange) (w : Pos) : Bool := (after (exec (.encoderStep c) (s w))).web.reversalRaised
    flag .backward 100 = false ∧ flag .backward 99 = true ∧ flag .forward 98 = true ∧ flag .forward 99 = false := by
  decide +kernel

theorem witness_SpeedIntervalMeasuresHighWater :
    exec .estopCleared walk = .next (after (exec .estopCleared walk)) ∧ Instr.estopCleared ≠ .speedIntervalEnd := ⟨rfl, nofun⟩

theorem witness_PortsServeOneRequestAtATime :
    requestHeader (.readLine { lineHdr with stage := .arrives }) = some ({ lineHdr with stage := .arrives }, 31) ∧
    (walk.ports.get .line).carrier = true ∧ (walk.ports.get .line).inService = none ∧
    requestHeader (.hold lineHdr) = some (lineHdr, 2) ∧ lineHdr.stage ≠ .taken ∧
    requestHeader (.unknownRequest lineHdr 15) = some (lineHdr, 15) ∧
    (arrivesLine.ports.get .line).carrier = true ∧ (arrivesLine.ports.get .line).inService ≠ none ∧
    ((after (exec (.readLine lineHdr) walk)).ports.get .line).tx.length = 1 := by decide +kernel

theorem witness_UnknownAndForeignRequestsAreRefused :
    ((walk.ports.get .roll).carrier = true ∧ rollHdr.stage ≠ .taken ∧ codeNamed 0 = false ∧ codeNamed 38 = false) ∧
    codeHasForms 7 = true ∧ codeHasForms 15 = true ∧ walk.takes rollHdr (.unknownRequest · 7) ∧
    walk.takes lineHdr (.unknownRequest · 15) ∧ rollHdr.port ≠ .line ∧ walk.takes rollHdr (.checkJob · 0) ∧
    walk.takes inspHdr (.writeLineSettings · []) := by decide +kernel

theorem witness_StationLinkEventsMoveFrames :
    (State.reset.links.get .i3).carrier = false ∧ (State.reset.links.get .i3).sending = none ∧
      (State.reset.links.get .i3).waiting = [] ∧
    (let l : Link := { carrier := true, sending := none, waiting := [.abortOrder [3]] }
     (({ walk with links := .all l } : State).links.get .i0).waiting = .abortOrder [3] :: []) := by decide +kernel

/-- S0's link without a carrier and with frames that wait. -/
def linkDown (waiting : List LinkFrame) : State :=
  { walk with links := walk.links.set .i0 { carrier := false, sending := none, waiting := waiting } }

theorem witness_StationLinkEventsMoveFrames_waiting :
    let frames : List LinkFrame := [.abortOrder [3], .heatOrder (.all true), .strikeOrder 4 .lift true 0 (.all 0)]
    let l := (linkDown frames).links.get .i0
    l.carrier = false ∧ l.sending = none ∧ l.waiting = frames ∧ (l.waiting.filter LinkFrame.isHeat).length = 1 := by decide +kernel

/-- R111, R192: the on-set takes the place of the waiting HEAT ORDER, or goes behind the orders, of which the first starts. -/
theorem test_carrier_return_with_orders_waiting :
    let frames (l : List LinkFrame) : Option LinkFrame × List LinkFrame :=
      let k := (after (exec (.stationCarrierReturn .i0) (linkDown l))).links.get .i0
      (k.sending, k.waiting)
    frames [.abortOrder [3], .heatOrder (.all true), .abortOrder [4]] =
      (some (.abortOrder [3]), [.heatOrder (.all false), .abortOrder [4]]) ∧
    frames [.abortOrder [3]] = (some (.abortOrder [3]), [.heatOrder (.all false)]) := by decide +kernel

theorem witness_FaultUnitRequests :
    let f : FlagSet := { soft := true, hard := false, beyond := false }
    walk.takes lineHdr (.clearFlags · 4 f) ∧ walk.takes rollHdr (.setFlags · 5 f f) ∧ walk.takes lineHdr (.clearFaultRecord · 0) := by
  decide +kernel

/-- A request that stands in service is taken by the command of the later stage. -/
theorem witness_taken_request : arrivesLine.takes takenHdr .readLine := by decide +kernel

/-- AT_POSITION beyond, at and short of H and at its bound; the other three are met and not met at their bounds. -/
theorem witness_ArmWatchClaimsItsUnit :
    (let s := at' 500 walk
     s.takes rollHdr (.armWatch · 3 (.atPosition 501) (some .mark) (some .job) (some true)) ∧ idxOf 3 = some .i3 ∧
     (s.watches.get .i3).owner = none ∧ reached s.web.h 501 = false ∧ reached s.web.h 500 = true ∧
     (500 + 8388608 - s.web.h).toInt = 8388608 ∧ (500 + 8388609 - s.web.h).toInt = 8388609) ∧
    (let s := atFoil .on 10400
     s.record 39 = none ∧ (s.record 40).map (fun r => (r.st.get .i1).status) = some .pending ∧
     ((atCommit 40 25).record 40).map (fun r => (r.st.get .i0).status) = some .done ∧
     s.takes lineHdr (.armWatch · 3 (.repeatAtStation 40 1) (some .stop) (some .line) (some true)) ∧ idxOf 1 = some .i1 ∧
     idxOf 0 = some .i0 ∧ idxOf 4 = none ∧ ((s.lanes.get .i0).get .i1).remaining < (10401 : BitVec 32).toNat ∧
     ¬ ((s.lanes.get .i0).get .i1).remaining < (10400 : BitVec 32).toNat) ∧
    (let s := atCommit 40 25
     (s.calcs.get .i1).trim = -37 ∧ (36 : BitVec 16).toNat < 37 ∧ (2000 : BitVec 16).toNat ≤ 2000 ∧ 2000 < (2001 : BitVec 16).toNat) :=
  by decide +kernel

theorem witness_WatchUnitsObeyTheirOwner :
    let s := watching .mark
    idxOf 2 = some .i2 ∧ (s.watches.get .i2).owner = some .roll ∧ Port.roll ≠ lineHdr.port ∧
    s.takes lineHdr (.armWatch · 2 (.atPosition 9) (some .mark) (some .job) (some true)) ∧
    s.takes lineHdr (.enableWatch · 2 (some true)) ∧ s.takes inspHdr (.releaseWatch · 2) ∧ inspHdr.port ≠ .line ∧
    s.takes rollHdr (.clearWatchHit · 2) ∧ s.takes rollHdr (.releaseWatch · 2) := by decide +kernel

theorem witness_WatchUnitsObeyTheirOwner_more :
    (let s := watching .mark
     (WatchSpec.trimBeyond 9 5000) ≠ .unlisted ∧
       s.takes lineHdr (.armWatch · 2 (.trimBeyond 9 5000) (some .mark) (some .job) (some true)) ∧
       s.takes lineHdr (.armWatch · 2 (.repeatAtStation 99 1) (some .mark) (some .job) (some true))) ∧
    (walk.watches.get .i2).owner = none ∧ walk.takes lineHdr (.enableWatch · 2 (some true)) ∧
    walk.takes rollHdr (.clearWatchHit · 2) ∧ walk.takes inspHdr (.releaseWatch · 2) := by decide +kernel

/-- R169, R170: OWNED stands before the judgement of the parameters; a unit without an owner is refused STATE. -/
theorem test_watch_requests_of_no_owner :
    let code (c : Instr) (s : State) : Option ResultCode := result ((after (exec c s)).ports.get .line)
    code (.armWatch lineHdr 2 (.trimBeyond 9 5000) (some .mark) (some .job) (some true)) (watching .mark) = some .owned ∧
    code (.enableWatch lineHdr 2 (some true)) walk = some .state ∧ code (.clearWatchHit lineHdr 2) walk = some .state ∧
    code (.releaseWatch lineHdr 2) walk = some .ok := by decide +kernel

theorem witness_PositionWatchIsMetOnce :
    let s := watching .notice
    (s.watches.get .i2).armed = true ∧ (s.watches.get .i2).condition = some (.atPosition 500) ∧ (s.web.h - 500).toNat < 2 ^ 31 ∧
    (s.watches.get .i2).enabled = true ∧ (s.watches.get .i2).action = some .notice ∧ (s.watches.get .i2).owner = some .roll ∧
    ((watching .mark).watches.get .i2).action = some .mark ∧ ((watching .stop).watches.get .i2).action = some .stop := by
  decide +kernel

/-- A unit armed for seq 40 at S1 and one for another station, a foil unit about to be met, and a trim unit in a hold whose context
gives S1 another trim. -/
def watchers (s : State) : State :=
  let u : Watch := { Watch.reset with owner := some .roll, action := some .mark, scope := some .line, enabled := true }
  { s with watches := ⟨{ u with condition := some (.repeatAtStation 40 .i1), armed := true },
                       { u with condition := some (.repeatAtStation 40 .i0), armed := true },
                       { u with condition := some (.foilBelow .i0 .i1 8000001) },
                       { u with condition := some (.trimBeyond .i1 37), inside := true }⟩ }

theorem witness_WatchesAreMetByTheirBlocks :
    (let s := watchers (atCommit 40 25)
     (s.commitTurn .i1).map (·.seq) = some 40 ∧ (s.record 40) = s.commitTurn .i1 ∧ (s.entry .slot0 .i1).isSome = true) ∧
    (let s := watchers (atFoil .on 10400)
     s.takes rollHdr (.reportFoilRoll · 0 1 8000000) ∧ rollHdr.port = .roll ∧ ((s.lanes.get .i0).get .i1).reserved = 0) ∧
    (let s := watchers (after (exec (.editHoldContextTrim lineHdr 1 12) held))
     s.takes lineHdr .resume ∧ s.line = .hold ∧ s.estop = false ∧ (s.seqr.get .i1).context.map (·.trim) = some 12 ∧
       (s.calcs.get .i1).trim = -37 ∧ (s.entries .i1).map (·.action) = [.skip]) := by decide +kernel

/-- R173, R174: the commit of seq 40 at S1 meets its own unit, marks the record and leaves the other unit armed; the new roll meets
the foil unit; the trim unit leaves the condition. -/
theorem test_watches_are_met_by_their_blocks :
    (let t := after (exec (.commit .i1 40) (watchers (atCommit 40 25)))
     (t.watches.a0.armed, t.watches.a0.hit, t.watches.a1.armed, t.watches.a1.hit) = (false, true, true, false) ∧
       (t.record 40).map (·.watchMark) = some ⟨true, false, false, false⟩) ∧
    (after (exec (.reportFoilRoll rollHdr 0 1 8000000) (watchers (atFoil .on 10400)))).watches.a2.hit = true ∧
    (after (exec (.resume lineHdr) (watchers (after (exec (.editHoldContextTrim lineHdr 1 12) held))))).watches.a3.inside = false := by
  decide +kernel

theorem witness_JobRequests :
    let s := loading 1200 8000
    lineHdr.port = .line ∧ slotOf 1 = some .slot1 ∧ slotOf 0 = some .slot0 ∧ idxOf 1 = some .i1 ∧ idxOf 0 = some .i0 ∧
    walk.takes lineHdr (.beginJob · 1 (some .copy)) ∧ (s.slots.get .slot1).state = .loading ∧ (s.slots.get .slot1).job.isSome = true ∧
    s.takes lineHdr (.jobItemGlobal · 1 (.pitch 9000)) ∧ s.takes lineHdr (.jobItemRemoveStation · 1 1) ∧
    s.takes lineHdr (.checkJob · 1) ∧ s.takes lineHdr (.switchJob · 1) ∧ (s.slots.get .slot0).state ≠ .loading := by decide +kernel

theorem witness_JobItemsWriteTheirItem :
    let s := loading 1200 8000
    let zone : ZoneItem := { enabled := some true, setpoint := 1850, band := 20, reqOffset := 30, mode := some .level }
    let item : StationItem := { type := some .emboss, d := 412500, a := 1200, lead := 30000, reportSpan := 4000, stepMax := 40,
                                tol := 25, trimLim := 500, gain := 6, slew := 5, liftOnReject := some false }
    item.type = some .emboss ∧ item.liftOnReject = some false ∧ s.takes lineHdr (.jobItemStation · 1 1 item) ∧
    zone.enabled = some true ∧ zone.mode = some .level ∧ (s.entry .slot1 .i1).isSome = true ∧
    s.takes lineHdr (.jobItemZone · 1 1 0 zone) ∧ ((s.entry .slot1 .i0).bind (·.lanes)).isSome = true ∧
    s.takes lineHdr (.jobItemLane · 1 0 1 (some .on) 8000 800) ∧ s.takes lineHdr (.jobItemGlobal · 1 (.coastPolicy true)) ∧
    GlobalItem.coastPolicy true ≠ .unlisted := by decide +kernel

theorem witness_JobItemsNeedALoadingSlot :
    let s := loading 1200 8000
    let item : StationItem := { type := some .emboss, d := 412500, a := 1200, lead := 30000, reportSpan := 4000, stepMax := 40,
                                tol := 25, trimLim := 500, gain := 6, slew := 5, liftOnReject := some false }
    (walk.slots.get .slot0).state ≠ .loading ∧ walk.takes lineHdr (.jobItemGlobal · 0 (.lockN 3)) ∧
    walk.takes lineHdr (.jobItemStation · 0 1 item) ∧ walk.takes lineHdr (.jobItemRemoveStation · 0 1) ∧
    s.entry .slot1 .i2 = none ∧ (s.entry .slot1 .i1).bind (·.lanes) = none := by decide +kernel

theorem test_job_items_of_a_running_slot_are_refused :
    let item : StationItem := { type := some .emboss, d := 412500, a := 1200, lead := 30000, reportSpan := 4000, stepMax := 40,
                                tol := 25, trimLim := 500, gain := 6, slew := 5, liftOnReject := some false }
    result ((after (exec (.jobItemStation lineHdr 0 1 item) walk)).ports.get .line) = some .state ∧
    result ((after (exec (.jobItemRemoveStation lineHdr 0 1) walk)).ports.get .line) = some .state := by decide +kernel

/-- A record that passes every check, one whose values stand at the upper ends of their ranges as far as the depth allows, and one at the
lower ends, with RETIRE_DIST 2,502. -/
theorem witness_CheckedJobsMeetEveryBound :
    let zone (sp b o : Nat) : ZoneParams := { enabled := true, setpoint := sp, band := b, reqOffset := o, mode := .level }
    let high : JobRecord :=
      { globals := { pitch := some 65535, window := some 4000, lockN := 8, coastMax := 8, stretchSmooth := 6, strikeMinSpeed := 1000,
                     columns := some ⟨false, false, false, true⟩, splBefore := 65535, splAfter := 65535, unknownFeed := true,
                     coastPredict := true },
        stations := ⟨none, none, none, some
          { type := .foil, d := 2700000, a := 65534, lead := 200000, reportSpan := 65535, stepMax := 2000, tol := 500, trimLim := 2000,
            gain := 16, slew := 255, liftOnReject := true, zones := .all (zone 2500 100 200), lanes := some (.all (laneAt .off 65535 65535)) }⟩ }
    let low : JobRecord :=
      { globals := { pitch := some 8000, window := some 50, lockN := 1, coastMax := 0, stretchSmooth := 0, strikeMinSpeed := 0,
                     columns := some ⟨true, false, false, false⟩, splBefore := 0, splAfter := 0, unknownFeed := false,
                     coastPredict := false },
        stations := ⟨some
          { type := .foil, d := 2001, a := 0, lead := 2000, reportSpan := 500, stepMax := 1, tol := 1, trimLim := 0,
            gain := 0, slew := 1, liftOnReject := false, zones := .all (zone 0 1 1), lanes := some (.all (laneAt .on 7800 200)) },
          none, none, none⟩ }
    ((loading 1200 8000).slots.get .slot1).job.map (·.firstFailing) = some none ∧ high.firstFailing = none ∧
    low.firstFailing = none ∧ low.retireDist = 2502 := by decide +kernel

/-- R181: of two faults the earlier check is named, and within a check the first item. -/
theorem test_the_first_check_that_fails_is_named :
    let station (f : StationEntry → StationEntry) : JobRecord :=
      { walkJob with stations := ⟨some (f foilStation), some (f embossStation), none, none⟩ }
    let globals (f : JobGlobals → JobGlobals) : JobRecord := { walkJob with globals := f walkGlobals }
    let name (r : JobRecord) : Option CheckName := r.firstFailing.map (·.check)
    name walkJob = none ∧ walkJob.retireDist = 412500 + 11200 + 500 + 4000 + 1 ∧
    (station fun e => { e with a := 65535, lead := 0 }).firstFailing = some ⟨.ranges, .station .i0⟩ ∧
    (station fun e => { e with a := 30000, lead := 2000, trimLim := 1000 }).firstFailing = some ⟨.anchor, .station .i0⟩ ∧
    (station fun e => { e with lead := 2000, trimLim := 1000 }).firstFailing = some ⟨.lead, .station .i0⟩ ∧
    (globals fun g => { g with pitch := some 24799 }).firstFailing = some ⟨.feed, .lane .i0 .i0⟩ ∧
    name (globals fun g => { g with pitch := some 8000, window := some 2001 }) = some .window ∧
    name { walkJob with stations := .all none } = some .noStation ∧
    name (station fun e => { e with d := 2000000 }) = some .tooDeep := by decide +kernel

theorem witness_SwitchJobActivatesAReadySlot :
    let s := after (exec (.checkJob lineHdr 1) (loading 1200 8000))
    s.takes lineHdr (.switchJob · 1) ∧ (s.slots.get .slot1).state = .ready ∧ s.heat.order = Heat.defaultOrder ∧
    0 < s.settings.minHold ∧ (walk.slots.get .slot0).state ≠ .ready ∧
    (let routed : State := { s with ports := s.ports.upd .line fun p => { p with routing := { p.routing with jobSwitched := .routine } } }
     (routed.ports.get .line).routing.cls .jobSwitched ≠ .off) := by decide +kernel

/-- The settings at the lower and at the upper ends of their ranges are taken; each just outside, a lane not listed, a name not listed, and
a setting named twice are refused. -/
theorem witness_LineSettingsAreWrittenTogether :
    let s : State := { walk with line := .stopped }
    let answer (l : List SettingItem) : Option ResultCode :=
      result ((after (exec (.writeLineSettings lineHdr l) s)).ports.get .line)
    walk.line ≠ .stopped ∧ s.takes lineHdr (.writeLineSettings · [.nSlot 1]) ∧ s.heat.order = Heat.defaultOrder ∧
    answer [.nSlot 1, .minHold 50, .maxHold 100, .arbMode .queued, .overLimit 50, .spliceDist 0, .reverseLimit 1000,
      .lowThreshold 0 0 0, .lowThreshold 0 1 0] = some .ok ∧
    answer [.nSlot 8, .minHold 5000, .maxHold 30000, .arbMode .preempt, .overLimit 500, .spliceDist 2000000, .reverseLimit 500000,
      .lowThreshold 3 3 4294967295] = some .ok ∧
    ([[.nSlot 0], [.nSlot 9], [.minHold 49], [.minHold 5001], [.maxHold 99], [.maxHold 30001], [.overLimit 49], [.overLimit 501],
      [.spliceDist 2000001], [.reverseLimit 999], [.reverseLimit 500001], [.lowThreshold 4 0 0], [.lowThreshold 0 4 0], [.unlisted],
      [.nSlot 3, .nSlot 3], [.lowThreshold 1 2 5, .lowThreshold 1 2 6]] : List (List SettingItem)).all
        (fun l => decide (answer l = some .range)) = true := by decide +kernel

theorem witness_Reads :
    posted.takes rollHdr (.readTrack · 40) ∧ posted.takes lineHdr (.readStation · 3) ∧ posted.takes inspHdr (.readLane · 0 1) ∧
    posted.takes lineHdr (.readZone · 0 1) ∧ posted.takes lineHdr .readLine ∧ posted.takes lineHdr (.readFaultRecord · 4) ∧
    posted.takes lineHdr (.readWatch · 3) := by decide +kernel

theorem witness_FramesReachTheirCommand :
    ([] : Bytes).length ≤ 2048 ∧ (0 : BitVec 16) ≠ crc16 [1] ∧ (2049 : BitVec 16).toNat > 2048 ∧
    (requestOf 31 []).isSome = true ∧ (requestOf 31 [0]).isNone = true ∧
    (driveBody .i1 32 [0, 40, 0]).isSome = true ∧ driveBody .i1 32 [0, 40] = none := by decide +kernel

theorem witness_Notices :
    walk.takes rollHdr .takeNotices ∧ walk.takes rollHdr (.setRouting · 4095 (some .urgent)) ∧ (4095 : BitVec 16).toNat < 4096 ∧
    4096 ≤ (4096 : BitVec 16).toNat ∧ (walk.ports.get .roll).routing.cls .unitTrip ≠ .off ∧
    (walk.ports.get .roll).routing.cls .unitSoft = .off := by decide +kernel

theorem witness_pending_pairs_in_order :
    (((after (exec .estopAsserted { walk with ports := walk.ports.upd .line fun p =>
      { p with routing := { p.routing with holdEntered := .urgent } } })).ports.get .line).pending.map
        fun x => x.notice.rank).Pairwise (· < ·) := by decide +kernel

/-- A full list with a cursor at its oldest record, and one with room. -/
theorem witness_OutcomesAreKeptForTheirCursors :
    let r := leaving.outcomeOf seq40
    let list (n : Nat) : OutcomeList := { records := List.replicate n r, cursors := ⟨some { pos := 0, gap := false }, none, none⟩ }
    ((list 63).cursors.get .line).map (·.pos) = some 0 ∧ (list 63).records.length < 64 ∧ 64 ≤ (list 64).records.length ∧
    ((list 64).append r).cursors.get .line = some { pos := 0, gap := true } := by decide +kernel

theorem witness_OutcomeRequests :
    leaving.takes lineHdr .subscribeOutcomes ∧ leaving.takes lineHdr .takeOutcomes ∧ leaving.outcomes.cursors.get .line = none ∧
    leaving.takes rollHdr .takeOutcomes ∧ (leaving.outcomes.cursors.get .roll).map (·.pos) = some 0 := by decide +kernel

theorem witness_RefusedLineRequestsChangeNothing :
    let stopped : State := { walk with line := .stopped, estop := true }
    (rollHdr.port ≠ .line ∧ walk.takes rollHdr .start ∧ walk.takes rollHdr (.stationReset · 0)) ∧
    (stopped.takes lineHdr .start ∧ stopped.line = .stopped ∧ stopped.estop = true) ∧ walk.takes lineHdr .start ∧
    stopped.takes lineHdr .hold ∧ (held.takes lineHdr .hold ∧ held.line = .hold) ∧ walk.takes lineHdr .resume ∧
    (aborting .strike).takes lineHdr .stop ∧ ((aborting .strike).seqr.get .i1).awaited = .abort ∧
    walk.takes lineHdr .lineReset ∧ held.takes lineHdr (.stationReset · 4) ∧ idxOf 4 = none := by decide +kernel

theorem witness_StartClearsPhasesAndReader :
    let s : State := { walk with line := .stopped }
    s.takes lineHdr .start ∧ s.line = .stopped ∧ s.estop = false ∧ s.active ≠ none ∧ s.lineUnit.tripped = false ∧
    s.web.reverse ≤ s.settings.reverseLimit ∧
    (let b : State := { s with web := { s.web with w := 0, h := 50001 } }
     b.settings.reverseLimit < b.web.reverse ∧ b.web.reversalRaised = false) := by decide +kernel

theorem mirrored_inFlight :
    TripsMirrored (inFlight .acked .strike .none) ∧ TripsMirrored (inFlight .committed .strike (.order 40)) ∧
    TripsMirrored (aborting .strike) ∧ TripsMirrored held := by
  refine ⟨?_, ?_, ?_, ?_⟩ <;> (intro v; cases v <;> decide +kernel)

/-- S1 with seq 40 awaited and seq 41 in the link queue, both in flight. -/
def twoInFlight : State :=
  let s := inFlight .committed .strike (.order 40)
  { s with track := s.track ++ [{ ordered40 .committed .strike with seq := 41 }], nextSeq := 42,
           seqr := s.seqr.upd .i1 fun q => { q with
             inFlight := [{ seq := 40, phasing := false }, { seq := 41, phasing := false }], queue := some 41 } }

theorem mirrored_twoInFlight : TripsMirrored twoInFlight := fun v => by cases v <;> rfl

theorem witness_HoldEntrySavesAndAborts :
    let s := inFlight .acked .strike .none
    (s.line = .run ∧ s.takes lineHdr .hold ∧ lineHdr.port = .line) ∧ (∀ st, (s.seqr.get st).queue = none) ∧
    (twoInFlight.line = .run ∧ twoInFlight.takes lineHdr .hold ∧ (twoInFlight.seqr.get .i1).queue = some 41 ∧
      (twoInFlight.record 41).isSome = true ∧ (twoInFlight.seqr.get .i1).awaited ≠ .abort) :=
  ⟨by decide +kernel, fun st => by cases st <;> rfl, by decide +kernel⟩

/-- R80, R140: the queued order is closed as NOT_MADE, the other is named. -/
theorem test_hold_withdraws_the_queued_order :
    let t := after (exec (.hold lineHdr) twoInFlight)
    (t.record 41).map (fun r => (r.st.get .i1).status) = some .missed ∧ (t.seqr.get .i1).abortSet = [40] ∧
      (t.entries .i1).map (fun e => (e.seq, e.outcome)) = [(40, .pending), (41, .notMade)] := by decide +kernel

/-- A PHASED station with one order awaited and one in the link queue, as R141's two orders of a trip and hold entry find it. -/
theorem witness_HoldEntrySavesAndAborts_trip :
    let q := twoInFlight.seqr.get .i1
    twoInFlight.line = .run ∧ q.awaited ≠ .abort ∧ q.queue = some 41 ∧ (twoInFlight.calcs.get .i1).phased = true ∧
    q.inFlight = [{ seq := 40, phasing := false }] ++ [{ seq := 41, phasing := false }] := by decide +kernel

/-- R141: both orders give the same context. It holds the phase from before the trip and an entry for the order withdrawn. -/
theorem test_a_trip_and_a_hold_give_one_context :
    let context (t : State) : Option HoldContext := (t.seqr.get .i1).context
    let trip := (twoInFlight.tripEffects .i1).enterHold
    context trip = context (twoInFlight.enterHold.tripEffects .i1) ∧ (trip.calcs.get .i1).phased = false ∧
    (context trip).map (fun c => (c.phased, c.entries.map fun e => (e.seq, e.outcome))) =
      some (true, [(40, .pending), (41, .notMade)]) := by decide +kernel

/-- R139, R141: a trip with nothing in flight counts while the web stands as it did, and not once it has moved. -/
theorem test_a_trip_of_an_idle_station_and_a_hold :
    let phased (t : State) : Option Bool := ((t.enterHold).seqr.get .i0).context.map (·.phased)
    let s : State := { twoInFlight with calcs := twoInFlight.calcs.upd .i0 fun c => { c with phased := true } }
    let t := s.tripEffects .i0
    (phased s, phased t, phased (after (exec (.encoderStep .forward) t))) = (some true, some true, some false) := by decide +kernel

/-- Outside HOLD no station has a context (R139), and both forms are refused STATE, whatever they name (R143, R144). -/
theorem witness_HoldContextEditsAreJudged_outside_HOLD :
    walk.line ≠ .hold ∧ (walk.seqr.get .i1).context = none ∧ walk.takes lineHdr (.editHoldContextTrim · 1 900) ∧
    walk.takes lineHdr (.editHoldContextTrim · 4 900) ∧ walk.takes lineHdr (.editHoldContextAction · 1 40 (some .restrike)) ∧
    walk.takes lineHdr (.editHoldContextAction · 4 40 none) ∧ held.takes lineHdr (.editHoldContextTrim · 4 900) ∧
    held.takes lineHdr (.editHoldContextAction · 1 40 none) := by decide +kernel

theorem test_edits_outside_HOLD_are_refused_STATE :
    let answer (c : Instr) (s : State) : Option ResultCode := result ((after (exec c s)).ports.get .line)
    answer (.editHoldContextTrim lineHdr 1 900) walk = some .state ∧
    answer (.editHoldContextAction lineHdr 4 40 none) walk = some .state ∧
    answer (.editHoldContextTrim lineHdr 4 900) held = some .range ∧
    answer (.editHoldContextAction lineHdr 1 40 none) held = some .range := by decide +kernel

theorem witness_HoldContextEditsAreJudged :
    held.line = .hold ∧ idxOf 1 = some .i1 ∧ (held.seqr.get .i1).context.isSome = true ∧
    held.takes lineHdr (.editHoldContextTrim · 1 900) ∧ held.takes lineHdr (.editHoldContextAction · 1 40 (some .restrike)) ∧
    ((held.seqr.get .i1).context.bind fun c => c.entries.find? fun e => decide (e.seq = 40)).isSome = true := by decide +kernel

def restriking : State := after (exec (.editHoldContextAction lineHdr 1 40 (some .restrike)) held)

theorem witness_ResumeLoadsContextTrims :
    (held.takes lineHdr .resume ∧ held.line = .hold ∧ held.estop = false ∧ (held.seqr.get .i1).context.isSome = true) ∧
    (∀ st, (held.seqr.get st).awaited ≠ .abort) ∧ ∀ st, ((held.entries st).all fun e => decide (e.action = .skip)) = true := by
  refine ⟨by decide +kernel, ?_, ?_⟩ <;> (intro st; cases st <;> decide +kernel)

/-- A RESTRIKE entry whose T' H has just reached, and one whose record has left: neither stands (R145). -/
theorem witness_ResumeLoadsContextTrims_passed :
    let s (h : Pos) : State := { restriking with web := { restriking.web with w := h, h := h } }
    let stands (s : State) (e : ContextEntry) : Bool :=
      decide (e.action = .restrike) && decide (s.record e.seq ≠ none) && decide (reached s.web.h e.target = false)
    ((s 1423678).entries .i1).map (stands (s 1423678)) = [true] ∧ ((s 1423679).entries .i1).map (stands (s 1423679)) = [false] ∧
    (let t : State := { restriking with track := [] }
     (t.entries .i1).map (stands t) = [false]) := by decide +kernel

/-- R145: at an UNPHASED station an entry that stands is refused, one whose T' H has reached is passed. -/
theorem test_resume_passes_what_has_gone_by :
    let s (h : Pos) : State :=
      { restriking with web := { restriking.web with w := h, h := h },
                        calcs := restriking.calcs.upd .i1 fun c => { c with phased := false } }
    result ((after (exec (.resume lineHdr) (s 1423678))).ports.get .line) = some .context ∧
    ((after (exec (.resume lineHdr) (s 1423679))).ports.get .line).tx.getLast?.map (·.body) =
      some (.resumed .run false ((Four.all { ordered := [], passed := [] }).set .i1 { ordered := [], passed := [40] })) := by
  decide +kernel

/-- The same hold at station S0, whose calculator is UNPHASED, behind an entry of S1 that is SKIP and before one that stands. -/
theorem witness_ResumeLoadsContextTrims_invalid :
    let s : State := { restriking with seqr := ⟨restriking.seqr.get .i1, held.seqr.get .i1, restriking.seqr.get .i1, .reset⟩ }
    (Idx.all.flatMap fun st => (s.entries st).map fun e => (st, e.seq, e.action)) =
      [(.i0, 40, .restrike), (.i1, 40, .skip), (.i2, 40, .restrike)] ∧
      (s.entries .i0).map (fun e => decide (s.record e.seq ≠ none ∧ reached s.web.h e.target = false)) = [true] ∧
      (s.units.get .i0).tripped = false ∧ s.lineUnit.tripped = false ∧ (s.calcs.get .i0).phased = false := by decide +kernel

theorem witness_ResumeReordersARestrike :
    (restriking.takes lineHdr .resume ∧ restriking.line = .hold ∧ restriking.estop = false ∧ restriking.lineUnit.tripped = false ∧
      (restriking.calcs.get .i1).phased = true ∧ (restriking.seqr.get .i1).inFlight = [] ∧
      (restriking.seqr.get .i1).context.isSome = true ∧
      ((restriking.entries .i1).map fun e => (e.action, e.feed, decide (2 ^ 31 ≤ (restriking.web.h - e.target).toNat))) =
        [(.restrike, .all 0, true)] ∧
      ((restriking.entry .slot0 .i1).map (·.type)) = some .emboss ∧ (restriking.record 40).isSome = true) ∧
    (∀ v, (restriking.seqr.get v).awaited = .none ∧ (restriking.units.get v).tripped = false) ∧
    ∀ v, v ≠ .i1 → restriking.entries v = [] := by
  refine ⟨by decide +kernel, ?_, ?_⟩ <;> (intro v; cases v <;> decide +kernel)

/-- The line in HOLD with seq 40, and where `two` says so seq 41, to be restruck at S0: both lanes fed, C1 with `rem1` left on it. -/
def foilRestrikes (rem1 : Nat) (two : Bool) : State :=
  let s := atFoil .firstOff rem1
  let entry (q : SeqNo) (target : Pos) : ContextEntry :=
    { seq := q, slot := .slot0, decision := .strike, target := target, feed := ⟨24800, 24800, 0, 0⟩, outcome := .notMade,
      action := .restrike }
  let missed := seq40.updStation .i0 fun f => { f with status := .missed, decision := .strike }
  let context : HoldContext :=
    { trim := 0, last := none, phased := true,
      entries := if two then [entry 40 1205012, entry 41 1235012] else [entry 40 1205012] }
  { s with
    line := .hold, track := if two then [missed, { missed with seq := 41 }] else [missed],
    seqr := walk.seqr.set .i0 { Sequencer.reset with context := some context } }

def foilHardened (s : State) : State := { s with units := s.units.set .i0 { FaultUnit.reset with hard := true } }

theorem mirrored_foilRestrikes : TripsMirrored (foilRestrikes 60000 false) ∧ TripsMirrored (foilRestrikes 40000 true) ∧
    TripsMirrored (foilHardened (foilRestrikes 40000 true)) := by
  refine ⟨?_, ?_, ?_⟩ <;> (intro v; cases v <;> decide +kernel)

/-- An entry with feeds, two entries, and a lane that runs out at the second one: with HARD clear, and with HARD set. -/
theorem witness_ResumeReordersARestrike_feeds :
    let s := foilRestrikes 40000 true
    let lane (s : State) (c : Idx) : Lane := s.lane .i0 c
    let code (s : State) (c : Idx) : Option Descriptor := s.descriptor .slot0 .i0 c
    (∀ t ∈ [foilRestrikes 60000 false, s, foilHardened s],
      t.takes lineHdr .resume ∧ t.line = .hold ∧ t.estop = false ∧ t.lineUnit.tripped = false ∧
      (t.calcs.get .i0).phased = true ∧ (t.seqr.get .i0).inFlight = [] ∧
      (Idx.all.all fun v => decide ((t.seqr.get v).awaited = .none ∧ (t.units.get v).tripped = false ∧
        (v = .i0 ∨ t.entries v = []))) = true ∧
      ((t.entries .i0).all fun e => decide (e.action = .restrike ∧ (t.record e.seq).isSome = true ∧
        2 ^ 31 ≤ (t.web.h - e.target).toNat)) = true) ∧
    ((foilRestrikes 60000 false).entries .i0).map (·.seq) = [40] ∧ (s.entries .i0).map (·.seq) = [40, 41] ∧
    Idx.all.map (fun c => restrikeShort (lane s c) ((⟨24800, 24800, 0, 0⟩ : Four Nat).get c)) = [false, false, false, false] ∧
    Idx.all.map (fun c =>
      restrikeShort (restrikeLane (lane s c) (code s c) 40 ((⟨24800, 24800, 0, 0⟩ : Four Nat).get c))
        ((⟨24800, 24800, 0, 0⟩ : Four Nat).get c)) = [false, true, false, false] ∧
    startsFirstOff (code s .i0) 24800 = true ∧ (s.units.get .i0).hard = false ∧
    ((foilHardened s).units.get .i0).hard = true := by decide +kernel

/-- R100, R147: the first order takes the first-off of C0 and what C1 has left, the second finds C0 awaiting approval and C1 short. -/
theorem test_restrikes_are_rechecked :
    let t := after (exec (.resume lineHdr) (foilRestrikes 40000 true))
    let u := after (exec (.resume lineHdr) (foilHardened (foilRestrikes 40000 true)))
    (t.record 40).map (fun r => ((r.st.get .i0).decision, (r.st.get .i0).feed)) = some (.strike, some ⟨24800, 24800, 0, 0⟩) ∧
    (t.record 41).map (fun r => ((r.st.get .i0).decision, (r.st.get .i0).feed)) = some (.dry, some (.all 0)) ∧
    ((t.lane .i0 .i1).state, (t.units.get .i0).hard, (t.seqr.get .i0).queue) = (.out, true, some 41) ∧
    ((u.units.get .i0).tripped, (u.seqr.get .i0).abortSet, (u.record 41).map fun r => (r.st.get .i0).status) =
      (true, [40], some .missed) := by decide +kernel

theorem witness_StopEmptiesTheLine :
    (held.takes lineHdr .stop ∧ held.line = .hold) ∧ ∀ st, (held.seqr.get st).awaited ≠ .abort :=
  ⟨by decide +kernel, fun st => by cases st <;> decide +kernel⟩

theorem witness_Resets :
    (let s : State := { tripped with line := .stopped }
     s.takes lineHdr .lineReset ∧ s.line = .stopped) ∧
    held.takes lineHdr (.stationReset · 1) ∧ held.line ≠ .run ∧ idxOf 1 = some .i1 := by decide +kernel

theorem witness_Heat :
    (at200.zoneParams .i0 .i0 = some zoneOn ∧ at200.zoneParams .i0 .i2 = none) ∧
    ((at200.zone .i1 .i0).slotTimer = some 200 ∧ at200.settings.minHold = 200 ∧ at200.settings.arbMode = .preempt ∧
      at200.heat.order = Heat.defaultOrder) ∧
    ((holdsEqual.zone .i1 .i0).slotTimer = some 200 ∧ holdsEqual.settings.maxHold ≤ 200 ∧
      holdsEqual.settings.maxHold ≤ holdsEqual.settings.minHold ∧ holdsEqual.settings.minHold ≤ 200 ∧
      holdsEqual.settings.arbMode = .preempt ∧ holdsEqual.heat.order = Heat.defaultOrder) ∧
    (let s := preempting ⟨⟨{ asking 1812 with age := some 501 }, .reset, .reset, .reset⟩, .all .reset, .all .reset, .all .reset⟩
     s.heat.stale.get .i0 = false ∧ (s.zoneParams .i0 .i0).isSome = true ∧ (s.zone .i0 .i0).age = some 501 ∧
       (s.units.get .i0).soft = false) := by decide +kernel

/-- Two slots, held by (0,0) and (1,0), and behind them in rank (0,1) and (1,1), which ask: a reading of S0 ends the slot of (0,0). -/
def finishing (mode : ArbMode) : State :=
  let s := preempting ⟨⟨serving 1805 10, asking 1812, .reset, .reset⟩, ⟨serving 1805 20, asking 1812, .reset, .reset⟩, .all .reset,
    .all .reset⟩
  { s with settings := { s.settings with arbMode := mode } }

theorem witness_HeatReadingsJudgeTheZones_grants :
    (finishing .queued).heat.order.Perm Heat.defaultOrder ∧ 0 < (finishing .queued).settings.minHold ∧
    ((finishing .queued).zone .i0 .i0).inService = true ∧ ((finishing .queued).zoneParams .i0 .i0).map (·.setpoint) = some 1850 := by
  decide +kernel

/-- R104, R108, R110, R111: at its setpoint (0,0) ends and goes to rank 16, and the slot goes to (0,1), not to (1,1). -/
theorem test_a_finish_rotates_and_the_slot_goes_by_rank :
    let t := after (exec (.heatReading .i0 ⟨1850, 1812, 0, 0⟩) (finishing .queued))
    t.heat.order.getLast? = some (.i0, .i0) ∧ t.heat.order.head? = some (.i0, .i1) ∧
    ((t.zone .i0 .i0).slotTimer, (t.zone .i0 .i1).slotTimer, (t.zone .i1 .i0).slotTimer, (t.zone .i1 .i1).slotTimer) =
      (none, some 0, some 20, none) ∧
    t.heat.onSet.get .i0 = ⟨false, true, false, false⟩ ∧
    (t.links.get .i0).sending = some (.heatOrder ⟨false, true, false, false⟩) := by decide +kernel

theorem witness_ZoneRequestsAreObeyed :
    (idxOf 4 = none ∧ at200.takes lineHdr (.setZoneMask · 0 4 none)) ∧ idxOf 1 = some .i1 ∧ idxOf 0 = some .i0 ∧
    at200.takes lineHdr (.setZoneMask · 1 0 (some true)) ∧ (at200.zone .i1 .i0).mask = false ∧
    at200.takes lineHdr (.finishZone · 1 0 (some true)) ∧ (at200.zone .i1 .i0).inService = true ∧
    (at200.zone .i0 .i0).inService = false ∧ at200.takes lineHdr (.setLowest · 0 1) ∧
    at200.heat.order = [(.i0, .i0)] ++ (.i0, .i1) :: at200.heat.order.drop 2 := by decide +kernel

/-- A second record behind seq 40, queued at S1 while the ack of seq 40 is awaited. -/
def queued : State :=
  let s := inFlight .committed .strike (.order 40)
  { s with track := s.track ++ [{ seq40 with seq := 41 }],
           seqr := s.seqr.upd .i1 fun q => { q with queue := some 41 } }

theorem witness_AcksSettleTheAwaitedOrder :
    let s := inFlight .committed .strike (.order 40)
    (s.seqr.get .i1).awaited = .order 40 ∧
    s.record 40 = some (ordered40 .committed .strike |>.updStation .i0 fun _ => fieldAt 1180012 .done) ∧
    reached s.web.h (plus 1423679 (s.reportSpan .slot0 .i1)) = false ∧ (s.seqr.get .i1).queue = none ∧
    (s.units.get .i1).hard = false ∧ (queued.seqr.get .i1).queue = some 41 ∧ (queued.record 41).isSome = true ∧
    ((inFlight .acked .strike .none).seqr.get .i1).awaited ≠ .order 40 := by decide +kernel

/-- The ack comes when H has reached T' + REPORT_SPAN: with SOFT and HARD clear, and with both set, where the queued order stands. -/
theorem witness_AcksSettleTheAwaitedOrder_late :
    let s := at' 1427679 twoInFlight
    let u : State := { s with units := s.units.upd .i1 fun u => { u with soft := true, hard := true } }
    (s.seqr.get .i1).awaited = .order 40 ∧
    ((s.record 40).all fun r => reached s.web.h (plus ((r.st.get .i1).target.getD 0) (s.reportSpan r.slot .i1))) = true ∧
    ((at' 1427678 twoInFlight).record 40).map (fun r =>
      reached 1427678 (plus ((r.st.get .i1).target.getD 0) (s.reportSpan r.slot .i1))) = some false ∧
    (s.seqr.get .i1).holds 40 = true ∧ (40 : SeqNo) ∉ (s.seqr.get .i1).abortSet ∧ (s.units.get .i1).soft = false ∧
    (u.units.get .i1).soft = true ∧ (u.units.get .i1).hard = true ∧ (u.units.get .i1).tripped = false ∧
    (s.seqr.get .i1).queue = some 41 ∧ (s.record 41).isSome = true ∧
    (((s.seqr.get .i1).inFlight.filter fun e => decide (e.seq ≠ 40)).map (·.seq)) = [41] := by decide +kernel

/-- R68, R69, R76: the late ack makes its order UNCONFIRMED and overdue, and the queued order goes out. -/
theorem test_a_late_ack_is_overdue_at_once :
    let t := after (exec (.orderAck .i1 40 .accepted) (at' 1427679 twoInFlight))
    (t.record 40).map (fun r => (r.st.get .i1).status) = some .unconfirmed ∧
    ((t.seqr.get .i1).awaited, (t.seqr.get .i1).queue, (t.seqr.get .i1).overdue.map (·.seq)) = (.order 41, none, [40]) ∧
    (t.links.get .i1).sending.isSome = true ∧ (t.units.get .i1).soft = true := by decide +kernel

/-- A station whose HARD is set: the next hard fault trips it. Seq 38 stands in flight before seq 40, so an abort names it. -/
def hardened (s : State) : State :=
  { s with units := s.units.set .i1 { FaultUnit.reset with hard := true },
           seqr := s.seqr.upd .i1 fun q => { q with inFlight := { seq := 38, phasing := false } :: q.inFlight } }

theorem witness_hard_faults_that_trip :
    ((hardened (inFlight .committed .strike (.order 40))).units.get .i1).hard = true ∧
    ((hardened (inFlight .committed .strike (.order 40))).units.get .i1).tripped = false ∧
    ((hardened (inFlight .committed .strike (.order 40))).seqr.get .i1).queue = none ∧
    ((hardened (inFlight .committed .strike (.order 40))).seqr.get .i1).awaited = .order 40 ∧
    ((hardened (inFlight .acked .lift .none)).seqr.get .i1).awaited = .none ∧
    ((hardened (inFlight .acked .lift .none)).record 40).map (fun r => ((r.st.get .i1).decision, (r.st.get .i1).status)) =
      some (.lift, .acked) ∧
    ((hardened (aborting .lift)).seqr.get .i1).abortSet = [40] ∧ ((hardened (aborting .lift)).seqr.get .i1).awaited = .abort ∧
    ((hardened (aborting .lift)).links.get .i1).carrier = true := by decide +kernel

/-- R84, R155: a refusal, a LIFT that made contact, an abort timeout and link loss at such a station each trip it. -/
theorem test_hard_faults_that_trip :
    let trips (c : Instr) (s : State) : Bool × List SeqNo :=
      let t := after (exec c (hardened s))
      ((t.units.get .i1).tripped && t.stopReq.trip, (t.seqr.get .i1).abortSet)
    trips (.orderAck .i1 40 .refusedRange) (inFlight .committed .strike (.order 40)) = (true, [38]) ∧
    trips (.strikeReport .i1 (report40 0)) (inFlight .acked .lift .none) = (true, [38]) ∧
    trips (.abortTimeout .i1) (aborting .strike) = (true, [38]) ∧
    trips (.stationLinkLoss .i1) (inFlight .acked .strike .none) = (true, []) := by decide +kernel

theorem witness_StrikeReportsCompleteOrders :
    let s := inFlight .acked .strike .none
    ((s.record 40).map fun r => ((r.st.get .i1).status, (r.st.get .i1).decision, r.origin)) = some (.acked, .strike, .real) ∧
    (s.seqr.get .i1).holds 40 = true ∧ (s.seqr.get .i1).awaited ≠ .order 40 ∧ 40 ∉ (s.seqr.get .i1).abortSet ∧
    (s.entry .slot0 .i1).isSome = true ∧ (s.units.get .i1).hard = false ∧ (report40 23).breakMask = .all false ∧
    (walk.seqr.get .i1).inFlight = [] ∧ (walk.seqr.get .i1).overdue = [] := by decide +kernel

/-- A report before its ack with the queued order behind it; a break of one column and of two; an error beyond TOL; a report for the order
in the link queue. -/
theorem witness_StrikeReportsCompleteOrders_more :
    (twoInFlight.seqr.get .i1).awaited = .order 40 ∧ (twoInFlight.seqr.get .i1).holds 40 = true ∧
    (twoInFlight.seqr.get .i1).queue = some 41 ∧ (twoInFlight.record 41).isSome = true ∧
    ((twoInFlight.record 40).bind fun r => twoInFlight.entry r.slot .i1).map (·.tol) = some 25 ∧
    (Idx.all.all fun c => decide ((twoInFlight.lane .i1 c).state = .ready)) = true ∧
    (twoInFlight.units.get .i1).hard = false ∧ (twoInFlight.units.get .i1).tripped = false ∧
    (twoInFlight.seqr.get .i1).holds 41 = true ∧ (twoInFlight.seqr.get .i1).awaited ≠ .order 41 ∧
    (41 : SeqNo) ∉ (twoInFlight.seqr.get .i1).abortSet ∧
    (twoInFlight.record 41).map (fun r => (r.st.get .i1).status) = some .committed := by decide +kernel

/-- R55, R72, R96: one broken lane sets HARD and an error of 26 sets SOFT, with the queued order gone out; two broken lanes trip. -/
theorem test_reports_that_raise_faults :
    let answer (e : BitVec 16) (breaks : Four Bool) (q : SeqNo) : State :=
      after (exec (.strikeReport .i1 { report40 e with seq := q, breakMask := breaks }) twoInFlight)
    let one := answer 26 ⟨true, false, false, false⟩ 40
    let two := answer 25 ⟨true, true, false, false⟩ 40
    ((one.units.get .i1).soft, (one.units.get .i1).hard, (one.lane .i1 .i0).state, (one.seqr.get .i1).awaited) =
      (true, true, .broken, .order 41) ∧
    (one.units.get .i1).first.map (fun x => (x.kind, x.column)) = some (.foilBreak, some .i0) ∧
    ((two.units.get .i1).soft, (two.units.get .i1).tripped, (two.seqr.get .i1).abortSet) = (false, true, [41]) ∧
    answer 26 (.all true) 41 = twoInFlight := by decide +kernel

/-- S0 with the first-off order of seq 40, fed on both lanes, ACKED. -/
def firstOffFlight : State :=
  let s := after (exec (.commit .i0 40) (atFoil .firstOff 60000))
  after (exec (.orderAck .i0 40 .accepted) s)

theorem witness_StrikeReportsCompleteOrders_descriptors :
    (firstOffFlight.record 40).map (fun r => ((r.st.get .i0).status, (r.st.get .i0).feed)) =
      some (.acked, some ⟨24800, 24800, 0, 0⟩) ∧
    (firstOffFlight.descriptor .slot0 .i0 .i0).map (fun d => (d.stage, d.struck)) = some (.awaiting 40, false) ∧
    (firstOffFlight.seqr.get .i0).holds 40 = true ∧ (firstOffFlight.seqr.get .i0).awaited = .none := by decide +kernel

/-- R93: a fed lane that pulled foil is STRUCK and still awaits approval; one that pulled none is OPEN again and not STRUCK. -/
theorem test_reports_settle_the_first_off :
    let lanes (n : Four (BitVec 16)) : List (Option (FirstOffStage × Bool)) :=
      let t := after (exec (.strikeReport .i0 { report40 0 with advanced := n }) firstOffFlight)
      [Idx.i0, .i1].map fun c => (t.descriptor .slot0 .i0 c).map fun d => (d.stage, d.struck)
    lanes ⟨24800, 0, 0, 0⟩ = [some (.awaiting 40, true), some (.vacant, false)] ∧
    lanes ⟨0, 1, 0, 0⟩ = [some (.vacant, false), some (.vacant, true)] := by decide +kernel

def overdue : State := after (exec (.reportDeadline .i1 40) (at' 1427679 (inFlight .acked .strike .none)))

theorem witness_MissingReportsGoOverdue :
    let s := at' 1427679 (inFlight .acked .strike .none)
    ((s.deadlineTurn .i1).map (·.seq)) = some 40 ∧ s.record 40 = s.deadlineTurn .i1 ∧ (s.units.get .i1).soft = false ∧
    (overdue.seqr.get .i1).inFlight = [] ∧ ((overdue.seqr.get .i1).overdue.map (·.seq)) = [(report40 23).seq] := by decide +kernel

/-- S1 with seq 40 and seq 41 ACKED and named in an abort of the line in HOLD, both entries of the hold context PENDING. -/
def abortingTwo : State :=
  let s := twoInFlight
  after (exec (.hold lineHdr) { s with
    track := s.track.map fun r => r.updStation .i1 fun f => { f with status := .acked },
    seqr := s.seqr.upd .i1 fun q => { q with awaited := .none, queue := none, timer := none } })

/-- The same with seq 41 no more named but waiting in the link queue. -/
def abortingQueued : State :=
  { abortingTwo with seqr := abortingTwo.seqr.upd .i1 fun q => { q with abortSet := [40], queue := some 41 } }

theorem mirrored_aborting : TripsMirrored (aborting .lift) ∧ TripsMirrored abortingTwo ∧ TripsMirrored abortingQueued ∧
    TripsMirrored (hardened (aborting .lift)) := by
  refine ⟨?_, ?_, ?_, ?_⟩ <;> (intro v; cases v <;> decide +kernel)

theorem witness_AbortsAndLinkLossCloseOrders :
    ((aborting .strike).seqr.get .i1).abortSet = [40] ∧ ((aborting .strike).seqr.get .i1).awaited = .abort ∧
    ((aborting .strike).seqr.get .i1).holds 40 = true ∧ ((aborting .strike).record 40).isSome = true ∧
    ((aborting .strike).units.get .i1).hard = false ∧ (41 : SeqNo) ∉ ((aborting .strike).seqr.get .i1).abortSet ∧
    ((aborting .strike).links.get .i1).carrier = true ∧
    (abortingTwo.seqr.get .i1).abortSet = [40, 41] ∧ (abortingTwo.seqr.get .i1).awaited = .abort ∧
    (abortingQueued.seqr.get .i1).abortSet = [40] ∧ (abortingQueued.seqr.get .i1).queue = some 41 ∧
    ((abortingQueued.seqr.get .i1).holds 41 = true ∧ (abortingQueued.record 41).isSome = true) := by decide +kernel

/-- An order that a commit measured as PHASED waits in the link queue at the loss of the carrier, HARD clear and HARD set. -/
theorem witness_AbortsAndLinkLossCloseOrders_queued :
    let s := hardened twoInFlight
    (twoInFlight.links.get .i1).carrier = true ∧ (twoInFlight.units.get .i1).hard = false ∧
    ((s.units.get .i1).hard, (s.units.get .i1).tripped, (s.seqr.get .i1).tripped) = (true, false, false) ∧
    (s.seqr.get .i1).queuedInPhase = some 41 ∧ (s.seqr.get .i1).abortSet = [] ∧ (s.record 41).isSome = true := by decide +kernel

/-- R52, R79, R84: a link loss that trips leaves no order to abort, whether the queued one's frame goes out or not. -/
theorem test_a_link_loss_that_trips :
    ∀ sends : Bool, let t := ((hardened twoInFlight).loseStationLink .i1 sends).settleTrips
      ((t.units.get .i1).tripped, (t.seqr.get .i1).queue, (t.seqr.get .i1).abortSet) = (true, none, []) ∧
      ((t.seqr.get .i1).inFlight, (t.links.get .i1).waiting.length) = ([], if sends then 1 else 0) ∧
      ((t.record 41).map fun r => (r.st.get .i1).status) = some .faulted := by decide +kernel

/-- R52, R79: a queued restrike, which no commit measured, leaves no frame with the link. -/
theorem test_a_link_loss_and_a_restrike :
    let s : State := { twoInFlight with seqr := twoInFlight.seqr.upd .i1 fun q =>
      { q with inFlight := q.inFlight.map fun e => { e with restrike := true } } }
    ∀ sends : Bool, ((s.loseStationLink .i1 sends).links.get .i1).waiting = [] := by decide +kernel

/-- R81, R83, R140: the first of two seqs leaves the set, the last one completes the abort; the queued order goes out. -/
theorem test_aborts_settle_their_context :
    let one := after (exec (.abortReport .i1 40 .contactMade ⟨5, 0, 0, 0⟩) abortingTwo)
    let two := after (exec (.strikeReport .i1 { report40 0 with seq := 41, outcome := .noContact }) one)
    let late := after (exec (.abortTimeout .i1) abortingQueued)
    (one.seqr.get .i1).awaited = .abort ∧ (one.seqr.get .i1).abortSet = [41] ∧
      ((one.lanes.get .i1).get .i0).remaining = 5999995 ∧
      (two.entries .i1).map (fun e => (e.seq, e.outcome)) = [(40, .contactMade), (41, .notMade)] ∧
      (two.seqr.get .i1).awaited = .none ∧ (late.seqr.get .i1).awaited = .order 41 ∧
      (late.entries .i1).map (·.outcome) = [.unknown, .pending] := by decide +kernel

theorem mirrored_atCommit : TripsMirrored (atCommit 40 25) := fun v => by cases v <;> rfl

theorem witness_CommitsDecideAndOrder :
    let s := atCommit 40 25
    ((s.commitTurn .i1).map (·.seq)) = some 40 ∧ s.record 40 = s.commitTurn .i1 ∧ s.line = .run ∧
    (s.units.get .i1).tripped = false ∧ s.lineUnit.tripped = false ∧ (s.seqr.get .i1).inFlight = [] ∧
    (s.entry .slot0 .i1).isSome = true ∧ (s.calcs.get .i1).phased = true ∧ ((40 : SeqNo) - 39).toNat ≤ 8 ∧
    (s.calcs.get .i1).missed < 8 ∧
    (plus 1000012 (412500 + 11200 + rha (11200 * 329) (2 ^ 20) + (-37)) - plus 1393650 (1 * 30000)).toInt.natAbs ≤ 40 ∧
    (s.globals .slot0).strikeMinSpeed ≤ s.web.v ∧ s.hot .i1 = true := by decide +kernel

theorem witness_CommitsDecideAndOrder_else :
    (let s : State := { atCommit 40 25 with line := .hold }
     s.line ≠ .run ∧ ((s.commitTurn .i1).map (·.seq)) = some 40) ∧
    (let x : InFlight := { seq := 38, phasing := false }
     let s : State := { atCommit 40 25 with seqr := walk.seqr.set .i1 { Sequencer.reset with inFlight := [x, x] } }
     2 ≤ (s.seqr.get .i1).inFlight.length ∧ (s.units.get .i1).soft = false ∧ ((s.commitTurn .i1).map (·.seq)) = some 40) ∧
    (let s : State := { atCommit 40 25 with calcs := walk.calcs }
     (s.calcs.get .i1).phased = false ∧ ((s.commitTurn .i1).map (·.seq)) = some 40) := by decide +kernel

/-- A commit behind an awaited order is queued, one with nothing awaited goes out, with its feeds (R67, R68). -/
theorem test_commits_issue_their_order :
    let s : State := atCommit 40 25
    let t := after (exec (.commit .i1 40) { s with seqr := s.seqr.upd .i1 fun q => { q with awaited := .order 39 } })
    let u := after (exec (.commit .i0 40) (atFoil .firstOff 60000))
    (s.seqr.get .i1).awaited = .none ∧ ((t.seqr.get .i1).awaited, (t.seqr.get .i1).queue) = (.order 39, some 40) ∧
    (u.seqr.get .i0).awaited = .order 40 ∧
    (match (u.links.get .i0).sending with
      | some (.strikeOrder 40 .strike false _ feeds) => decide (feeds = ⟨24800, 24800, 0, 0⟩)
      | _ => false) = true := by decide +kernel

/-- R52, R79: with the loss first the commit is a phasing LIFT. With the commit first it strikes, queued behind an awaited order, and the
loss faults it and takes it from the queue, as R79 has it. Whether its frame still goes out, as R52 has it, or not, the station is UNPHASED
and the next commit sends a phasing order. -/
theorem test_a_link_loss_and_a_commit :
    let s : State := { atCommit 40 25 with seqr := walk.seqr.set .i1 { Sequencer.reset with awaited := .order 39 } }
    let t := after (exec (.commit .i1 40) (after (exec (.stationLinkLoss .i1) s)))
    let u := after (exec (.commit .i1 40) s)
    (t.record 40).map (fun r => (r.st.get .i1).decision) = some .lift ∧ (t.seqr.get .i1).phasing 40 = true ∧
    (u.record 40).map (fun r => (r.st.get .i1).decision) = some .strike ∧ (u.seqr.get .i1).queue = some 40 ∧
    ∀ sends : Bool, let v := (u.loseStationLink .i1 sends).settleTrips
      (v.record 40).map (fun r => (r.st.get .i1).status) = some .faulted ∧ (v.seqr.get .i1).inFlight = [] ∧
      (v.seqr.get .i1).queue = none ∧ (v.seqr.get .i1).awaited = .none ∧ (v.calcs.get .i1).phased = false ∧
      (v.links.get .i1).sending = none ∧ (v.links.get .i1).waiting.length = (if sends then 1 else 0) ∧
      (let w := after (exec (.commit .i1 41) { v with track := v.track ++ [{ seq40 with seq := 41 }] })
       (w.record 41).map (fun r => (r.st.get .i1).decision) = some .lift ∧ (w.seqr.get .i1).phasing 41 = true) := by decide +kernel

/-- S1 at the commit of seq 40 with its calculator, its station entry and its record changed. -/
def committing (change : Calc → Calc) (entry : StationEntry → StationEntry) (record : TrackRecord → TrackRecord) : State :=
  let s := atCommit 40 25
  { s with calcs := s.calcs.upd .i1 change, track := s.track.map record,
           slots := ⟨{ s.slots.s0 with job := s.slots.s0.job.map fun j =>
                         { j with stations := j.stations.set .i1 ((j.stations.get .i1).map entry) } },
                     .reset⟩ }

/-- T' of seq 40, its step from the target that seq 39 makes expected, and what decides of it. -/
def commitStep (s : State) : Option Int :=
  (s.calcs.get .i1).last.map fun l =>
    (plus 1000012 (412500 + 11200 + rha (11200 * 329) (2 ^ 20) + (s.calcs.get .i1).trim) - plus l.target 30000).toInt

/-- Each case at its bound: a gap of 9, 8 missed; a step of STEP_MAX; each LIFT of cases 6 to 10. -/
theorem witness_CommitsLiftAndClamp :
    (((40 : SeqNo) - 31).toNat = 9 ∧ ((40 : SeqNo) - 32).toNat = 8) ∧
    commitStep (committing id (fun e => { e with stepMax := 29 }) id) = some 29 ∧
    ((committing (fun c => { c with missed := 8 }) id id).calcs.get .i1).missed = 8 ∧
    ((committing id id fun r => { r with flagged := true, origin := .lost, locked := false }).record 40).map (·.flagged) = some true ∧
    ((committing id (fun e => { e with zones := zones2 }) id).hot .i1) = false ∧
    (let s := committing id (fun e => { e with liftOnReject := true })
       fun r => { r with verdict := ⟨some .reject, some .reject, none, none⟩ }
     (s.record 40).map (fun r => Idx.all.all fun k => decide (r.verdict.get k = none ∨ r.verdict.get k = some .reject)) = some true ∧
       (s.commitTurn .i1).map (·.seq) = some 40 ∧ s.record 40 = s.commitTurn .i1 ∧ s.line = .run ∧
       (s.calcs.get .i1).phased = true ∧ (s.seqr.get .i1).inFlight = [] ∧ (s.units.get .i1).soft = false) := by decide +kernel

def commitOf (s : State) : Option (Decision × Option Pos) × Bool × Option FaultKind :=
  let t := after (exec (.commit .i1 40) s)
  (commitRow s, (t.calcs.get .i1).phased, (t.units.get .i1).latest.map (·.kind))

/-- R48, R49: a step of 29 is no step beyond STEP_MAX 29, and is beyond 28; at 10 it leaves 19, within TOL 19 and beyond TOL 18. -/
theorem test_commit_clamps :
    let row (stepMax tol : Nat) := commitOf (committing id (fun e => { e with stepMax := stepMax, tol := tol }) id)
    row 29 18 = (some (.strike, some 1423679), true, none) ∧ row 28 18 = (some (.strike, some 1423678), true, some .clampInTol) ∧
    row 10 19 = (some (.strike, some 1423660), true, some .clampInTol) ∧
    row 10 18 = (some (.lift, some 1423660), true, some .registerClamp) := by decide +kernel

/-- R47, R63: each of the LIFTs of 3.5. The gap test makes a phasing LIFT, which leaves the station UNPHASED. -/
theorem test_commit_lifts :
    commitOf (committing (fun c => { c with missed := 8 }) id id) = (some (.lift, some 1423679), false, none) ∧
    commitOf (committing id id fun r => { r with flagged := true }) = (some (.lift, some 1423679), true, none) ∧
    commitOf (committing id id fun r => { r with origin := .coasted }) = (some (.lift, some 1423679), true, none) := by
  decide +kernel

theorem test_commit_lifts_cold_and_rejected :
    commitOf (committing id (fun e => { e with zones := zones2 }) id) = (some (.lift, some 1423679), true, some .coldCommit) ∧
    commitOf (committing id (fun e => { e with liftOnReject := true })
      fun r => { r with verdict := ⟨some .reject, some .reject, none, none⟩ }) = (some (.lift, some 1423679), true, none) := by
  decide +kernel

theorem mirrored_committing (change : Calc → Calc) (entry : StationEntry → StationEntry)
    (record : TrackRecord → TrackRecord) : TripsMirrored (committing change entry record) := fun v => by cases v <;> rfl

/-- Lane (0,1) at its feed of 24,800 and one short of it; S0 is phased, hot, and its target steps by no more than STEP_MAX. -/
theorem witness_FoilCommitsFeedTheirLanes :
    let s := atFoil .firstOff 24799
    TripsMirrored s ∧ (s.commitTurn .i0).map (·.seq) = some 40 ∧ s.record 40 = s.commitTurn .i0 ∧ s.line = .run ∧
    ((s.entry .slot0 .i0).map fun e => (e.type, e.lanes.isSome, e.liftOnReject, e.stepMax)) = some (.foil, true, false, 40) ∧
    (s.calcs.get .i0).phased = true ∧ ((40 : SeqNo) - 39).toNat ≤ 8 ∧ (s.globals .slot0).strikeMinSpeed ≤ s.web.v ∧
    s.hot .i0 = true ∧ (s.seqr.get .i0).inFlight = [] ∧
    (plus 1000012 (200000 + 5000 + rha (5000 * 329) (2 ^ 20) + 0) - plus 1175014 30000).toInt.natAbs ≤ 40 ∧
    ((s.lanes.get .i0).get .i1).remaining < 0 + (24000 + 800) ∧
    ¬ (((atFoil .firstOff 24800).lanes.get .i0).get .i1).remaining < 0 + (24000 + 800) ∧ (s.units.get .i0).hard = false := by
  refine ⟨fun v => by cases v <;> rfl, ?_⟩
  decide +kernel

/-- R66, R90: with a lane one short of its feed and the other OUT nothing is fed, and the order is DRY. -/
theorem test_commit_without_a_feed_is_dry :
    let s := atFoil .on 24799
    let t := after (exec (.commit .i0 40) { s with lanes := s.lanes.upd .i0 fun row => row.upd .i0 fun l => { l with state := .out } })
    ((t.record 40).map fun r => ((r.st.get .i0).decision, (r.st.get .i0).feed)) = some (.dry, some (.all 0)) ∧
      ((t.lanes.get .i0).get .i1).state = .out ∧ (t.units.get .i0).hard = true := by decide +kernel

theorem witness_EdgesAndWindowsMakeRecords :
    let s := at' 1000012 (locked 300 970000 1000000 .real)
    (s.active = some .slot0 ∧ s.track.length < 48 ∧ s.reader.state = .locked ∧ (walk.reader.state = .idle)) ∧
    (plus (1000012 - 1000000) 1000).toNat ≤ 2 * 1000 ∧ 2 * 1000 < (plus (1001001 - 1000000) 1000).toNat ∧
    (plus (1001000 - 1000000) 1000).toNat = 2 * 1000 ∧
    reached s.web.h (plus 1000012 ((200000 : Int) - 20000)) = false ∧ reached s.web.h (plus 1000012 ((412500 : Int) - 30000)) = false ∧
    reached s.web.h (plus 1000012 428201) = false ∧ reached s.web.h (plus 1030021 1001) = false := by decide +kernel

theorem witness_EdgesAndWindowsMakeRecords_else :
    (let s := at' 1031022 (locked 329 1000012 1030021 .real)
     s.reader.event = some (.windowClose 1031022) ∧ reached s.web.h 1031022 = true ∧ 1 ≤ (s.globals .slot0).coastMax ∧
       reached s.web.h (plus 1060030 1001) = false) ∧
    (let r : Reader := { state := .search, last := some { mark := 1000012, origin := .lost, pred := 1030021 }, lock := 0, coast := 0,
                         e := 0, event := some (.synthesis 1030021) }
     let s : State := { at' 1030021 walk with reader := r }
     s.reader.state = .search ∧ s.reader.event = some (.synthesis 1030021) ∧ reached s.web.h 1030021 = true ∧
       reached s.web.h (plus 1060021 0) = false) := by decide +kernel

/-- A reader of the walk-through's line in another state, its last mark at 1,000,012 and pred at 1,030,021. -/
def reading (state : ReaderState) (h : Pos) (o : Origin) (lock coast : Nat) : State :=
  { at' h walk with nextSeq := 41, reader :=
      { state := state, last := some { mark := 1000012, origin := o, pred := 1030021 }, lock := lock, coast := coast, e := 0,
        event := some (if state = .search then .synthesis 1030021 else .windowClose 1031022) } }

/-- The walk-through's line with its job's COAST_MAX. -/
def coasting (n : Nat) (s : State) : State :=
  { s with slots := ⟨{ walkSlot with job := some { walkJob with globals := { walkGlobals with coastMax := n } } }, .reset⟩ }

/-- A LOST tail at 1,000,012 PENDING at both stations, and the 48 records of a full track. -/
def lostTail : State := { reading .search 1015012 .lost 0 0 with track := [{ seq40 with origin := .lost }], nextSeq := 41 }
def fullTrack : State :=
  { reading .coast 1030021 .coasted 3 1 with
    track := (List.range 48).map fun n => { seq40 with seq := BitVec.ofNat 16 n }, nextSeq := 48 }

theorem witness_EdgesAcquireCoastAndRestart :
    (∀ st x, walk.entry .slot0 st = some x → reached (1031022 : Pos) (plus 1015012 ((x.d : Int) - x.lead)) = false) ∧
    (reached (1031022 : Pos) (plus 1015012 428201) = false ∧ reached (1031022 : Pos) (plus (plus 1015012 30000) 1001) = false) ∧
    (let s := reading .acquire 1030021 .real 1 0
     s.reader.lock + 1 < (s.globals .slot0).lockN ∧ (s.globals .slot0).lockN ≤ (reading .acquire 1030021 .real 2 0).reader.lock + 1 ∧
     (plus (1031021 - 1030021) 1000).toNat = 2 * 1000 ∧ reached (at' 1031022 s).web.h 1031022 = true) ∧
    ((reading .coast 1031022 .coasted 3 1).reader.coast + 1 = (walk.globals .slot0).coastMax ∧
      (walk.globals .slot0).coastMax < (reading .coast 1031022 .coasted 3 2).reader.coast + 1 ∧
      ((coasting 0 (reading .locked 1031022 .real 3 0)).globals .slot0).coastMax = 0 ∧ walk.lineUnit.soft = false) ∧
    (lostTail.track.map (·.origin) = [.lost] ∧ 2 * (1015012 - 1000012 : Pos).toInt.natAbs = 30000 ∧
      30000 < 2 * (1015013 - 1000012 : Pos).toInt.natAbs) ∧
    (fullTrack.track.length = 48 ∧ (∀ r ∈ fullTrack.track, r.seq ≠ fullTrack.nextSeq) ∧ fullTrack.lineUnit.tripped = false) := by
  refine ⟨?_, by decide +kernel⟩
  intro st x; cases st <;> simp [walk, walkSlot, walkJob, State.entry, Two.get, Four.get, foilStation, embossStation] <;>
    rintro rfl <;> decide +kernel

/-- R14 to R19, R27, R28: the states that follow, and the records that join. -/
theorem test_reader_states :
    let edge (c : Pos) (s : State) : State := after (exec (.markEdge c false) (at' c s))
    let kind (t : State) : List (Origin × Bool) := t.track.map fun r => (r.origin, r.locked)
    ((edge 1030021 (reading .acquire 0 .real 1 0)).reader.state = .acquire ∧
      (edge 1030021 (reading .acquire 0 .real 2 0)).reader.state = .locked ∧
      kind (edge 1030021 (reading .acquire 0 .real 2 0)) = [(.real, true)]) ∧
    ((edge 1030021 (reading .coast 0 .coasted 3 1)).reader.state = .locked) ∧
    ((after (exec .windowClose (reading .coast 1031022 .coasted 3 2))).reader.state = .search ∧
      (after (exec .windowClose (reading .coast 1031022 .coasted 3 2))).lineUnit.soft = true ∧
      (after (exec .windowClose (coasting 0 (reading .locked 1031022 .real 3 0)))).reader.state = .search) ∧
    (kind (edge 1015012 lostTail) = [(.real, true)] ∧ (edge 1015012 lostTail).track.map (·.mark) = [1015012] ∧
      (edge 1015013 lostTail).track.length = 2) ∧
    ((edge 1030021 fullTrack).track.length = 48 ∧ (edge 1030021 fullTrack).stopReq.trackFull = true) := by decide +kernel

/-- The head at its Z with its order at S1 in one of its stages, and two older ones overdue there. -/
def leavingOrdered (status : Status) (change : Sequencer → Sequencer) : State :=
  { leaving with
    track := [ordered40 status .strike],
    seqr := leaving.seqr.set .i1 (change { Sequencer.reset with
      inFlight := [{ seq := 40, phasing := false }],
      overdue := [{ seq := 30, slot := .slot0, decision := .strike, target := 0, feed := .all 0 },
                  { seq := 31, slot := .slot0, decision := .strike, target := 0, feed := .all 0 }] }) }

theorem witness_RecordsAndZonesLeaveBehind :
    ((leaving.track.map fun r => (r.seq, decide ((r.st.get .i1).status ≠ .committed ∧ (r.st.get .i1).status ≠ .acked))) = [(40, true)] ∧
      reached leaving.web.h 1428213 = true ∧ (leaving.outcomes.cursors.get .line).isSome = false ∧
      (leaving.outcomes.cursors.get .roll).isSome = true) ∧
    (let head (s : State) := s.track.map fun r => (r.seq, (r.st.get .i1).status, reached s.web.h r.z)
     head (leavingOrdered .acked id) = [(40, .acked, true)] ∧
     head (leavingOrdered .committed fun q => { q with awaited := .order 40 }) = [(40, .committed, true)] ∧
     head (leavingOrdered .committed fun q => { q with awaited := .order 39, queue := some 40 }) = [(40, .committed, true)] ∧
     head (leavingOrdered .acked fun q => { q with awaited := .abort, abortSet := [40] }) = [(40, .acked, true)]) ∧
    (let s := at' 1062000 oneSplice
     s.splices.map (·.stop) = [1062000] ∧ reached s.web.h 1062000 = true) := by decide +kernel

/-- R31, R76: the order of a leaving head joins the overdue list, of which the oldest is dropped; nothing is awaited of it. -/
theorem test_head_leaves_with_its_order :
    let left (s : State) : Nat × List SeqNo × Awaited :=
      let q := (after (exec .retire s)).seqr.get .i1
      (q.inFlight.length + q.queue.toList.length + q.abortSet.length, q.overdue.map (·.seq), q.awaited)
    left (leavingOrdered .acked id) = (0, [31, 40], .none) ∧
    left (leavingOrdered .committed fun q => { q with awaited := .order 40 }) = (0, [31, 40], .none) ∧
    left (leavingOrdered .committed fun q => { q with awaited := .order 39, queue := some 40 }) = (0, [31, 40], .order 39) ∧
    left (leavingOrdered .acked fun q => { q with awaited := .abort, abortSet := [40] }) = (0, [31, 40], .none) := by
  decide +kernel

/-- The three postings of R126: a fed column that turns REJECT, a column held by UNKNOWN that turns GOOD, and a STRIKE that would have
been lifted. -/
def postedHeld : State :=
  { posted with
    slots := ⟨{ walkSlot with job := some { walkJob with globals := { walkGlobals with unknownFeed := false } } }, .reset⟩,
    track := posted.track.map fun r => { r with
      verdict := ⟨some .unknown, some .reject, none, none⟩,
      st := r.st.upd .i0 fun f => { f with decision := .dry, feed := some (.all 0) } } }
def postedLifted : State :=
  { posted with
    slots := ⟨{ walkSlot with job := some { walkJob with
                  stations := ⟨some foilStation, some { embossStation with liftOnReject := true }, none, none⟩ } }, .reset⟩,
    track := posted.track.map fun r => { r with st := (r.st.upd .i0 fun f => { f with status := .pending, feed := none }).upd .i1 fun f =>
      { f with status := .acked, decision := .strike, target := some 1423679, feed := some (.all 0) } } }

theorem witness_PostedVerdictsKeepReject :
    let cols : Four Bool := ⟨true, true, false, false⟩
    posted.takes rollHdr (.postVerdict · 40 cols (some .good)) ∧ posted.takes lineHdr (.postVerdict · 40 cols (some .reject)) ∧
    posted.takes inspHdr (.postVerdict · 40 cols (some .good)) ∧ posted.record 41 = none ∧ (posted.record 40).isSome = true ∧
    posted.track.map (·.seq) = [40] ∧ postedHeld.takes inspHdr (.postVerdict · 40 cols (some .good)) ∧
    postedLifted.takes lineHdr (.postVerdict · 40 cols (some .reject)) := by decide +kernel

/-- R126: the second and third conditions, and a posting that changes nothing. -/
theorem test_late_verdicts :
    let late (p : ReqHdr) (v : PostedVerdict) (c : Four Bool) (st : Idx) (s : State) : Option (FaultKind × Option Idx) :=
      ((after (exec (.postVerdict p 40 c (some v)) s)).units.get st).latest.map fun l => (l.kind, l.column)
    late inspHdr .good ⟨true, false, false, false⟩ .i0 postedHeld = some (.lateVerdict, some .i0) ∧
    late inspHdr .good ⟨true, false, false, false⟩ .i0 posted = none ∧
    late lineHdr .reject ⟨true, false, false, false⟩ .i1 postedLifted = some (.lateVerdict, some .i0) := by decide +kernel

theorem witness_FoilIsApprovedAndReloaded :
    let s := atFoil .firstOff 60000
    s.takes inspHdr (.approveFirstOff · 0 0) ∧ s.takes rollHdr (.approveFirstOff · 0 0) ∧ s.active = some .slot0 ∧
    (s.descriptor .slot0 .i0 .i0).isSome = true ∧ s.takes rollHdr (.reportFoilRoll · 0 1 8000000) ∧
    s.takes lineHdr (.reportFoilRoll · 0 1 8000000) ∧ s.line = .run ∧ ((s.lanes.get .i0).get .i1).reserved = 0 ∧
    (let t := after (exec (.commit .i0 40) s)
     0 < ((t.lanes.get .i0).get .i1).reserved) := by decide +kernel

/-- A full Splice List of zones of 1,000 counts, 201 counts apart, ahead of H; a report of a zone without width bridges two of them. -/
def fullSplices : State :=
  { oneSplice with
    settings := { walk.settings with spliceDist := 0 },
    slots := ⟨{ walkSlot with job := some { walkJob with globals := { walkGlobals with splBefore := 0, splAfter := 0 } } }, .reset⟩,
    splices := [{ start := 1030000, stop := 1031000, reports := 1 }, { start := 1031200, stop := 1032200, reports := 254 },
                { start := 1032401, stop := 1033401, reports := 1 }, { start := 1033602, stop := 1034602, reports := 1 }] }

/-- Seq 40 was struck at S1 before the report of a splice at its mark, whose zone H has left behind; `unit` is S1's fault unit. -/
def splicedLate (unit : FaultUnit) : State :=
  { fullSplices with web := (at' 1383000 walk).web, splices := [], track := [ordered40 .acked .strike],
                     units := walk.units.set .i1 unit }

theorem witness_SplicesFlagTheirZone :
    (let s := at' 1020000 { oneSplice with splices := [] }
     s.takes lineHdr (.reportSplice · 880000) ∧ s.takes rollHdr (.reportSplice · 880000) ∧ s.active = some .slot0 ∧
     State.reset.active = none ∧ (plus 880000 (150000 + 32000) - s.web.h).toInt.natAbs ≤ 8388608 ∧
     8388608 < (plus 9880000 (150000 + 32000) - s.web.h).toInt.natAbs ∧ s.splices = [] ∧
     reached s.web.h (plus 880000 (150000 + 32000)) = false ∧ s.track = []) ∧
    (fullSplices.splices.length = 4 ∧ fullSplices.takes rollHdr (.reportSplice · 1031100) ∧ fullSplices.active = some .slot0) ∧
    ((splicedLate .reset).takes rollHdr (.reportSplice · 1000012) ∧ reached (splicedLate .reset).web.h 1000012 = true ∧
      (splicedLate .reset).track.map (fun r => (r.flagged, (r.st.get .i1).status)) = [(false, .acked)]) := by decide +kernel

theorem mirrored_splices : TripsMirrored fullSplices ∧ TripsMirrored (splicedLate { FaultUnit.reset with soft := true, hard := true }) := by
  refine ⟨?_, ?_⟩ <;> (intro v; cases v <;> decide +kernel)

/-- R130: at 100 counts from both neighbours a zone bridges them and the reports hold at 255; at 101 from each it meets none, and the list
is full. -/
theorem test_splice_bridges_at_100_counts :
    (after (exec (.reportSplice rollHdr 1031100) fullSplices)).splices.map (fun x => (x.start, x.stop, x.reports)) =
      [(1030000, 1032200, 255), (1032401, 1033401, 1), (1033602, 1034602, 1)] ∧
    result ((after (exec (.reportSplice rollHdr 1034703) fullSplices)).ports.get .roll) = some .full := by decide +kernel

/-- R129, R131, R155: a zone that H has passed flags its record and leaves; SPLICE_LATE sets SOFT, and trips where SOFT and HARD stand. -/
theorem test_late_splice :
    let t (u : FaultUnit) := after (exec (.reportSplice rollHdr 1000012) (splicedLate u))
    (t .reset).splices = [] ∧ (t .reset).track.map (·.flagged) = [true] ∧
    ((t .reset).units.get .i1).latest.map (fun l => (l.kind, l.seq, l.target)) = some (.spliceLate, some 40, some 1423679) ∧
    ((t .reset).units.get .i1).soft = true ∧ ((t { FaultUnit.reset with soft := true, hard := true }).units.get .i1).tripped = true := by
  decide +kernel

/-- The witnesses whose statements ask for it have each station state the mirror of its unit. -/
theorem mirrored_witnesses :
    TripsMirrored { walk with line := .stopped } ∧ TripsMirrored restriking ∧
    TripsMirrored (at' 1427679 (inFlight .acked .strike .none)) ∧ TripsMirrored overdue ∧ TripsMirrored queued ∧
    TripsMirrored { atCommit 40 25 with line := .hold } ∧ TripsMirrored { atCommit 40 25 with calcs := walk.calcs } ∧
    TripsMirrored (at' 1000012 (locked 300 970000 1000000 .real)) ∧
    TripsMirrored (at' 1031022 (locked 329 1000012 1030021 .real)) ∧
    TripsMirrored (at' 1020000 { oneSplice with splices := [] }) ∧ TripsMirrored at200 ∧
    TripsMirrored (at' 1427679 twoInFlight) ∧ TripsMirrored firstOffFlight := by
  refine ⟨?_, ?_, ?_, ?_, ?_, ?_, ?_, ?_, ?_, ?_, ?_, ?_, ?_⟩ <;> (intro v; cases v <;> decide +kernel)

theorem witness_FirstFaultRecordsStay :
    let s := after (exec (.ackTimeout .i1) (inFlight .committed .strike (.order 40)))
    (s.unit (.station .i1)).first.isSome = true ∧ unitOf 2 ≠ some (.station .i1) := by decide +kernel

theorem witness_a_command_that_answers (s : State) : exec .estopCleared s = .next { s with estop := false } := rfl

theorem witness_RejectVerdictsStay :
    (posted.record 40).map (·.verdict.a1) = some (some .reject) ∧ TrackOrdered { posted with nextSeq := 41 } :=
  ⟨by decide +kernel, by decide +kernel, by decide +kernel⟩

/-- A state with a record and an order that meets the invariants of the track and of the units. -/
theorem witness_invariants :
    (TrackOrdered (inFlight .acked .strike .none) ∧ SlotsReferenced (inFlight .acked .strike .none)) ∧
    TripsMirrored (inFlight .acked .strike .none) ∧ StopHasCause (inFlight .acked .strike .none) := by
  refine ⟨⟨⟨by decide +kernel, by decide +kernel⟩, ?_, ?_, by decide +kernel⟩, mirrored_inFlight.1, rfl⟩
  · intro j; cases j <;> decide +kernel
  · intro j h; cases j
    · exact .inl rfl
    · exact absurd h (by decide +kernel)

/-- The order in flight meets the invariants of the orders, before its ack, after it and in an abort. -/
theorem witness_orders_in_flight :
    (OrdersInFlight (inFlight .committed .strike (.order 40)) ∧ OrdersAwaited (inFlight .committed .strike (.order 40))) ∧
    SplicesBounded oneSplice ∧ ((inFlight .acked .strike .none).seqr.get .i1).inFlight.length = 1 := by
  refine ⟨⟨?_, ?_⟩, by unfold SplicesBounded; decide +kernel, by decide +kernel⟩
  · intro st; cases st <;> refine ⟨by decide +kernel, by decide +kernel, by decide +kernel, by decide +kernel, ?_⟩ <;>
      (intro c; cases c <;> decide +kernel)
  · intro st; cases st
    case i1 =>
      refine ⟨?_, by intro q h; exact absurd h (by simp [inFlight, Four.get, Four.set, Sequencer.reset]), ?_, ?_, ?_, ?_⟩
      · intro q h
        obtain rfl : q = 40 := by
          have h : Awaited.order 40 = .order q := h
          injection h with h; exact h.symm
        exact ⟨by decide +kernel, _, rfl, rfl⟩
      · intro h; exact absurd h (by decide +kernel)
      · intro _; exact ⟨by decide +kernel, fun h => absurd rfl h⟩
      · intro c h; exact absurd h nofun
      · intro b h; exact absurd h nofun
    all_goals
      refine ⟨fun q h => ?_, fun q h => ?_, fun h => ?_, fun _ => ⟨rfl, fun _ => rfl⟩, fun c h => ?_, fun b h => ?_⟩ <;> cases h

end Sys2Proof.Tests

end
end

section
/-! SUPPORT. What the commands keep of the web, the E-stop level and the bounds of the manual: one relation between the states before and
after a command, first for the changes of single parts, then for the shared operations, the requests and the events, from which the
whole-machine statements about the web position family are read off. -/

namespace Sys2Proof.Machine

/-! ### The bounds and what is kept -/

/-- The bounds of the manual together (R21, R36, R37, R54, R60, R110, R128). -/
structure Bounded (s : State) : Prop where
  stretch : StretchBounded s
  outcomes : OutcomesBounded s
  power : PowerLimited s
  overdue : OverdueBounded s
  trims : TrimsBounded s
  splices : SplicesBounded s

/-- W, H, V, the start of the running interval and the E-stop level: what only the encoder, the interval's end, the E-stop input and
power-on change. -/
def State.course (s : State) : Pos × Pos × Nat × Pos × Bool := (s.web.w, s.web.h, s.web.v, s.web.intervalStart, s.estop)

/-- A change that leaves the course of the web as it is and keeps the bounds. -/
structure Orderly (s t : State) : Prop where
  course : t.course = s.course
  bounds : Bounded s → Bounded t

theorem Orderly.refl (s : State) : Orderly s s := ⟨rfl, id⟩

theorem Orderly.trans {s t u : State} (a : Orderly s t) (b : Orderly t u) : Orderly s u :=
  ⟨b.course.trans a.course, fun h => b.bounds (a.bounds h)⟩

theorem Orderly.foldl {α : Type} (g : State → α → State) (h : ∀ s x, Orderly s (g s x)) (l : List α) (s : State) :
    Orderly s (l.foldl g s) := by
  induction l generalizing s with
  | nil => exact .refl s
  | cons x xs ih => exact (h s x).trans (ih _)

/-! ### Trims and job slots (R54, R181) -/

/-- Every TRIM_LIM of a slot that can be or become ACTIVE lies within 0..2,000 (R181). -/
def JobSlot.trimsWithin (sl : JobSlot) : Prop :=
  sl.state ≠ .loading → sl.state ≠ .invalid → ∀ f st n, sl.trimLims = some f → f.get st = some n → n ≤ Config.trimTop

theorem State.trimLims_get (s : State) (j : Slot) (st : Idx) (n : Nat) :
    (∃ f, (s.slots.get j).trimLims = some f ∧ f.get st = some n) ↔ ∃ e, s.entry j st = some e ∧ e.trimLim = n := by
  unfold JobSlot.trimLims State.entry
  cases (s.slots.get j).job <;> simp

theorem trimsBounded_iff (s : State) : TrimsBounded s ↔
    (∀ st, (s.calcs.get st).trim.natAbs ≤ s.trimLimit st) ∧ ∀ j, (s.slots.get j).trimsWithin := by
  refine and_congr_right fun _ => ⟨fun h j h1 h2 f st n hf hn => ?_, fun h j st e h1 h2 he => ?_⟩
  · obtain ⟨e, he, rfl⟩ := (s.trimLims_get j st n).1 ⟨f, hf, hn⟩
    exact h j st e h1 h2 he
  · obtain ⟨f, hf, hn⟩ := (s.trimLims_get j st e.trimLim).2 ⟨e, he, rfl⟩
    exact h j h1 h2 f st _ hf hn

theorem JobSlot.trimsWithin_of_key {a b : JobSlot} (h : slotKey b = slotKey a) (ha : a.trimsWithin) : b.trimsWithin := by
  have hs : b.state = a.state := congrArg (·.1) h
  have hl : b.trimLims = a.trimLims := congrArg (·.2.2.2) h
  unfold JobSlot.trimsWithin
  rw [hs, hl]
  exact ha

theorem State.active_eq_some {s : State} {j : Slot} (h : s.active = some j) : (s.slots.get j).state = .active := by
  unfold State.active at h
  split at h
  · cases h; assumption
  · split at h
    · cases h; assumption
    · cases h

/-- The trim bound of a station is read off the records of the slots that are ACTIVE. -/
theorem State.trimLimit_of_jobs {s t : State} (ha : ∀ j, (t.slots.get j).state = .active ↔ (s.slots.get j).state = .active)
    (hj : ∀ j, (s.slots.get j).state = .active → (t.slots.get j).job = (s.slots.get j).job) (st : Idx) :
    t.trimLimit st = s.trimLimit st := by
  have hact : t.active = s.active := by
    unfold State.active
    exact if_congr (ha .slot0) rfl (if_congr (ha .slot1) rfl rfl)
  unfold State.trimLimit State.activeEntry
  rw [hact]
  cases h : s.active with
  | none => rfl
  | some j => simp only [State.entry, hj j (State.active_eq_some h)]

/-- One job slot changed: the trims stay in their bounds where the slot stays ACTIVE or not, an ACTIVE slot keeps its record, and a
slot that can become ACTIVE holds its TRIM_LIMs in their range. -/
theorem TrimsBounded.of_slot {s t : State} {j : Slot} {f : JobSlot → JobSlot} (ht : t.slots = s.slots.upd j f)
    (hc : t.calcs = s.calcs) (ha : (f (s.slots.get j)).state = .active ↔ (s.slots.get j).state = .active)
    (hj : (s.slots.get j).state = .active → (f (s.slots.get j)).job = (s.slots.get j).job)
    (hb : (s.slots.get j).trimsWithin → (f (s.slots.get j)).trimsWithin) (h : TrimsBounded s) : TrimsBounded t := by
  obtain ⟨h1, h2⟩ := (trimsBounded_iff s).1 h
  refine (trimsBounded_iff t).2 ⟨fun st => ?_, fun i => ?_⟩
  · rw [hc, State.trimLimit_of_jobs (s := s)]
    · exact h1 st
    all_goals
      intro i
      rw [ht, Two.get_upd]
      split
      · subst i; assumption
      · simp
  · rw [ht, Two.get_upd]
    split
    · subst i; exact hb (h2 j)
    · exact h2 i

/-! ### Changes of one part -/

/-- What the bounds and the course are read off. -/
def State.measured (s : State) : Web × Reader × OutcomeList × Four Calc × Four Sequencer × Heat × List SpliceEntry × Two JobSlot ×
    LineSettings × Bool :=
  (s.web, s.reader, s.outcomes, s.calcs, s.seqr, s.heat, s.splices, s.slots, s.settings, s.estop)

/-- A change that leaves what is measured but the slots, E and the outcomes, which keep their bounds. -/
theorem Orderly.of_parts {s t : State} (hc : t.course = s.course) (he : StretchBounded s → StretchBounded t)
    (ho : OutcomesBounded s → OutcomesBounded t) (hh : t.heat = s.heat) (hset : t.settings = s.settings)
    (hq : t.seqr = s.seqr) (hs : t.splices = s.splices) (ht : TrimsBounded s → TrimsBounded t) : Orderly s t where
  course := hc
  bounds h :=
    { stretch := he h.stretch
      outcomes := ho h.outcomes
      power := PowerLimited.mono hset (fun p => hh ▸ p)
        (fun a b hz => by have : t.zone a b = s.zone a b := by simp only [State.zone, hh]
                          rw [this] at hz ⊢; exact ⟨hz, id⟩) h.power
      overdue := fun st => by rw [hq]; exact h.overdue st
      trims := ht h.trims
      splices := by unfold SplicesBounded; rw [hs]; exact h.splices }

/-- A change outside of what is measured. -/
theorem Orderly.of_same {s t : State} (h : t.measured = s.measured) : Orderly s t := by
  simp only [State.measured, Prod.mk.injEq] at h
  obtain ⟨hw, hr, ho, hc, hq, hh, hs, hj, hset, he⟩ := h
  refine .of_parts (by simp only [State.course, hw, he]) ?_ ?_ hh hset hq hs fun ht => ?_
  · unfold StretchBounded; rw [hr]; exact id
  · unfold OutcomesBounded; rw [ho]; exact id
  · rw [trimsBounded_iff] at ht ⊢
    rw [hc, hj]
    exact ⟨fun st => by rw [State.trimLimit_of_jobs (s := s) (by simp [hj]) (by simp [hj])]; exact ht.1 st, ht.2⟩

/-- The parts of the measured that the effects within a command are not known to keep. -/
def State.gauges (s : State) : (Pos × Pos × Nat × Pos × Bool) × Int × List SpliceEntry := (s.course, s.reader.e, s.splices)

theorem Calm.orderly {s t : State} (c : Calm s t) (hk : ∀ j, slotKey (t.slots.get j) = slotKey (s.slots.get j))
    (hg : t.gauges = s.gauges) : Orderly s t := by
  simp only [State.gauges, Prod.mk.injEq] at hg
  obtain ⟨hc, he, hs⟩ := hg
  refine ⟨hc, fun h => ⟨?_, c.outcomes h.outcomes, c.heat h.power, c.overdue h.overdue, ?_, ?_⟩⟩
  · unfold StretchBounded; rw [he]; exact h.stretch
  · obtain ⟨h1, h2⟩ := (trimsBounded_iff s).1 h.trims
    exact (trimsBounded_iff t).2 ⟨c.trims h1, fun j => JobSlot.trimsWithin_of_key (hk j) (h2 j)⟩
  · unfold SplicesBounded; rw [hs]; exact h.splices

theorem Within.orderly {s t : State} (w : Within s t) (hg : t.gauges = s.gauges) : Orderly s t := w.toCalm.orderly w.slots hg

theorem State.settleTrips_orderly (s : State) : Orderly s s.settleTrips :=
  s.settleTrips_settled.toCalm.orderly s.settleTrips_settled.slots (by simp [State.gauges, State.course])

/-- A command that ends in a state ends in no other. -/
theorem Orderly.next {s t u : State} (h : Orderly s t) (e : (.next t : Outcome State) = .next u) : Orderly s u := by
  cases e; exact h

/-- The trips that a command hands over at its end keep what it keeps. -/
theorem Orderly.done {s t u : State} (h : Orderly s t) (e : t.done = .next u) : Orderly s u :=
  (h.trans t.settleTrips_orderly).next e

@[simp] theorem State.reversalTest_web (s : State) :
    s.reversalTest.web.w = s.web.w ∧ s.reversalTest.web.h = s.web.h ∧ s.reversalTest.web.v = s.web.v ∧
    s.reversalTest.web.intervalStart = s.web.intervalStart := by
  unfold State.reversalTest
  split <;> simp

/-! ### The Outcome List (R36 to R40) -/

/-- Where a port's cursor stands; a detached one holds no record back. -/
def OutcomeList.stand (o : OutcomeList) (p : Port) : Nat := ((o.cursors.get p).map (·.pos)).getD o.records.length

theorem OutcomeList.passed_eq (o : OutcomeList) :
    o.passed = min (min (min o.records.length (o.stand .line)) (o.stand .inspection)) (o.stand .roll) := by
  unfold OutcomeList.passed OutcomeList.stand Port.all
  cases h1 : o.cursors.get .line <;> cases h2 : o.cursors.get .inspection <;> cases h3 : o.cursors.get .roll <;> simp [h1, h2, h3]

theorem OutcomeList.stand_dropOldest (o : OutcomeList) (n : Nat) (p : Port) : (o.dropOldest n).stand p = o.stand p - n := by
  unfold OutcomeList.stand OutcomeList.dropOldest
  cases h : o.cursors.get p <;> simp [h]

theorem OutcomeList.passed_dropOldest (o : OutcomeList) (n : Nat) : (o.dropOldest n).passed = o.passed - n := by
  have hl : (o.dropOldest n).records.length = o.records.length - n := by simp [OutcomeList.dropOldest]
  rw [OutcomeList.passed_eq, OutcomeList.passed_eq, hl]
  simp only [OutcomeList.stand_dropOldest]
  omega

/-- Every cursor stands at a record of the list or just past the newest (R36). -/
def OutcomeList.Inside (o : OutcomeList) : Prop := ∀ p c, o.cursors.get p = some c → c.pos ≤ o.records.length

theorem OutcomeList.inside_dropOldest {o : OutcomeList} (h : o.Inside) (n : Nat) : (o.dropOldest n).Inside := by
  intro p c hc
  simp only [OutcomeList.dropOldest, Three.get_tab, Option.map_eq_some_iff, List.length_drop] at hc ⊢
  obtain ⟨d, hd, rfl⟩ := hc
  have := h p d hd
  simp only
  omega

/-- A list that is pruned meets the bounds of R36 and R37 where it met those of R36. -/
theorem outcomesBounded_prune {s : State} {o : OutcomeList} (hs : s.outcomes = o.prune)
    (hl : o.records.length ≤ Config.outcomeCapacity) (hi : o.Inside) : OutcomesBounded s := by
  have hp : o.prune.passed = 0 := by unfold OutcomeList.prune; rw [OutcomeList.passed_dropOldest]; omega
  refine ⟨?_, ?_, by rw [hs]; exact hp⟩
  · rw [hs]; exact le_trans (by simp [OutcomeList.prune, OutcomeList.dropOldest]) hl
  · rw [hs]; exact OutcomeList.inside_dropOldest hi _

theorem OutcomeList.makeRoom_room {o : OutcomeList} (hl : o.records.length ≤ Config.outcomeCapacity) (hi : o.Inside) :
    o.makeRoom.records.length < Config.outcomeCapacity ∧ o.makeRoom.Inside := by
  unfold OutcomeList.makeRoom
  split
  · refine ⟨?_, OutcomeList.inside_dropOldest ?_ 1⟩
    · simp only [OutcomeList.dropOldest, List.length_drop]
      simp only [Config.outcomeCapacity] at hl ⊢
      omega
    · intro p c hc
      simp only [Three.get_tab, Option.map_eq_some_iff] at hc
      obtain ⟨d, hd, rfl⟩ := hc
      exact hi p d hd
  · exact ⟨by omega, hi⟩

theorem outcomesBounded_append {s t : State} {r : OutcomeRecord} (ht : t.outcomes = s.outcomes.append r)
    (h : OutcomesBounded s) : OutcomesBounded t := by
  obtain ⟨hl, hi⟩ := OutcomeList.makeRoom_room h.1 h.2.1
  refine outcomesBounded_prune ht ?_ fun p c hc => ?_
  · simpa using hl
  · have := hi p c hc
    simp only [List.length_append, List.length_singleton]
    omega

theorem outcomesBounded_subscribe {s t : State} {p : Port} (ht : t.outcomes = s.outcomes.subscribe p)
    (h : OutcomesBounded s) : OutcomesBounded t := by
  refine outcomesBounded_prune ht h.1 fun q c hc => ?_
  simp only [Three.get_set] at hc
  split at hc
  · cases hc; exact le_refl _
  · exact h.2.1 q c hc

theorem OutcomeList.batch_length (o : OutcomeList) (c : Cursor) : (o.batch c).length ≤ o.records.length - c.pos := by
  have hl : (o.batch c).length = ((o.records.drop c.pos).take Config.readBatch).length := by
    unfold OutcomeList.batch
    split <;> rename_i h <;> rw [h] <;> simp
  rw [hl, List.length_take, List.length_drop]
  omega

theorem outcomesBounded_take {s t : State} {p : Port} {c : Cursor} (hp : s.outcomes.cursors.get p = some c)
    (ht : t.outcomes = s.outcomes.take p c) (h : OutcomesBounded s) : OutcomesBounded t := by
  refine outcomesBounded_prune ht h.1 fun q d hd => ?_
  simp only [Three.get_set] at hd
  split at hd
  · cases hd
    have h1 := h.2.1 p c hp
    have h2 := s.outcomes.batch_length c
    simp only
    omega
  · exact h.2.1 q d hd

end Sys2Proof.Machine
end

section
/-! SUPPORT. The shared operations, the requests and the events, each with what it keeps of the web's course and the bounds. -/

namespace Sys2Proof.Machine

/-! ### The Repeat Track (R25 to R32) -/

theorem State.leaveStation_within (s : State) (r : TrackRecord) (st : Idx) : Within s (s.leaveStation r st) := by
  have abort : ∀ t : State, Within t (if (t.seqr.get st).abortSet.contains r.seq then
      ((t.leaveAbortSet st r.seq).settleContext st r.seq .unknown).completeAbort st else t) := by
    intro t
    split
    · exact ((t.leaveAbortSet_within _ _).trans (State.settleContext_within _ _ _ _)).trans (State.completeAbort_within _ _)
    · exact .refl t
  have queue : ∀ t : State, Within t (if (t.seqr.get st).queue = some r.seq then t.updSeqr st fun sq => { sq with queue := none }
      else if (t.seqr.get st).awaited = .order r.seq then (t.clearAwaited st).releaseQueue st else t) := by
    intro t
    split
    · exact t.updSeqr_within _ _ (fun _ => rfl) (fun _ => le_refl _)
    · split
      · exact (t.clearAwaited_within _).trans (State.releaseQueue_within _ _)
      · exact .refl t
  have close : Within s (((s.leaveInFlight st r.seq).release st (r.st.get st).feeds).pushOverdue st (r.overdueCopy st)) :=
    ((s.leaveInFlight_within _ _).trans (State.release_within _ _ _)).trans (State.pushOverdue_within _ _ _)
  unfold State.leaveStation
  dsimp only
  split
  · exact (close.trans (queue _)).trans (abort _)
  · exact (close.trans (queue _)).trans (abort _)
  · exact .refl s

theorem State.leaveStation_orderly (s : State) (r : TrackRecord) (st : Idx) : Orderly s (s.leaveStation r st) :=
  (s.leaveStation_within r st).orderly (by simp [State.gauges, State.course])

theorem State.appendOutcome_outcomes (s : State) (r : OutcomeRecord) : (s.appendOutcome r).outcomes = s.outcomes.append r := by
  unfold State.appendOutcome
  refine foldl_same State.outcomes _ (fun s p => ?_) _ _
  split <;> simp

theorem State.appendOutcome_orderly (s : State) (r : OutcomeRecord) : Orderly s (s.appendOutcome r) :=
  .of_parts (by simp [State.course]) (by simp [StretchBounded]) (outcomesBounded_append (s.appendOutcome_outcomes r))
    (by simp) (by simp) (by simp) (by simp)
    fun h => by simpa [TrimsBounded, State.trimLimit, State.activeEntry, State.active, State.entry] using h

/-- A slot that loses a reference becomes at most READY, where it could become ACTIVE before. -/
theorem State.dropRef_orderly (s : State) (j : Slot) : Orderly s (s.dropRef j) := by
  have slots : (s.dropRef j).slots = s.slots.upd j fun sl =>
    { sl with refs := sl.refs - 1, state := if sl.refs - 1 = 0 ∧ sl.state = .retiring then .ready else sl.state } := rfl
  refine .of_parts (by simp [State.course]) (by simp [StretchBounded]) (by simp [OutcomesBounded]) (by simp) (by simp) (by simp)
    (by simp) (TrimsBounded.of_slot slots (by simp) ?_ (fun _ => rfl) fun h h1 h2 => ?_)
  · dsimp only
    split <;> simp_all
  · refine h ?_ ?_ <;> intro e <;> simp_all

theorem State.disarmFor_orderly (s : State) (q : SeqNo) : Orderly s (s.disarmFor q) := .of_same (by simp [State.measured])

theorem State.leaveHead_orderly (s : State) (final : Status) : Orderly s (s.leaveHead final) := by
  unfold State.leaveHead
  split
  · exact .refl s
  · rename_i r rs _
    dsimp only
    refine Orderly.trans ?_ (State.disarmFor_orderly _ _)
    refine Orderly.trans ?_ (State.dropRef_orderly _ _)
    refine Orderly.trans ?_ (State.appendOutcome_orderly _ _)
    refine Orderly.trans (Orderly.trans ?_ (Orderly.foldl _ (fun s st => s.leaveStation_orderly _ st) Idx.all _)) (.of_same rfl)
    exact .of_same rfl

theorem retireLoop_orderly (n : Nat) (s : State) : Orderly s (retireLoop n s) := by
  induction n generalizing s with
  | zero => exact .refl s
  | succ n ih =>
    unfold retireLoop
    split
    · exact (s.leaveHead_orderly _).trans (ih _)
    · exact .refl s

theorem State.retireRun_orderly (s : State) : Orderly s s.retireRun := retireLoop_orderly _ s

theorem State.emptyTrack_orderly (s : State) : Orderly s s.emptyTrack := by
  have loop : ∀ (n : Nat) (s : State), Orderly s (emptyLoop n s) := by
    intro n
    induction n with
    | zero => exact .refl
    | succ n ih => exact fun s => (s.leaveHead_orderly _).trans (ih _)
  exact loop _ s

theorem State.appendRecord_orderly (s : State) (r : TrackRecord) : Orderly s (s.appendRecord r) :=
  have slots : (s.appendRecord r).slots = s.slots.upd r.slot fun sl => { sl with refs := sl.refs + 1 } := rfl
  .of_parts (by simp [State.course]) (by simp [StretchBounded]) (by simp [OutcomesBounded]) (by simp) (by simp) (by simp) (by simp)
    (TrimsBounded.of_slot slots (by simp) Iff.rfl (fun _ => rfl) fun h => h)

theorem State.commitIfReached_orderly (s : State) (st : Idx) (q : SeqNo) : Orderly s (s.commitIfReached st q) := by
  obtain ⟨hc, -, -, hk⟩ := s.commitIfReached_calm st q
  exact hc.orderly hk (by simp [State.gauges, State.course])

theorem State.takeReached_orderly (s : State) (q : SeqNo) : Orderly s (s.takeReached q) := by
  unfold State.takeReached
  have commits := Orderly.foldl _ (fun s st => State.commitIfReached_orderly s st q) Idx.all s
  dsimp only
  split
  · split
    · exact commits.trans (State.retireRun_orderly _)
    · exact commits
  · exact commits

theorem State.join_orderly (s : State) (x : Handed) : Orderly s (s.join x) := by
  unfold State.join
  split
  · exact .refl s
  · split
    · exact ((s.raise_within _).trans (State.assertStop_within _ _)).orderly (by simp [State.gauges, State.course])
    · exact (s.appendRecord_orderly _).trans (State.takeReached_orderly _ _)

theorem State.convert_orderly (s : State) (q : SeqNo) (c : Pos) : Orderly s (s.convert q c) :=
  Orderly.trans (.of_same (by simp [State.measured])) (State.takeReached_orderly _ _)

/-! ### The Mark Reader (R12 to R21) -/

theorem floorDiv_pow_between {x : Int} (k : Nat) : (0 ≤ x → 0 ≤ floorDiv x (2 ^ k) ∧ floorDiv x (2 ^ k) ≤ x) ∧
    (x < 0 → x ≤ floorDiv x (2 ^ k) ∧ floorDiv x (2 ^ k) < 0) := by
  have h1 : (1 : Int) ≤ ((2 ^ k : Nat) : Int) := by exact_mod_cast Nat.one_le_two_pow
  unfold floorDiv
  rw [Int.fdiv_eq_ediv_of_nonneg _ (by omega)]
  refine ⟨fun h => ⟨Int.ediv_nonneg h (by omega), Int.ediv_le_self _ h⟩, fun h => ⟨?_, Int.ediv_neg_of_neg_of_pos h (by omega)⟩⟩
  rw [Int.le_ediv_iff_mul_le (by omega)]
  nlinarith

/-- The stretch update moves E between where it stands and a value within plus or minus 32,768 (R21). -/
theorem stretchUpdate_bounded (p k pitch : Nat) {e : Int} (h : -32768 ≤ e ∧ e ≤ 32768) :
    -32768 ≤ stretchUpdate p k pitch e ∧ stretchUpdate p k pitch e ≤ 32768 := by
  unfold stretchUpdate
  simp only [Config.stretchTop]
  generalize rha (((pitch : Int) - p) * 2 ^ 20) p = x
  obtain ⟨h1, h2⟩ := floorDiv_pow_between (x := max (-32768) (min 32768 x) - e) k
  rcases lt_or_ge (max (-32768) (min 32768 x) - e) 0 with hx | hx
  · have := h2 hx; omega
  · have := h1 hx; omega

/-- A new E leaves the rest of what is measured. -/
theorem State.setStretch_orderly (s : State) (e : Int) (h : StretchBounded s → -32768 ≤ e ∧ e ≤ 32768) :
    Orderly s { s with reader := { s.reader with e := e } } :=
  .of_parts rfl h id rfl rfl rfl rfl id

theorem State.setReader_orderly (s : State) (m : Pos) (o : Origin) (st : ReaderState) (l c : Nat) :
    Orderly s (s.setReader m o st l c) := (s.setReader_within m o st l c).orderly rfl

theorem State.raise_orderly (s : State) (ev : FaultEvent) : Orderly s (s.raise ev) :=
  (s.raise_within ev).orderly (by simp [State.gauges, State.course])

/-- E after a record is produced (R12 step 1, R21). -/
def State.madeStretch (s : State) (m : Made) : Int :=
  match s.reader.pitchTo m.mark m.origin with
  | some p => if m.inLocked then stretchUpdate s.activeGlobals.p s.activeGlobals.stretchSmooth p s.reader.e else s.reader.e
  | none => s.reader.e

/-- The state in which a record has been handed over and the reader has moved on to it (R12). -/
def State.produced (s : State) (m : Made) : State :=
  (({ s with reader := { s.reader with e := s.madeStretch m } } : State).join
    { mark := m.mark, origin := m.origin, locked := m.locked, pitch := s.reader.pitchTo m.mark m.origin,
      eSnap := s.madeStretch m }).setReader m.mark m.origin m.state m.lock m.coast

theorem State.produce_eq (s : State) (m : Made) :
    s.produce m = if m.lost then (s.produced m).raise { kind := .registerLost, unit := .line } else s.produced m := rfl

theorem State.madeStretch_bounded {s : State} (m : Made) (h : StretchBounded s) :
    -32768 ≤ s.madeStretch m ∧ s.madeStretch m ≤ 32768 := by
  unfold State.madeStretch
  split
  · split
    · exact stretchUpdate_bounded _ _ _ h
    · exact h
  · exact h

theorem State.produce_orderly (s : State) (m : Made) : Orderly s (s.produce m) := by
  have made : Orderly s (s.produced m) :=
    ((s.setStretch_orderly _ (State.madeStretch_bounded m)).trans (State.join_orderly _ _)).trans
      (State.setReader_orderly _ _ _ _ _ _)
  rw [State.produce_eq]
  split
  · exact made.trans (State.raise_orderly _ _)
  · exact made

theorem State.takeReaderEvent_orderly (s : State) : Orderly s s.takeReaderEvent := by
  unfold State.takeReaderEvent
  split
  · exact s.produce_orderly _
  · exact s.produce_orderly _
  · exact .refl s

theorem State.takeReadyReader_orderly (s : State) : Orderly s s.takeReadyReader := by
  have loop : ∀ (n : Nat) (s : State), Orderly s (readerLoop n s) := by
    intro n
    induction n with
    | zero => exact .refl
    | succ n ih =>
      intro s
      unfold readerLoop
      split
      · exact s.takeReaderEvent_orderly.trans (ih _)
      · exact .refl s
  exact loop _ s

theorem State.restartAt_orderly (s : State) (c : Pos) : Orderly s (s.restartAt c) := by
  unfold State.restartAt
  split
  · split
    · exact (s.convert_orderly _ _).trans (State.setReader_orderly _ _ _ _ _ _)
    · exact s.produce_orderly _
  · exact s.produce_orderly _

theorem State.takeEdge_orderly (s : State) (c : Pos) : Orderly s (s.takeEdge c) := by
  have window : ∀ (b : Bool) (m : Made), Orderly s (if b then (s.produce m).takeReadyReader else s.strayMark c) := by
    intro b m
    split
    · exact (s.produce_orderly m).trans (State.takeReadyReader_orderly _)
    · exact s.raise_orderly _
  unfold State.takeEdge
  split
  · exact .refl s
  · exact (s.restartAt_orderly c).trans (State.takeReadyReader_orderly _)
  · exact (s.produce_orderly _).trans (State.takeReadyReader_orderly _)
  · exact window _ _
  · exact window _ _
  · exact window _ _
  · exact .refl s
  · exact .refl s

/-! ### Serving a request (R188, R189) -/

theorem State.updPort_orderly (s : State) (p : Port) (f : PortState → PortState) : Orderly s (s.updPort p f) := .of_same rfl

theorem State.reply_orderly (s : State) (p : Port) (tag : Tag) (code : Byte) (a : Answer) : Orderly s (s.reply p tag code a) :=
  s.updPort_orderly _ _

theorem State.serve_orderly (s : State) (hdr : ReqHdr) (make : ReqHdr → Instr) (code : Byte) {take : State → State × Answer}
    (h : ∀ s, Orderly s (take s).1) : Orderly s (s.serve hdr make code take) := by
  have answer : Orderly s (s.answer hdr code take) :=
    ((s.updPort_orderly _ _).trans (h _)).trans (State.reply_orderly _ _ _ _ _)
  unfold State.serve
  dsimp only
  split
  · exact .refl s
  · split
    · split
      · exact s.updPort_orderly _ _
      · exact s.reply_orderly _ _ _ _
    · split
      · exact answer
      · exact s.reply_orderly _ _ _ _
    · split
      · exact answer
      · exact .refl s

theorem lineOnly_orderly {hdr : ReqHdr} {take : State → State × Answer} (h : ∀ s, Orderly s (take s).1) (s : State) :
    Orderly s (lineOnly hdr take s).1 := by
  unfold lineOnly
  split
  · exact h s
  · exact .refl s

theorem lineRequest_orderly {hdr : ReqHdr} {take : State → State × Answer} (h : ∀ s, Orderly s (take s).1) (s : State) :
    Orderly s (lineRequest hdr take s).1 := by
  unfold lineRequest
  split
  · exact h s
  · exact .refl s

end Sys2Proof.Machine
end

section
/-! SUPPORT. The requests that take effect, each with what it keeps of the web's course and the bounds, and the table of all commands. -/

namespace Sys2Proof.Machine

/-! ### Line requests (R135 to R150) -/

theorem State.setLine_orderly (s : State) (l : LineState) : Orderly s { s with line := l } := .of_same rfl

/-- A reader emptied has E 0 (R22). -/
theorem State.emptyReader_orderly (s : State) {r : Reader} (h : r.e = 0) : Orderly s { s with reader := r } :=
  .of_parts rfl (fun _ => by simp [StretchBounded, h]) id rfl rfl rfl rfl id

/-- The Splice List emptied. -/
theorem State.dropSplices_orderly (s : State) : Orderly s { s with splices := [] } :=
  ⟨rfl, fun h => { h with splices := by simp [SplicesBounded] }⟩

theorem State.reversalTest_orderly (s : State) : Orderly s s.reversalTest :=
  s.reversalTest_within.orderly (by simp [State.gauges, State.course])

theorem State.startLine_orderly (s : State) : Orderly s s.startLine := by
  unfold State.startLine
  refine Orderly.trans ?_ (State.reversalTest_orderly _)
  refine Orderly.trans ?_ (State.emptyReader_orderly _ rfl)
  exact (s.setLine_orderly .run).trans ((State.unphaseAll_within _).orderly rfl)

theorem State.enterHold_orderly (s : State) : Orderly s s.enterHold :=
  s.enterHold_within.orderly (by simp [State.gauges, State.course])

theorem State.resumeLine_orderly (s : State) : Orderly s s.resumeLine := by
  unfold State.resumeLine
  dsimp only
  refine Orderly.trans ?_ (State.reversalTest_orderly _)
  refine Orderly.trans ?_ ((State.dropContexts_within _).orderly (by simp [State.gauges, State.course]))
  refine Orderly.trans ?_ (Orderly.foldl _ (fun s st =>
    (s.restrikeStation_within st).orderly (by simp [State.gauges, State.course])) _ _)
  exact (s.setLine_orderly .run).trans (Orderly.foldl _ (fun s st =>
    (s.loadTrim_within st).orderly (by simp [State.gauges, State.course])) _ _)

theorem State.stopLine_orderly (s : State) : Orderly s s.stopLine := by
  unfold State.stopLine
  refine Orderly.trans ?_ ((State.deassertStop_within _).orderly rfl)
  refine Orderly.trans ?_ ((State.dropContexts_within _).orderly rfl)
  refine Orderly.trans ?_ ((State.emptyReader_orderly _ (r := .reset) rfl).trans (State.dropSplices_orderly _))
  exact (s.setLine_orderly .stopped).trans (State.emptyTrack_orderly _)

/-- A sequencer that is cleared has no overdue orders. -/
theorem State.resetStation_orderly (s : State) (st : Idx) : Orderly s (s.resetStation st) := by
  have overdue : ∀ t : State, OverdueBounded t → OverdueBounded (t.updSeqr st Sequencer.cleared) := by
    intro t h v
    simp only [State.updSeqr, Four.get_upd]
    split
    · exact Nat.zero_le _
    · exact h v
  have cleared : ∀ t : State, Orderly t (t.updSeqr st Sequencer.cleared) := fun t =>
    ⟨rfl, fun h => { h with overdue := overdue t h.overdue }⟩
  unfold State.resetStation
  refine Orderly.trans ?_ ((State.unphase_within _ _).orderly (by simp [State.gauges, State.course]))
  refine Orderly.trans ?_ ((State.unreserve_within _ _).orderly (by simp [State.gauges, State.course]))
  refine Orderly.trans ?_ ((State.updLink_within _ _ _).orderly (by simp [State.gauges, State.course]))
  refine Orderly.trans ?_ (cleared _)
  exact ((s.missInFlight_within _).trans (State.emptyOverdue_within _ _)).orderly (by simp [State.gauges, State.course])

theorem State.clearUnits_orderly (s : State) : Orderly s { s with units := .all .reset, lineUnit := .reset } := .of_same rfl

theorem State.resetLine_orderly (s : State) : Orderly s s.resetLine := by
  unfold State.resetLine
  refine Orderly.trans ?_ ((State.deassertStop_within _).orderly (by simp [State.gauges, State.course]))
  refine Orderly.trans ?_ (State.clearUnits_orderly _)
  refine Orderly.trans ?_ ((State.dropContexts_within _).orderly (by simp [State.gauges, State.course]))
  refine Orderly.trans ?_ (Orderly.foldl _ (fun s st => s.resetStation_orderly st) _ _)
  exact s.emptyTrack_orderly.trans ((State.emptyReader_orderly _ (r := .reset) rfl).trans (State.dropSplices_orderly _))

theorem State.updContext_orderly (s : State) (st : Idx) (f : HoldContext → HoldContext) : Orderly s (s.updContext st f) :=
  (s.updContext_within st f).orderly (by simp [State.gauges, State.course])

theorem State.resetOne_orderly (s : State) (st : Idx) : Orderly s (s.resetOne st) := by
  unfold State.resetOne
  refine Orderly.trans ?_ (State.updContext_orderly _ _ _)
  exact Orderly.trans (.of_same (by simp [State.measured])) (State.resetStation_orderly _ _)

theorem State.takeStart_orderly (s : State) : Orderly s s.takeStart.1 := by
  unfold State.takeStart
  repeat' split
  all_goals first
    | exact .refl s
    | exact s.startLine_orderly

theorem State.takeHold_orderly (s : State) : Orderly s s.takeHold.1 := by
  unfold State.takeHold
  split
  · exact s.enterHold_orderly
  · exact .refl s
  · exact .refl s

theorem State.takeResume_orderly (s : State) : Orderly s s.takeResume.1 := by
  unfold State.takeResume
  repeat' split
  all_goals first
    | exact .refl s
    | exact s.resumeLine_orderly

theorem State.takeStop_orderly (s : State) : Orderly s s.takeStop.1 := by
  unfold State.takeStop
  repeat' split
  all_goals first
    | exact .refl s
    | exact s.stopLine_orderly

theorem State.takeLineReset_orderly (s : State) : Orderly s s.takeLineReset.1 := by
  unfold State.takeLineReset
  split
  · exact s.resetLine_orderly
  · exact .refl s

theorem State.takeStationReset_orderly (b : Byte) (s : State) : Orderly s (s.takeStationReset b).1 := by
  unfold State.takeStationReset
  repeat' split
  · exact .refl s
  · exact .refl s
  · exact s.resetOne_orderly _

theorem State.takeEditTrim_orderly (b : Byte) (t : BitVec 16) (s : State) : Orderly s (s.takeEditTrim b t).1 := by
  unfold State.takeEditTrim
  repeat' split
  · exact .refl s
  · exact .refl s
  · exact s.updContext_orderly _ _

theorem State.takeEditAction_orderly (b : Byte) (q : SeqNo) (a : Option ResumeAction) (s : State) :
    Orderly s (s.takeEditAction b q a).1 := by
  unfold State.takeEditAction
  repeat' split
  all_goals first
    | exact .refl s
    | exact s.updContext_orderly _ _

/-! ### Fault units and watch units (R157 to R161, R169, R170) -/

theorem State.setUnit_orderly (s : State) (u : UnitId) (f : FaultUnit) : Orderly s (s.setUnit u f) :=
  .of_same (by simp [State.measured])

theorem State.takeClearFlags_orderly (b : Byte) (f : FlagSet) (s : State) : Orderly s (s.takeClearFlags b f).1 := by
  unfold State.takeClearFlags
  repeat' split
  · exact .refl s
  · exact .refl s
  · exact s.setUnit_orderly _ _

theorem State.takeSetFlags_orderly (b : Byte) (f g : FlagSet) (s : State) : Orderly s (s.takeSetFlags b f g).1 := by
  unfold State.takeSetFlags
  repeat' split
  · exact .refl s
  · exact .refl s
  · exact .of_same (by simp [State.measured])

theorem State.takeClearFaultRecord_orderly (b : Byte) (s : State) : Orderly s (s.takeClearFaultRecord b).1 := by
  unfold State.takeClearFaultRecord
  split
  · exact .refl s
  · exact s.setUnit_orderly _ _

theorem State.updWatch_orderly (s : State) (w : Idx) (f : Watch → Watch) : Orderly s (s.updWatch w f) := .of_same rfl

theorem State.takeArm_orderly (p : Port) (a : Option ArmRequest) (s : State) : Orderly s (s.takeArm p a).1 := by
  unfold State.takeArm
  repeat' split
  all_goals first
    | exact .refl s
    | exact .of_same (by simp [State.measured])

theorem State.takeEnable_orderly (p : Port) (b : Byte) (v : Option Bool) (s : State) : Orderly s (s.takeEnable p b v).1 := by
  unfold State.takeEnable
  repeat' split
  all_goals first
    | exact .refl s
    | exact s.updWatch_orderly _ _

theorem State.takeClearHit_orderly (p : Port) (b : Byte) (s : State) : Orderly s (s.takeClearHit p b).1 := by
  unfold State.takeClearHit
  repeat' split
  all_goals first
    | exact .refl s
    | exact s.updWatch_orderly _ _

theorem State.takeRelease_orderly (p : Port) (b : Byte) (s : State) : Orderly s (s.takeRelease p b).1 := by
  unfold State.takeRelease
  repeat' split
  all_goals first
    | exact .refl s
    | exact s.updWatch_orderly _ _

/-! ### The Heat Arbiter (R110, R114, R115, R120) -/

theorem State.takeSetZoneMask_orderly (a b : Byte) (v : Option Bool) (s : State) : Orderly s (s.takeSetZoneMask a b v).1 := by
  refine (s.takeSetZoneMask_within a b v).orderly ?_
  unfold State.takeSetZoneMask
  (repeat' split) <;> simp [State.gauges, State.course]

theorem State.takeFinishZone_orderly (a b : Byte) (r : Option Bool) (s : State) : Orderly s (s.takeFinishZone a b r).1 := by
  refine (s.takeFinishZone_within a b r).orderly ?_
  unfold State.takeFinishZone
  (repeat' split) <;> simp [State.gauges, State.course]

theorem State.takeSetLowest_orderly (a b : Byte) (s : State) : Orderly s (s.takeSetLowest a b).1 := by
  refine (s.takeSetLowest_within a b).orderly ?_
  unfold State.takeSetLowest
  split <;> simp [State.gauges, State.course]

theorem State.heatSettings_limited {s : State} (h : s.heat.order.Perm Heat.defaultOrder)
    (hf : ∀ st z, (s.zone st z).inService = true → (s.zone st z).mask = false ∧ (s.zone st z).block = .none) :
    PowerLimited s.heatSettings := by
  have ended := foldl_endSlot_inService (s.served.drop s.settings.nSlot) true s
  have kept := grantPass_kept ((s.served.drop s.settings.nSlot).foldl (fun s p => s.endSlot p.1 p.2 true) s)
  refine ⟨by simpa using heatSettings_held s h, kept.free fun st z hz => ?_, ?_⟩
  · obtain ⟨hi, -, -, hm, hb⟩ := ended (st, z)
    rw [hm, hb]
    exact hf st z (hi.1 hz).1
  · have := kept.order.trans (ended (.i0, .i0)).2.1
    exact (show s.heatSettings.heat.order = s.heat.order from this) ▸ h

theorem State.takeWriteSettings_orderly (items : List SettingItem) (s : State) : Orderly s (s.takeWriteSettings items).1 := by
  unfold State.takeWriteSettings
  repeat' split
  · exact .refl s
  · refine ⟨by simp [State.course], fun h => ?_⟩
    exact
      { stretch := by simpa [StretchBounded] using h.stretch
        outcomes := by simpa [OutcomesBounded] using h.outcomes
        power := State.heatSettings_limited h.power.2.2 h.power.2.1
        overdue := by simpa [OverdueBounded] using h.overdue
        trims := by simpa [TrimsBounded, State.trimLimit, State.activeEntry, State.active, State.entry] using h.trims
        splices := by simpa [SplicesBounded] using h.splices }
  · exact .refl s

/-! ### Jobs (R177 to R183) -/

/-- A slot that was not ACTIVE is begun or changed: it stays LOADING, or becomes so, which no bound speaks of. -/
theorem State.loadSlot_orderly (s : State) (j : Slot) (f : JobSlot → JobSlot) (h : (s.slots.get j).state ≠ .active)
    (hf : (f (s.slots.get j)).state = .loading) : Orderly s (s.updSlot j f) := by
  have slots : (s.updSlot j f).slots = s.slots.upd j f := rfl
  refine .of_parts rfl id id rfl rfl rfl rfl (TrimsBounded.of_slot slots rfl ?_ (fun e => absurd e h) fun _ e => absurd hf e)
  simp [hf, h]

theorem State.takeBeginJob_orderly (b : Byte) (src : Option JobSource) (s : State) : Orderly s (s.takeBeginJob b src).1 := by
  unfold State.takeBeginJob
  repeat' split
  all_goals first
    | exact .refl s
    | refine s.loadSlot_orderly _ _ ?_ rfl; simp_all

theorem State.updJob_orderly (s : State) (j : Slot) (f : JobRecord → JobRecord) (h : s.loading j = true) :
    Orderly s (s.updJob j f) := by
  have hl : (s.slots.get j).state = .loading := of_decide_eq_true h
  exact s.loadSlot_orderly j _ (by simp [hl]) hl

theorem State.takeItemGlobal_orderly (b : Byte) (i : GlobalItem) (s : State) : Orderly s (s.takeItemGlobal b i).1 := by
  unfold State.takeItemGlobal
  repeat' split
  all_goals first
    | exact .refl s
    | exact s.updJob_orderly _ _ ‹_›

theorem State.takeItemStation_orderly (b sb : Byte) (i : StationItem) (s : State) : Orderly s (s.takeItemStation b sb i).1 := by
  unfold State.takeItemStation
  repeat' split
  all_goals first
    | exact .refl s
    | exact s.updJob_orderly _ _ ‹_›

theorem State.takeItemZone_orderly (b sb zb : Byte) (i : ZoneItem) (s : State) : Orderly s (s.takeItemZone b sb zb i).1 := by
  unfold State.takeItemZone
  repeat' split
  all_goals first
    | exact .refl s
    | exact s.updJob_orderly _ _ ‹_›

theorem State.takeItemLane_orderly (b sb cb : Byte) (k : Option LaneCode) (lf gf : BitVec 16) (s : State) :
    Orderly s (s.takeItemLane b sb cb k lf gf).1 := by
  unfold State.takeItemLane
  repeat' split
  all_goals first
    | exact .refl s
    | exact s.updJob_orderly _ _ ‹_›

theorem State.takeItemRemove_orderly (b sb : Byte) (s : State) : Orderly s (s.takeItemRemove b sb).1 := by
  unfold State.takeItemRemove
  repeat' split
  all_goals first
    | exact .refl s
    | exact s.updJob_orderly _ _ ‹_›

theorem firstBad_none {l : List (CheckItem × Bool)} (h : firstBad l = none) : ∀ x ∈ l, x.2 = true := by
  unfold firstBad at h
  simp only [Option.map_eq_none_iff, List.find?_eq_none] at h
  intro x hx
  simpa using h x hx

/-- A record that passes check 1 holds every TRIM_LIM within 0..2,000 (R181). -/
theorem JobRecord.trimLim_le {r : JobRecord} (h : r.firstFailing = none) {st : Idx} {e : StationEntry}
    (he : r.stations.get st = some e) : e.trimLim ≤ Config.trimTop := by
  have hr : r.badRange = none := by
    unfold JobRecord.firstFailing at h
    split at h <;> first | assumption | cases h
  have present : (st, e) ∈ r.present := by
    unfold JobRecord.present
    refine List.mem_filterMap.2 ⟨st, by cases st <;> decide, by simp [he]⟩
  have range := firstBad_none hr (.station st, e.inRange)
    (List.mem_append_right _ (List.mem_flatMap.2 ⟨_, present, by simp [StationEntry.judged]⟩))
  simp only [StationEntry.inRange, within, Bool.and_eq_true, decide_eq_true_eq] at range
  have := range.1.1.2
  simp only [Config.trimTop]
  omega

theorem State.takeCheckJob_orderly (b : Byte) (s : State) : Orderly s (s.takeCheckJob b).1 := by
  have judged : ∀ (j : Slot) (f : JobSlot → JobSlot), s.loading j = true → (f (s.slots.get j)).state ≠ .active →
      (f (s.slots.get j)).trimsWithin → Orderly s (s.updSlot j f) := by
    intro j f hl hs ht
    have hl : (s.slots.get j).state = .loading := of_decide_eq_true hl
    have slots : (s.updSlot j f).slots = s.slots.upd j f := rfl
    exact .of_parts rfl id id rfl rfl rfl rfl
      (TrimsBounded.of_slot slots rfl (by simp [hl, hs]) (fun e => absurd (hl.symm.trans e) (by simp)) fun _ => ht)
  unfold State.takeCheckJob
  split
  · exact .refl s
  · split
    · split
      · exact judged _ _ ‹_› (by simp) fun _ h => absurd rfl h
      · rename_i j _ hl _ hf
        refine judged _ _ hl (by simp) fun _ _ f st n h1 h2 => ?_
        simp only [JobSlot.trimLims, Option.map_eq_some_iff] at h1
        obtain ⟨r, hr, rfl⟩ := h1
        have hr' : s.jobOf j = r := by simp [State.jobOf, hr]
        rw [hr'] at hf
        simp only [Four.get_tab, Option.map_eq_some_iff] at h2
        obtain ⟨e, he, rfl⟩ := h2
        exact JobRecord.trimLim_le hf he
    · exact .refl s

/-! ### SWITCH JOB (R57, R183) -/

/-- After the clamp every trim lies within the limit of the slot now ACTIVE (R57). -/
theorem State.clampTrims_trim (s : State) (st : Idx) : (s.clampTrims.calcs.get st).trim.natAbs ≤ s.trimLimit st := by
  have limit : ∀ t : State, t.slots = s.slots → ∀ v, t.trimLimit v = s.trimLimit v := fun t h v =>
    State.trimLimit_of_jobs (by simp [h]) (by simp [h]) v
  have key : ∀ (l : List Idx) (t : State), t.slots = s.slots →
      (∀ v, v ∉ l → (t.calcs.get v).trim.natAbs ≤ s.trimLimit v) →
      ∀ v, ((l.foldl (fun s st => s.setTrim st (clampAbs (s.trimLimit st) (s.calcs.get st).trim)) t).calcs.get v).trim.natAbs ≤
        s.trimLimit v := by
    intro l
    induction l with
    | nil => exact fun t _ h v => h v (by simp)
    | cons x xs ih =>
      intro t ht h
      refine ih _ (by simp [ht]) fun v hv => ?_
      rw [State.setTrim_calcs, Four.get_upd]
      split
      · rename_i e
        subst e
        rw [limit t ht]
        exact natAbs_clampAbs _ _
      · rename_i e
        exact h v (by simp [e, hv])
  exact key Idx.all s rfl (fun v hv => absurd (by cases v <;> decide) hv) st

theorem JobRecord.clearLanes_trimLim (r : JobRecord) (st : Idx) :
    (r.clearLanes.stations.get st).map (·.trimLim) = (r.stations.get st).map (·.trimLim) := by
  simp only [JobRecord.clearLanes, Four.get_tab, Option.map_map]
  rfl

theorem JobSlot.trimLims_clearLanes (sl : JobSlot) (x : SlotState) :
    ({ sl with state := x, job := sl.job.map JobRecord.clearLanes } : JobSlot).trimLims = sl.trimLims := by
  simp only [JobSlot.trimLims, Option.map_map, Function.comp_def, JobRecord.clearLanes_trimLim]

/-- The slots after a switch to a READY slot hold their TRIM_LIMs as before (R183 steps 1 and 2). -/
theorem State.activate_trimsWithin {s : State} {j : Slot} (hj : (s.slots.get j).state = .ready)
    (h : ∀ i, (s.slots.get i).trimsWithin) (i : Slot) : ((s.activate j).slots.get i).trimsWithin := by
  have retired : ∀ sl : JobSlot, sl.trimsWithin → sl.retired.trimsWithin := by
    intro sl hs
    unfold JobSlot.retired
    split
    · rename_i e
      exact fun _ _ => hs (by simp [e]) (by simp [e])
    · exact hs
  have ne : j.other ≠ j := by cases j <;> decide
  simp only [State.activate, State.updSlot, Two.get_upd]
  split
  · rw [if_neg ne.symm]
    intro _ _
    rw [JobSlot.trimLims_clearLanes]
    exact h j (by simp [hj]) (by simp [hj])
  · split
    · exact retired _ (h _)
    · exact h i

theorem State.heatSwitch_orderly (s : State) : Orderly s s.heatSwitch :=
  s.heatSwitch_within.orderly (by simp [State.gauges, State.course])

theorem State.switchTo_orderly {s : State} {j : Slot} (hj : (s.slots.get j).state = .ready) : Orderly s (s.switchTo j) := by
  unfold State.switchTo
  refine Orderly.trans ?_ ((State.offer_within _ _).orderly (by simp [State.gauges, State.course]))
  refine Orderly.trans ?_ (State.heatSwitch_orderly _)
  refine Orderly.trans ?_ (State.emptyReader_orderly _ rfl)
  generalize hu : (s.activate j).disableJobWatches = u
  have hslots : u.slots = (s.activate j).slots := by subst hu; simp
  refine .of_parts (by subst hu; simp [State.course]) (by subst hu; simp [StretchBounded]) (by subst hu; simp [OutcomesBounded])
    (by subst hu; simp) (by subst hu; simp) (by subst hu; simp) (by subst hu; simp) fun h => ?_
  refine (trimsBounded_iff _).2 ⟨fun st => ?_, fun i => ?_⟩
  · rw [State.trimLimit_of_jobs (s := u) (by simp) (by simp)]
    exact u.clampTrims_trim st
  · have : u.clampTrims.slots = (s.activate j).slots := by simp [hslots]
    rw [this]
    exact State.activate_trimsWithin hj ((trimsBounded_iff s).1 h).2 i

theorem State.takeSwitchJob_orderly (b : Byte) (s : State) : Orderly s (s.takeSwitchJob b).1 := by
  unfold State.takeSwitchJob
  repeat' split
  · exact .refl s
  · exact State.switchTo_orderly ‹_›
  · exact .refl s

/-! ### Verdicts, splices and foil (R97, R99, R123, R129) -/

theorem State.takePostVerdict_orderly (p : Port) (q : SeqNo) (cols : Four Bool) (v : Option PostedVerdict) (s : State) :
    Orderly s (s.takePostVerdict p q cols v).1 := by
  unfold State.takePostVerdict
  split
  · exact .refl s
  split
  · exact .refl s
  split
  · exact .refl s
  · dsimp only
    split
    · exact .refl s
    · refine Orderly.trans (.of_same (by simp [State.measured])) (Orderly.foldl _ (fun s st => ?_) _ _)
      exact (s.lateTest_within _ _ _).orderly (by simp [State.gauges, State.course])

theorem placeSplice_length (h : Pos) (x : SpliceEntry) (l : List SpliceEntry) : (placeSplice h x l).length = l.length + 1 := by
  induction l with
  | nil => rfl
  | cons y ys ih =>
    unfold placeSplice
    split
    · rfl
    · simp [ih]

/-- A list of splice zones with a new one put in the place of those that it meets stays within the capacity, where it meets some or
there is room (R128, R130). -/
theorem placeSplice_bounded {h : Pos} {x : SpliceEntry} {l : List SpliceEntry} {p : SpliceEntry → Bool}
    (hl : l.length ≤ Config.spliceCapacity) (hm : ¬ (l.filter p = [] ∧ Config.spliceCapacity ≤ l.length)) :
    (placeSplice h x (l.filter fun y => !p y)).length ≤ Config.spliceCapacity := by
  rw [placeSplice_length]
  have parts := List.length_eq_length_filter_add (l := l) p
  by_cases hp : l.filter p = []
  · have room : ¬ Config.spliceCapacity ≤ l.length := fun h => hm ⟨hp, h⟩
    have := List.length_filter_le (fun y => !p y) l
    omega
  · have := List.length_pos_iff.2 hp
    omega

theorem State.removeSplice_orderly (s : State) (x : Pos) : Orderly s (s.removeSplice x) :=
  ⟨rfl, fun h => { h with splices := (List.length_filter_le _ _).trans h.splices }⟩

theorem State.flagTrack_orderly (s : State) (x : SpliceEntry) : Orderly s (s.flagTrack x) :=
  (s.flagTrack_within x).orderly (by simp [State.gauges, State.course])

theorem State.takeReportSplice_orderly (p : Port) (c : Pos) (s : State) : Orderly s (s.takeReportSplice p c).1 := by
  unfold State.takeReportSplice
  split
  · exact .refl s
  · split
    · exact .refl s
    · dsimp only
      split
      · exact .refl s
      · split
        · exact .refl s
        · rename_i hm
          dsimp only
          have placed : ∀ x, Orderly s { s with
              splices := placeSplice s.web.h x (s.splices.filter fun y => !y.merges (s.spliceZone c)) } :=
            fun x => ⟨rfl, fun h => { h with splices := placeSplice_bounded h.splices hm }⟩
          split
          · exact ((placed _).trans (State.flagTrack_orderly _ _)).trans (State.removeSplice_orderly _ _)
          · exact (placed _).trans (State.flagTrack_orderly _ _)

theorem State.takeApprove_orderly (p : Port) (sb cb : Byte) (s : State) : Orderly s (s.takeApprove p sb cb).1 := by
  unfold State.takeApprove
  repeat' split
  all_goals first
    | exact .refl s
    | exact (s.setDescriptor_within _ _ _ _).orderly (by simp [State.gauges, State.course])

theorem State.takeFoilRoll_orderly (p : Port) (sb cb : Byte) (l : BitVec 32) (s : State) :
    Orderly s (s.takeFoilRoll p sb cb l).1 := by
  unfold State.takeFoilRoll
  repeat' split
  all_goals first
    | exact .refl s
    | exact ((s.updLane_within _ _ _).trans (State.laneChanged_within _ _ _)).orderly (by simp [State.gauges, State.course])

/-! ### Ports and outcomes (R39, R40, R164, R166) -/

theorem readOnly_orderly (look : State → Answer) (s : State) : Orderly s (readOnly look s).1 := .refl s

theorem State.takeNotices_orderly (p : Port) (s : State) : Orderly s (s.takeNotices p).1 := s.updPort_orderly _ _

theorem State.takeSetRouting_orderly (p : Port) (k : BitVec 16) (c : Option RouteClass) (s : State) :
    Orderly s (s.takeSetRouting p k c).1 := by
  unfold State.takeSetRouting
  repeat' split
  · exact s.updPort_orderly _ _
  · exact .refl s
  · exact .refl s

theorem State.takeSubscribe_orderly (p : Port) (s : State) : Orderly s (s.takeSubscribe p).1 :=
  .of_parts rfl id (outcomesBounded_subscribe rfl) rfl rfl rfl rfl id

theorem State.takeOutcomes_orderly (p : Port) (s : State) : Orderly s (s.takeOutcomes p).1 := by
  unfold State.takeOutcomes
  split
  · exact .of_parts rfl id (outcomesBounded_take ‹_› rfl) rfl rfl rfl rfl id
  · exact .refl s

theorem State.stationCarrierReturn_orderly (s : State) (st : Idx) : Orderly s (s.stationCarrierReturn st) := by
  unfold State.stationCarrierReturn
  split
  · exact .refl s
  · refine Within.orderly (Within.of_heat ?_ ?_) ?_
    · rfl
    · exact id
    · rfl

theorem State.unknownRequest_orderly (s : State) (hdr : ReqHdr) (code : Byte) : Orderly s (s.unknownRequest hdr code) := by
  unfold State.unknownRequest
  repeat' split
  · exact s.serve_orderly _ _ _ (lineOnly_orderly .refl)
  · exact .refl s
  · exact s.reply_orderly _ _ _ _

theorem State.busyAnswer_orderly (s : State) (p : Port) (tag : Tag) (code : Byte) : Orderly s (s.busyAnswer p tag code) := by
  unfold State.busyAnswer
  split
  · exact s.reply_orderly _ _ _ _
  · exact .refl s

end Sys2Proof.Machine
end

section
/-! SUPPORT. What every command keeps of the web's course and the bounds, from which the whole-machine statements follow (O60, O54, O5),
and the step itself (O1). -/

namespace Sys2Proof.Machine

/-! ### Every command -/

/-- The commands that move the web, measure its speed or follow the E-stop input, and power-on. -/
def movesCourse : Instr → Bool
  | .powerOn _ | .encoderStep _ | .speedIntervalEnd | .estopAsserted | .estopCleared => true
  | _ => false

theorem execCommit_orderly {s t : State} {st : Idx} {q : SeqNo} (h : execCommit st q s = .next t) : Orderly s t := by
  unfold execCommit at h
  split at h
  · split at h
    · exact Orderly.done ((s.commitRecord_within _ _).orderly (by simp [State.gauges, State.course])) h
    · exact (Orderly.refl s).next h
  · exact (Orderly.refl s).next h

theorem execReportDeadline_orderly {s t : State} {st : Idx} {q : SeqNo} (h : execReportDeadline st q s = .next t) :
    Orderly s t := by
  unfold execReportDeadline at h
  split at h
  · split at h
    · exact Orderly.done ((s.takeDeadline_within _ _).orderly (by simp [State.gauges, State.course])) h
    · exact (Orderly.refl s).next h
  · exact (Orderly.refl s).next h

theorem State.takeReaderEvents_orderly (s : State) : Orderly s s.takeReaderEvent.takeReadyReader :=
  s.takeReaderEvent_orderly.trans (State.takeReadyReader_orderly _)

theorem execWindowClose_orderly {s t : State} (h : execWindowClose s = .next t) : Orderly s t := by
  unfold execWindowClose at h
  split at h
  · split at h
    · exact s.takeReaderEvents_orderly.done h
    · exact (Orderly.refl s).next h
  · exact (Orderly.refl s).next h

theorem execSearchSynthesis_orderly {s t : State} (h : execSearchSynthesis s = .next t) : Orderly s t := by
  unfold execSearchSynthesis at h
  split at h
  · split at h
    · exact s.takeReaderEvents_orderly.done h
    · exact (Orderly.refl s).next h
  · exact (Orderly.refl s).next h

theorem execMarkEdge_orderly {s t : State} {c : Pos} {b : Bool} (h : execMarkEdge c b s = .next t) : Orderly s t := by
  unfold execMarkEdge at h
  split at h
  · exact (Orderly.refl s).next h
  · exact (s.takeEdge_orderly c).done h

theorem execSpliceZoneEnd_orderly {s t : State} {x : Pos} (h : execSpliceZoneEnd x s = .next t) : Orderly s t := by
  unfold execSpliceZoneEnd at h
  split at h
  · exact (s.removeSplice_orderly x).next h
  · exact (Orderly.refl s).next h

theorem execPositionWatch_orderly {s t : State} {w : Idx} (h : execPositionWatch w s = .next t) : Orderly s t := by
  refine Orderly.next ?_ h
  split
  · exact .of_same (by simp [State.measured])
  · exact .refl s

/-- A command that does not move the web's course leaves it, and keeps the bounds. -/
theorem exec_orderly {i : Instr} {s t : State} (h : exec i s = .next t) (hi : movesCourse i = false) : Orderly s t := by
  cases i
  case powerOn | encoderStep | speedIntervalEnd | estopAsserted | estopCleared => exact absurd hi (by simp [movesCourse])
  case markEdge => exact execMarkEdge_orderly h
  case windowClose => exact execWindowClose_orderly h
  case searchSynthesis => exact execSearchSynthesis_orderly h
  case commit => exact execCommit_orderly h
  case orderAck => exact ((s.orderAck_within _ _ _).orderly (by simp [State.gauges, State.course])).done h
  case ackTimeout => exact ((s.ackTimeout_within _).orderly (by simp [State.gauges, State.course])).done h
  case strikeReport => exact ((s.strikeReport_within _ _).orderly (by simp [State.gauges, State.course])).done h
  case reportDeadline => exact execReportDeadline_orderly h
  case retire => exact s.retireRun_orderly.next h
  case spliceZoneEnd => exact execSpliceZoneEnd_orderly h
  case positionWatch => exact execPositionWatch_orderly h
  case abortReport => exact ((s.abortReport_within _ _ _ _).orderly (by simp [State.gauges, State.course])).done h
  case abortTimeout => exact ((s.abortTimeout_within _).orderly (by simp [State.gauges, State.course])).done h
  case stationLinkLoss => exact ((s.stationLinkLoss_within _).orderly (by simp [State.gauges, State.course])).done h
  case stationCarrierReturn => exact (s.stationCarrierReturn_orderly _).next h
  case stationFrameSent => exact ((s.updLink_within _ _).orderly rfl).next h
  case stationFrameDropped => exact (Orderly.refl s).next h
  case heatReading => exact ((s.heatReading_within _ _).orderly (by simp [State.gauges, State.course])).done h
  case millisecondTick => exact (s.tick_within.orderly rfl).next h
  case staleHeat => exact ((s.staleHeat_within _).orderly (by simp [State.gauges, State.course])).done h
  case minHoldReached => exact ((s.minHold_within _ _).orderly (by simp [State.gauges, State.course])).next h
  case maxHoldExpiry => exact ((s.maxHold_within _ _).orderly (by simp [State.gauges, State.course])).done h
  case portLinkLoss => exact (s.updPort_orderly _ _).next h
  case portCarrierReturn => exact (s.updPort_orderly _ _).next h
  case portFrameDropped => exact (Orderly.refl s).next h
  case unknownRequest => exact (s.unknownRequest_orderly _ _).next h
  case portReplySent => exact (s.updPort_orderly _ _).next h
  case start => exact (s.serve_orderly _ _ _ (lineRequest_orderly State.takeStart_orderly)).done h
  case hold => exact (s.serve_orderly _ _ _ (lineRequest_orderly State.takeHold_orderly)).done h
  case resume => exact (s.serve_orderly _ _ _ (lineRequest_orderly State.takeResume_orderly)).done h
  case stop => exact (s.serve_orderly _ _ _ (lineRequest_orderly State.takeStop_orderly)).done h
  case lineReset => exact (s.serve_orderly _ _ _ (lineRequest_orderly State.takeLineReset_orderly)).done h
  case stationReset => exact (s.serve_orderly _ _ _ (lineRequest_orderly (State.takeStationReset_orderly _))).done h
  case editHoldContextTrim => exact (s.serve_orderly _ _ _ (lineOnly_orderly (State.takeEditTrim_orderly _ _))).next h
  case editHoldContextAction => exact (s.serve_orderly _ _ _ (lineOnly_orderly (State.takeEditAction_orderly _ _ _))).next h
  case clearFlags => exact (s.serve_orderly _ _ _ (lineOnly_orderly (State.takeClearFlags_orderly _ _))).next h
  case setFlags => exact (s.serve_orderly _ _ _ (lineOnly_orderly (State.takeSetFlags_orderly _ _ _))).next h
  case clearFaultRecord => exact (s.serve_orderly _ _ _ (lineOnly_orderly (State.takeClearFaultRecord_orderly _))).next h
  case setZoneMask => exact (s.serve_orderly _ _ _ (lineOnly_orderly (State.takeSetZoneMask_orderly _ _ _))).next h
  case finishZone => exact (s.serve_orderly _ _ _ (lineOnly_orderly (State.takeFinishZone_orderly _ _ _))).next h
  case setLowest => exact (s.serve_orderly _ _ _ (lineOnly_orderly (State.takeSetLowest_orderly _ _))).next h
  case beginJob => exact (s.serve_orderly _ _ _ (lineOnly_orderly (State.takeBeginJob_orderly _ _))).next h
  case jobItemGlobal => exact (s.serve_orderly _ _ _ (lineOnly_orderly (State.takeItemGlobal_orderly _ _))).next h
  case jobItemStation => exact (s.serve_orderly _ _ _ (lineOnly_orderly (State.takeItemStation_orderly _ _ _))).next h
  case jobItemZone => exact (s.serve_orderly _ _ _ (lineOnly_orderly (State.takeItemZone_orderly _ _ _ _))).next h
  case jobItemLane => exact (s.serve_orderly _ _ _ (lineOnly_orderly (State.takeItemLane_orderly _ _ _ _ _ _))).next h
  case jobItemRemoveStation => exact (s.serve_orderly _ _ _ (lineOnly_orderly (State.takeItemRemove_orderly _ _))).next h
  case checkJob => exact (s.serve_orderly _ _ _ (lineOnly_orderly (State.takeCheckJob_orderly _))).next h
  case switchJob => exact (s.serve_orderly _ _ _ (lineOnly_orderly (State.takeSwitchJob_orderly _))).next h
  case writeLineSettings => exact (s.serve_orderly _ _ _ (lineOnly_orderly (State.takeWriteSettings_orderly _))).next h
  case postVerdict => exact (s.serve_orderly _ _ _ (State.takePostVerdict_orderly _ _ _ _)).next h
  case approveFirstOff => exact (s.serve_orderly _ _ _ (State.takeApprove_orderly _ _ _)).next h
  case reportSplice => exact (s.serve_orderly _ _ _ (State.takeReportSplice_orderly _ _)).done h
  case reportFoilRoll => exact (s.serve_orderly _ _ _ (State.takeFoilRoll_orderly _ _ _ _)).next h
  case armWatch => exact (s.serve_orderly _ _ _ (State.takeArm_orderly _ _)).next h
  case enableWatch => exact (s.serve_orderly _ _ _ (State.takeEnable_orderly _ _ _)).next h
  case clearWatchHit => exact (s.serve_orderly _ _ _ (State.takeClearHit_orderly _ _)).next h
  case releaseWatch => exact (s.serve_orderly _ _ _ (State.takeRelease_orderly _ _)).next h
  case readTrack => exact (s.serve_orderly _ _ _ (readOnly_orderly _)).next h
  case readStation => exact (s.serve_orderly _ _ _ (readOnly_orderly _)).next h
  case readLane => exact (s.serve_orderly _ _ _ (readOnly_orderly _)).next h
  case readZone => exact (s.serve_orderly _ _ _ (readOnly_orderly _)).next h
  case readLine => exact (s.serve_orderly _ _ _ (readOnly_orderly _)).next h
  case readFaultRecord => exact (s.serve_orderly _ _ _ (readOnly_orderly _)).next h
  case readWatch => exact (s.serve_orderly _ _ _ (readOnly_orderly _)).next h
  case takeNotices => exact (s.serve_orderly _ _ _ (State.takeNotices_orderly _)).next h
  case setRouting => exact (s.serve_orderly _ _ _ (State.takeSetRouting_orderly _ _ _)).next h
  case subscribeOutcomes => exact (s.serve_orderly _ _ _ (State.takeSubscribe_orderly _)).next h
  case takeOutcomes => exact (s.serve_orderly _ _ _ (State.takeOutcomes_orderly _)).next h
  case busyAnswer => exact (s.busyAnswer_orderly _ _ _).next h

/-! ### The commands that move the course (R4, R8, R138) -/

theorem PositionalEvent.after_orderly (e : PositionalEvent) (s : State) : Orderly s (e.after s) := by
  unfold PositionalEvent.after
  split
  · rename_i t h
    rw [← e.exec_command s] at h
    exact exec_orderly h (by cases e <;> rfl)
  · exact .refl s
  · exact .refl s

theorem State.handOver_orderly (s : State) : Orderly s s.handOver :=
  s.handOver_keeps (Orderly s) (fun e t _ h => h.trans (e.after_orderly t)) (.refl s)

/-- A new state of the web keeps the bounds, which do not speak of it. -/
theorem Bounded.setWeb {s : State} (h : Bounded s) (w : Web) : Bounded { s with web := w } :=
  ⟨h.stretch, h.outcomes, h.power, h.overdue, h.trims, h.splices⟩

theorem Bounded.setEstop {s : State} (h : Bounded s) (b : Bool) : Bounded { s with estop := b } :=
  ⟨h.stretch, h.outcomes, h.power, h.overdue, h.trims, h.splices⟩

theorem Bounded.setPending {s : State} (h : Bounded s) (l : List Instr) : Bounded { s with pending := l } :=
  ⟨h.stretch, h.outcomes, h.power, h.overdue, h.trims, h.splices⟩

theorem bounded_reset : Bounded .reset where
  stretch := by unfold StretchBounded; decide
  outcomes := by
    refine ⟨by decide, ?_, by decide⟩
    intro p c h
    cases p <;> cases h
  power := by
    refine ⟨by decide, ?_, List.Perm.refl _⟩
    intro st z h
    cases st <;> cases z <;> cases h
  overdue := by intro st; cases st <;> decide
  trims := by
    refine ⟨by intro st; cases st <;> decide, ?_⟩
    intro j st e _ _ h
    cases j <;> cases h
  splices := by unfold SplicesBounded; decide

theorem execEncoderStep_bounded {s t : State} {ch : EncoderChange} (h : execEncoderStep ch s = .next t) (hs : Bounded s) :
    Bounded t := by
  have hand := s.handOver_orderly.bounds hs
  cases ch <;> cases h
  · exact hand.setWeb _
  · exact (State.reversalTest_orderly _).bounds (hand.setWeb _)
  · exact hs

theorem execEstopAsserted_bounded {s t : State} (h : execEstopAsserted s = .next t) (hs : Bounded s) : Bounded t := by
  unfold execEstopAsserted at h
  dsimp only at h
  split at h
  · exact ((State.enterHold_orderly _).done h).bounds (hs.setEstop true)
  · cases h; exact hs.setEstop true

theorem exec_bounded {i : Instr} {s t : State} (h : exec i s = .next t) (hs : Bounded s) : Bounded t := by
  by_cases hi : movesCourse i = false
  · exact (exec_orderly h hi).bounds hs
  · cases i <;> try exact absurd rfl hi
    case powerOn level => cases h; exact (bounded_reset.setEstop level).setPending _
    case encoderStep => exact execEncoderStep_bounded h hs
    case speedIntervalEnd => cases h; exact hs.setWeb _
    case estopAsserted => exact execEstopAsserted_bounded h hs
    case estopCleared => cases h; exact hs.setEstop false

theorem step_bounded {s t : State} (h : step s = .next t) (hs : Bounded s) : Bounded t := by
  unfold step at h
  split at h
  · exact exec_bounded h (hs.setPending _)
  · split at h
    · exact exec_bounded h hs
    · cases h; exact hs

/-- The encoder leaves the speed, its interval and the E-stop level. -/
theorem execEncoderStep_rest {s t : State} {ch : EncoderChange} (h : execEncoderStep ch s = .next t) :
    t.web.v = s.web.v ∧ t.web.intervalStart = s.web.intervalStart ∧ t.estop = s.estop := by
  have moved : ∀ (w : Web) (x : Pos), (w.moved x).v = w.v ∧ (w.moved x).intervalStart = w.intervalStart := by
    intro w x
    unfold Web.moved Web.excursion Web.follow
    split <;> split <;> exact ⟨rfl, rfl⟩
  have hand := s.handOver_orderly.course
  simp only [State.course, Prod.mk.injEq] at hand
  obtain ⟨-, -, hv, hi, he⟩ := hand
  cases ch <;> cases h <;> simp [moved, hv, hi, he]

theorem execEstopAsserted_web {s t : State} (h : execEstopAsserted s = .next t) : t.web = s.web := by
  unfold execEstopAsserted at h
  dsimp only at h
  split at h
  · cases h; simp
  · cases h; rfl

end Sys2Proof.Machine

open Sys2Proof Sys2Proof.Machine

/-- Settles O60: the bounds are kept by every shared operation, hence by every command. -/
theorem everyStepKeepsTheBounds : Obligations.EveryStepKeepsTheBounds := by
  intro s t ⟨h1, h2, h3, h4, h5, h6⟩ h
  obtain ⟨k1, k2, k3, k4, k5, k6⟩ := step_bounded h ⟨h1, h2, h3, h4, h5, h6⟩
  exact ⟨k1, k2, k3, k4, k5, k6⟩

/-- Settles O54: every command outside of those named leaves the web's course, and the encoder leaves the E-stop level. -/
theorem onlyTheirEventsMoveTheWeb : Obligations.OnlyTheirEventsMoveTheWeb := by
  intro i s t h hp
  by_cases hi : movesCourse i = false
  · have kept := (exec_orderly h hi).course
    simp only [State.course, Prod.mk.injEq] at kept
    obtain ⟨hw, hh, -, -, he⟩ := kept
    exact ⟨fun _ => ⟨hw, hh⟩, fun _ _ => he⟩
  · cases i <;> try exact absurd rfl hi
    case powerOn level => exact absurd rfl (hp level)
    case encoderStep ch => exact ⟨fun he => absurd rfl (he ch), fun _ _ => (execEncoderStep_rest h).2.2⟩
    case speedIntervalEnd => cases h; exact ⟨fun _ => ⟨rfl, rfl⟩, fun _ _ => rfl⟩
    case estopAsserted => rw [execEstopAsserted_web h]; exact ⟨fun _ => ⟨rfl, rfl⟩, fun he => absurd rfl he⟩
    case estopCleared => cases h; exact ⟨fun _ => ⟨rfl, rfl⟩, fun _ he => absurd rfl he⟩

/-- Settles O5: the interval's end measures H, and every other command leaves V and the start of the interval. -/
theorem speedIntervalMeasuresHighWater : Obligations.SpeedIntervalMeasuresHighWater := by
  refine ⟨fun s => rfl, fun i s t h hv hp => ?_⟩
  by_cases hi : movesCourse i = false
  · have kept := (exec_orderly h hi).course
    simp only [State.course, Prod.mk.injEq] at kept
    obtain ⟨-, -, hv, hs, -⟩ := kept
    exact ⟨hv, hs⟩
  · cases i <;> try exact absurd rfl hi
    case powerOn level => exact absurd rfl (hp level)
    case encoderStep => exact ⟨(execEncoderStep_rest h).1, (execEncoderStep_rest h).2.1⟩
    case speedIntervalEnd => exact absurd rfl hv
    case estopAsserted => rw [execEstopAsserted_web h]; exact ⟨rfl, rfl⟩
    case estopCleared => cases h; exact ⟨rfl, rfl⟩

/-- Settles O1: the three branches of `step`. -/
theorem stepRunsTheFrontCommand : Obligations.StepRunsTheFrontCommand := by
  refine ⟨fun c cs s h => ?_, fun s e h he => ?_, fun s h he => ?_⟩
  · rw [step, h]
  · rw [step, h]; dsimp only; rw [he]
  · rw [step, h]; dsimp only; rw [he]
end

section
/-! SUPPORT. What one encoder step does to W, H and the flag WEB_REVERSAL raised, what raising WEB_REVERSAL writes, and the hand-over
that goes before a counted step (R4, R5, R7, R155), with the statement they settle (O4). -/

namespace Sys2Proof.Machine

/-! ### The counts (R4, R5, R7) -/

/-- Where W stands after a counted step (R4). -/
def countTo (ch : EncoderChange) (w : Pos) : Pos := if ch = .forward then w + 1 else w - 1

/-- Where H stands once W has come to `x` (R5). -/
def Web.highAt (w : Web) (x : Pos) : Pos := if 1 ≤ (x - w.h).toNat ∧ (x - w.h).toNat < 2 ^ 31 then x else w.h

theorem Web.follow_eq (w : Web) (x : Pos) : ({ w with w := x } : Web).follow = { w with w := x, h := w.highAt x } := by
  simp only [Web.follow, Web.highAt, Sys2Proof.Machine.ahead, decide_eq_true_eq]
  split <;> rfl

/-- A step moves W to its place, H behind it, and at most clears the flag. -/
theorem Web.moved_eq (w : Web) (x : Pos) :
    w.moved x = { w with w := x, h := w.highAt x, reversalRaised := (w.moved x).reversalRaised } := by
  rw [Web.moved, Web.follow_eq]
  unfold Web.excursion
  split <;> rfl

theorem Web.moved_flag (w : Web) (x : Pos) : (w.moved x).reversalRaised =
    if (w.highAt x - x).toNat = 0 ∨ (w.reverse = 0 ∧ (w.highAt x - x).toNat = 1) then false else w.reversalRaised := by
  rw [Web.moved, Web.follow_eq]
  unfold Web.excursion
  split <;> rename_i h <;> unfold Web.reverse at h <;> simp only at h
  · exact (if_pos h).symm
  · exact (if_neg h).symm

/-- A forward step clears the flag where it ends the excursion, and nowhere else: from a reverse distance of 0 H follows. -/
theorem Web.moved_forward (w : Web) : w.moved (w.w + 1) =
    { w with w := w.w + 1, h := w.highAt (w.w + 1),
             reversalRaised := if w.highAt (w.w + 1) = w.w + 1 then false else w.reversalRaised } := by
  have clears : ((w.highAt (w.w + 1) - (w.w + 1)).toNat = 0 ∨
      (w.reverse = 0 ∧ (w.highAt (w.w + 1) - (w.w + 1)).toNat = 1)) ↔ w.highAt (w.w + 1) = w.w + 1 := by
    unfold Web.reverse Web.highAt
    split
    · simp
    · bv_omega
  rw [Web.moved_eq, Web.moved_flag]
  simp only [clears]

/-- A backward step leaves H, and clears the flag where the distance it makes is at most 1. -/
theorem Web.moved_backward (w : Web) (hd : (w.h - (w.w - 1)).toNat < 2 ^ 31) : w.moved (w.w - 1) =
    { w with w := w.w - 1, reversalRaised := if (w.h - (w.w - 1)).toNat ≤ 1 then false else w.reversalRaised } := by
  have stays : w.highAt (w.w - 1) = w.h := by
    unfold Web.highAt
    split <;> bv_omega
  have clears : ((w.h - (w.w - 1)).toNat = 0 ∨ (w.reverse = 0 ∧ (w.h - (w.w - 1)).toNat = 1)) ↔
      (w.h - (w.w - 1)).toNat ≤ 1 := by
    unfold Web.reverse
    bv_omega
  rw [Web.moved_eq, Web.moved_flag, stays]
  simp only [clears]

/-! ### The test point of a backward step (R7, R155) -/

theorem State.reversalTest_off {s : State}
    (h : s.line ≠ .run ∨ s.web.reverse ≤ s.settings.reverseLimit ∨ s.web.reversalRaised = true) : s.reversalTest = s := by
  unfold State.reversalTest
  refine if_neg fun ⟨run, high, clear⟩ => ?_
  rcases h with h | h | h
  · exact h run
  · exact absurd high (by omega)
  · rw [clear] at h; cases h

theorem State.reversalTest_on {s : State} (hr : s.line = .run) (hd : s.settings.reverseLimit < s.web.reverse)
    (hf : s.web.reversalRaised = false) : s.reversalTest =
      ({ s with web := { s.web with reversalRaised := true } } : State).raise
        { kind := .webReversal, unit := .line, detail := some (.reverseDistance s.web.reverse) } :=
  if_pos ⟨hr, hd, hf⟩

/-- A hard fault raised at U4 writes the Line Unit, STOP REQUEST and the ports, and nothing else. -/
theorem State.raise_hard_line_frame (s : State) {ev : FaultEvent} (hc : ev.kind.cls = .hard) (hu : ev.unit = .line) :
    s.raise ev = { s with lineUnit := (s.raise ev).lineUnit, stopReq := (s.raise ev).stopReq, ports := (s.raise ev).ports } := by
  unfold State.raise State.raiseHard
  rw [hc, hu]
  dsimp only
  split <;> rfl

/-- A hard fault raised at U4 sets HARD, or trips the unit where HARD stood, and fills the first record (R155, R160). -/
theorem State.raise_hard_line_unit (s : State) {ev : FaultEvent} (hc : ev.kind.cls = .hard) (hu : ev.unit = .line) :
    (s.raise ev).lineUnit.hard = true ∧ (s.lineUnit.hard = true → (s.raise ev).lineUnit.tripped = true) ∧
      (s.lineUnit.hard = false → (s.raise ev).lineUnit.tripped = s.lineUnit.tripped) ∧
      (s.raise ev).lineUnit.soft = s.lineUnit.soft ∧ (s.raise ev).lineUnit.first.isSome = true ∧
      (s.raise ev).lineUnit.latest = s.lineUnit.latest := by
  unfold State.raise State.raiseHard FaultUnit.hardEffect
  rw [hc, hu]
  cases hh : s.lineUnit.hard <;> cases ht : s.lineUnit.tripped <;>
    simp [State.unit, State.setUnit, State.offer, State.assertStop, FaultUnit.fillFirst, hh, ht]

/-! ### The hand-over before a counted step (R6) -/

/-- Events handed over one after the other until none is left are what the loop hands over, given fuel for them all. -/
theorem handOverLoop_of_handedOver {events : List PositionalEvent} {s t : State} (h : HandedOver events s t) {n : Nat}
    (hn : events.length ≤ n) : handOverLoop n s = t := by
  induction events generalizing s n with
  | nil =>
    obtain ⟨rfl, none⟩ := h
    cases n with
    | zero => rfl
    | succ n => rw [handOverLoop, none]
  | cons e es ih =>
    obtain ⟨due, rest⟩ := h
    cases n with
    | zero => exact absurd hn (by simp)
    | succ n =>
      rw [handOverLoop, due]
      exact ih rest (by simpa using hn)

theorem HandedOver.last {events : List PositionalEvent} {s t : State} (h : HandedOver events s t) : t.eventDue = none := by
  induction events generalizing s with
  | nil => obtain ⟨rfl, none⟩ := h; exact none
  | cons e es ih => exact ih h.2

theorem HandedOver.handOver_eq {events : List PositionalEvent} {s t : State} (h : HandedOver events s t)
    (hn : events.length ≤ 512) : s.handOver = t.handOver :=
  (handOverLoop_of_handedOver h hn).trans (State.handOver_none h.last).symm

/-- Two states that hand over alike take a counted step alike. -/
theorem execEncoderStep_congr {ch : EncoderChange} {s t : State} (hc : ch ≠ .bothPhases) (h : s.handOver = t.handOver) :
    execEncoderStep ch s = execEncoderStep ch t := by
  cases ch with
  | forward => rw [execEncoderStep, execEncoderStep, h]
  | backward => rw [execEncoderStep, execEncoderStep, h]
  | bothPhases => exact absurd rfl hc

/-! ### The step -/

theorem execEncoderStep_forward {s : State} (h : s.eventDue = none) :
    execEncoderStep .forward s = .next { s with web := s.web.moved (s.web.w + 1) } := by
  rw [execEncoderStep, State.handOver_none h]

theorem execEncoderStep_backward {s : State} (h : s.eventDue = none) :
    execEncoderStep .backward s = .next ({ s with web := s.web.moved (s.web.w - 1) } : State).reversalTest := by
  rw [execEncoderStep, State.handOver_none h]

/-- A counted step moves W and H by R4 and R5, whatever it hands over first. -/
theorem execEncoderStep_counts {ch : EncoderChange} (s : State) (hc : ch ≠ .bothPhases) :
    ∃ t, execEncoderStep ch s = .next t ∧ t.web.w = countTo ch s.web.w ∧ t.web.h = s.web.highAt (countTo ch s.web.w) ∧
      t.web.v = s.web.v ∧ t.web.intervalStart = s.web.intervalStart := by
  have hand := s.handOver_orderly.course
  simp only [State.course, Prod.mk.injEq] at hand
  obtain ⟨hw, hh, hv, hi, -⟩ := hand
  have moved := fun x => Web.moved_eq s.handOver.web x
  cases ch with
  | forward =>
    refine ⟨_, rfl, ?_⟩
    dsimp only
    rw [moved]
    simp [countTo, Web.highAt, hw, hh, hv, hi]
  | backward =>
    refine ⟨_, rfl, ?_⟩
    simp only [State.reversalTest_web]
    rw [moved]
    simp [countTo, Web.highAt, hw, hh, hv, hi]
  | bothPhases => exact absurd rfl hc

/-- A backward step that raises WEB_REVERSAL sets the flag and writes U4, STOP REQUEST and the ports. -/
theorem execEncoderStep_raises {s : State} (he : s.eventDue = none) (hd : (s.web.h - (s.web.w - 1)).toNat < 2 ^ 31)
    (hr : s.line = .run) (hl : s.settings.reverseLimit < (s.web.h - (s.web.w - 1)).toNat)
    (hf : (if (s.web.h - (s.web.w - 1)).toNat ≤ 1 then false else s.web.reversalRaised) = false) :
    execEncoderStep .backward s =
      .next (({ s with web := { s.web with w := s.web.w - 1, reversalRaised := true } } : State).raise
        { kind := .webReversal, unit := .line, detail := some (.reverseDistance (s.web.h - (s.web.w - 1)).toNat) }) := by
  rw [execEncoderStep_backward he, Web.moved_backward _ hd]
  refine congrArg _ ?_
  exact State.reversalTest_on hr hl hf

end Sys2Proof.Machine

open Sys2Proof Sys2Proof.Machine

/-- Settles O4: the equations of `Web.moved` in each order of travel, the test point of a backward step, and the hand-over before both. -/
theorem encoderStepsMoveWebAndHighWater : Obligations.EncoderStepsMoveWebAndHighWater := by
  refine ⟨fun ch s hc => execEncoderStep_counts s hc, fun s => rfl,
    fun ch events s t hc hn h => execEncoderStep_congr hc (h.handOver_eq hn), fun s he => ?_,
    fun s he hd => ⟨fun hoff => ?_, fun hr hl hf => ?_⟩⟩
  · exact (execEncoderStep_forward he).trans (by rw [Web.moved_forward]; rfl)
  · refine (execEncoderStep_backward he).trans ?_
    rw [Web.moved_backward _ hd, State.reversalTest_off]
    exact hoff
  · refine ⟨_, execEncoderStep_raises he hd hr hl hf, by simp, ?_⟩
    obtain ⟨hard, trips, keeps, soft, first, latest⟩ := State.raise_hard_line_unit
      ({ s with web := { s.web with w := s.web.w - 1, reversalRaised := true } } : State)
      (ev := { kind := .webReversal, unit := .line, detail := some (.reverseDistance (s.web.h - (s.web.w - 1)).toNat) }) rfl rfl
    refine ⟨hard, trips, keeps, soft, first, latest, ?_⟩
    rw [State.raise_hard_line_frame _ rfl rfl]
end

section
/-! SUPPORT. A record whose events H has not reached joins and changes nothing else, and the reader moves on to it (R6, R12, R25), with
the statement on edges, window closes and syntheses (O47). -/

namespace Sys2Proof.Machine

/-! ### A join at which nothing is reached (R6, R25) -/

theorem findRecord_append_new {q : SeqNo} {l : List TrackRecord} {r : TrackRecord} (h : ∀ x ∈ l, x.seq ≠ q) (hr : r.seq = q) :
    findRecord q (l ++ [r]) = some r := by
  induction l with
  | nil => exact if_pos hr
  | cons x xs ih =>
    rw [List.cons_append, findRecord, if_neg (h x (by simp))]
    exact ih fun y hy => h y (by simp [hy])

theorem State.commitIfReached_quiet {s : State} {st : Idx} {q : SeqNo} {r : TrackRecord} (hr : s.record q = some r)
    (h : s.commitDue st r = false) : s.commitIfReached st q = s := by
  unfold State.commitIfReached
  rw [hr]
  exact if_neg (by rw [h]; simp)

theorem State.retireRun_quiet {s : State} (h : s.retireDue = false) : s.retireRun = s := by
  unfold State.retireRun
  cases s.track.length with
  | zero => rfl
  | succ n => exact if_neg (by rw [h]; simp)

/-- A record none of whose events H has reached is handed nothing. -/
theorem State.takeReached_quiet {s : State} {q : SeqNo} {r : TrackRecord} (hr : s.record q = some r)
    (hk : ∀ st, s.commitDue st r = false) (hz : reached s.web.h r.z = false) : s.takeReached q = s := by
  have commits : Idx.all.foldl (fun s st => s.commitIfReached st q) s = s := by
    simp only [Idx.all, List.foldl_cons, List.foldl_nil, State.commitIfReached_quiet hr (hk _)]
  unfold State.takeReached
  rw [commits]
  dsimp only
  split
  · rename_i x xs ht
    split
    · rename_i hx
      have head : x = r := by
        rw [State.record, ht, findRecord, if_pos hx] at hr
        exact Option.some.inj hr
      exact State.retireRun_quiet (by rw [State.retireDue, ht]; exact head ▸ hz)
    · rfl
  · rfl

/-- H has reached nothing that a record at `m` schedules under slot `j` (R25). -/
def State.QuietAt (s : State) (j : Slot) (m : Pos) : Prop :=
  (∀ st x, s.entry j st = some x → reached s.web.h (commitPosition x m) = false) ∧
    reached s.web.h (plus m (s.retireDist j)) = false

theorem State.commitDue_newRecord {s t : State} {j : Slot} {x : Handed} (ht : t.web.h = s.web.h) (h : s.QuietAt j x.mark)
    (st : Idx) : t.commitDue st (s.newRecord j x) = false := by
  unfold State.commitDue State.newRecord
  simp only [Four.get_tab]
  cases he : s.entry j st with
  | none => rfl
  | some e => exact ht ▸ h.1 st e he

/-- With room, under the ACTIVE slot and with nothing reached, the record joins at the tail and nothing else happens. -/
theorem State.join_quiet {s : State} {j : Slot} {x : Handed} (ha : s.active = some j) (room : s.track.length < 48)
    (fresh : ∀ r ∈ s.track, r.seq ≠ s.nextSeq) (quiet : s.QuietAt j x.mark) :
    s.join x = s.appendRecord (s.newRecord j x) := by
  unfold State.join
  rw [ha]
  refine (if_neg (Nat.not_le.mpr room)).trans ?_
  have stands : (s.appendRecord (s.newRecord j x)).record s.nextSeq = some (s.newRecord j x) := findRecord_append_new fresh rfl
  exact State.takeReached_quiet stands (State.commitDue_newRecord rfl quiet) quiet.2

/-! ### The ACTIVE slot after a join -/

theorem State.active_appendRecord (s : State) (r : TrackRecord) : (s.appendRecord r).active = s.active := by
  unfold State.active State.appendRecord
  cases r.slot <;> rfl

theorem State.globals_appendRecord (s : State) (r : TrackRecord) (j : Slot) : (s.appendRecord r).globals j = s.globals j := by
  unfold State.globals State.appendRecord
  cases j <;> cases r.slot <;> rfl

theorem State.activeGlobals_of {s : State} {j : Slot} (h : s.active = some j) : s.activeGlobals = s.globals j := by
  rw [State.activeGlobals, h]

/-! ### The reader moves on (R12) -/

/-- The record that an event of the reader makes under slot `j` (R12 step 2, R25). -/
def State.madeRecord (s : State) (j : Slot) (m : Made) : TrackRecord :=
  s.newRecord j { mark := m.mark, origin := m.origin, locked := m.locked, pitch := s.reader.pitchTo m.mark m.origin,
                  eSnap := s.madeStretch m }

/-- Where the reader predicts the next mark after that record (R12 step 4, R21). -/
def State.madePred (s : State) (j : Slot) (m : Made) : Pos := plus m.mark (predictedPitch (s.globals j).p (s.madeStretch m))

/-- The reader after the event (R12 steps 3 to 5). -/
def State.madeReader (s : State) (j : Slot) (m : Made) : Reader :=
  { state := m.state, last := some { mark := m.mark, origin := m.origin, pred := s.madePred j m }, lock := m.lock,
    coast := m.coast, e := s.madeStretch m, event := nextEvent m.state (s.madePred j m) (s.globals j).wWin }

/-- The state in which the record stands at the tail and the reader has moved on to it. -/
def State.madeJoined (s : State) (j : Slot) (m : Made) : State :=
  { s.appendRecord (s.madeRecord j m) with reader := s.madeReader j m }

theorem State.produced_quiet {s : State} {j : Slot} {m : Made} (ha : s.active = some j) (room : s.track.length < 48)
    (fresh : ∀ r ∈ s.track, r.seq ≠ s.nextSeq) (quiet : s.QuietAt j m.mark) : s.produced m = s.madeJoined j m := by
  have joins : ∀ x : Handed, x.mark = m.mark →
      ({ s with reader := { s.reader with e := s.madeStretch m } } : State).join x =
        { s.appendRecord (s.newRecord j x) with reader := { s.reader with e := s.madeStretch m } } := by
    intro x hx
    exact State.join_quiet (s := { s with reader := { s.reader with e := s.madeStretch m } }) ha room fresh (hx ▸ quiet)
  have globals : ∀ (x : TrackRecord) (k : Reader),
      ({ s.appendRecord x with reader := k } : State).activeGlobals = s.globals j := by
    intro x k
    have : (s.appendRecord x).activeGlobals = s.globals j := by
      rw [State.activeGlobals_of ((s.active_appendRecord x).trans ha), State.globals_appendRecord]
    exact this
  unfold State.produced
  rw [joins _ rfl, State.setReader]
  simp only [globals]
  rfl

theorem State.takeReadyReader_quiet {s : State} (h : s.readerDue = false) : s.takeReadyReader = s := by
  have loop : ∀ n, readerLoop n s = s := by
    intro n
    cases n with
    | zero => rfl
    | succ n => exact if_neg (by rw [h]; simp)
  exact loop _

/-- An event of the reader at which H reaches nothing of the new record or of the next prediction ends with the record joined and the
reader on it. -/
theorem State.produce_done {s : State} {j : Slot} {m : Made} (hm : TripsMirrored s) (ha : s.active = some j)
    (room : s.track.length < 48) (fresh : ∀ r ∈ s.track, r.seq ≠ s.nextSeq) (quiet : s.QuietAt j m.mark) (hl : m.lost = false)
    (next : (s.madeJoined j m).readerDue = false) :
    (s.produce m).takeReadyReader.done = .next (s.madeJoined j m) := by
  rw [State.produce_eq, hl, State.produced_quiet ha room fresh quiet]
  refine (congrArg State.done (State.takeReadyReader_quiet next)).trans ?_
  exact State.done_of hm (fun _ => rfl) (fun _ => rfl)

/-! ### The reader's events in LOCKED and SEARCH (R13, R15, R18, R21) -/

theorem execMarkEdge_kept (c : Pos) (s : State) : execMarkEdge c false s = (s.takeEdge c).done := rfl

theorem State.takeEdge_idle {s : State} (c : Pos) (h : s.reader.state = .idle) : s.takeEdge c = s := by
  unfold State.takeEdge
  rw [h]

theorem State.takeEdge_locked {s : State} {l : LastMark} (c : Pos) (hs : s.reader.state = .locked) (hl : s.reader.last = some l) :
    s.takeEdge c = if inWindow c l.pred s.activeGlobals.wWin then
      (s.produce (edgeMade c true true .locked s.reader.lock)).takeReadyReader else s.strayMark c := by
  unfold State.takeEdge
  rw [hs, hl]

theorem execWindowClose_reached {s : State} {l : LastMark} {x : Pos} (he : s.reader.event = some (.windowClose x))
    (hx : reached s.web.h x = true) (hl : s.reader.last = some l) :
    execWindowClose s = (s.produce (closeMade s.reader l.pred s.activeGlobals.coastMax)).takeReadyReader.done := by
  unfold execWindowClose
  rw [he]
  refine (if_pos hx).trans ?_
  rw [State.takeReaderEvent, he, hl]

theorem execSearchSynthesis_reached {s : State} {l : LastMark} {x : Pos} (he : s.reader.event = some (.synthesis x))
    (hx : reached s.web.h x = true) (hl : s.reader.last = some l) :
    execSearchSynthesis s = (s.produce (synthesisMade s.reader l.pred)).takeReadyReader.done := by
  unfold execSearchSynthesis
  rw [he]
  refine (if_pos hx).trans ?_
  rw [State.takeReaderEvent, he, hl]

/-- A mark that is not an edge taken in LOCKED keeps E (R21). -/
theorem State.madeStretch_kept {s : State} {m : Made} (h : m.inLocked = false) : s.madeStretch m = s.reader.e := by
  unfold State.madeStretch
  rw [h]
  split <;> rfl

/-- A synthesised mark has no pitch (R12). -/
theorem Reader.pitchTo_synthesised (r : Reader) (m : Pos) {o : Origin} (h : o ≠ .real) : r.pitchTo m o = none := by
  unfold Reader.pitchTo
  split
  · exact if_neg fun ho => h ho.1
  · rfl

theorem Reader.pitchTo_edge {r : Reader} {l : LastMark} (h : r.last = some l) (m : Pos) :
    r.pitchTo m .real = if l.origin = .real then some (m - l.mark).toNat else none := by
  unfold Reader.pitchTo
  rw [h]
  simp

/-- An edge taken in LOCKED moves E by R21 where it has a pitch. -/
theorem State.madeStretch_edge {s : State} {j : Slot} {l : LastMark} (ha : s.active = some j) (hl : s.reader.last = some l)
    (c : Pos) (lock : Nat) : s.madeStretch (edgeMade c true true .locked lock) =
      if l.origin = .real then stretchUpdate (s.globals j).p (s.globals j).stretchSmooth (c - l.mark).toNat s.reader.e
      else s.reader.e := by
  unfold State.madeStretch edgeMade
  dsimp only
  rw [Reader.pitchTo_edge hl, State.activeGlobals_of ha]
  by_cases h : l.origin = .real
  · rw [if_pos h, if_pos h]; rfl
  · rw [if_neg h, if_neg h]

/-- The stretch update as R21 writes it. -/
theorem stretchUpdate_eq (p k pitch : Nat) (e : Int) : stretchUpdate p k pitch e =
    e + Int.fdiv (max (-32768) (min 32768 (rha (((pitch : Int) - p) * 2 ^ 20) p)) - e) (2 ^ k) := by
  unfold stretchUpdate floorDiv
  rw [Nat.cast_pow]
  rfl

theorem plus_zero (x : Pos) : plus x ((0 : Nat) : Int) = x := by simp [plus]

/-- A stray edge trips no unit. -/
theorem State.strayMark_done {s : State} (hm : TripsMirrored s) (c : Pos) : (s.strayMark c).done = .next (s.strayMark c) :=
  State.done_of hm (fun _ => rfl) fun _ => rfl

theorem State.takeEdge_stray {s : State} {j : Slot} {l : LastMark} {c : Pos} (ha : s.active = some j) (hs : s.reader.state = .locked)
    (hl : s.reader.last = some l) (h : 2 * (s.globals j).wWin < (plus (c - l.pred) (s.globals j).wWin).toNat) :
    s.takeEdge c = s.strayMark c := by
  rw [State.takeEdge_locked c hs hl, State.activeGlobals_of ha]
  exact if_neg (by simpa [inWindow] using h)

theorem State.takeEdge_inside {s : State} {j : Slot} {l : LastMark} {c : Pos} (ha : s.active = some j) (hs : s.reader.state = .locked)
    (hl : s.reader.last = some l) (h : (plus (c - l.pred) (s.globals j).wWin).toNat ≤ 2 * (s.globals j).wWin) :
    s.takeEdge c = (s.produce (edgeMade c true true .locked s.reader.lock)).takeReadyReader := by
  rw [State.takeEdge_locked c hs hl, State.activeGlobals_of ha]
  exact if_pos (by simpa [inWindow] using h)

/-- The window close that the reader schedules is not reached where its position is not. -/
theorem State.madeJoined_windowLater {s : State} {j : Slot} {m : Made} (hs : m.state = .locked ∨ m.state = .coast)
    (h : reached s.web.h (plus (s.madePred j m) (((s.globals j).wWin + 1 : Nat) : Int)) = false) :
    (s.madeJoined j m).readerDue = false := by
  rw [Nat.cast_add_one] at h
  unfold State.readerDue State.madeJoined State.madeReader nextEvent
  rcases hs with hs | hs <;> simp only [hs] <;> exact h

theorem State.madeJoined_synthesisLater {s : State} {j : Slot} {m : Made} (hs : m.state = .search)
    (h : reached s.web.h (s.madePred j m) = false) : (s.madeJoined j m).readerDue = false := by
  unfold State.readerDue State.madeJoined State.madeReader nextEvent
  simp only [hs]
  exact h

/-- The window close in LOCKED that leads to COAST (R15). -/
def coastMade (r : Reader) (pred : Pos) : Made :=
  { mark := pred, origin := .coasted, locked := true, inLocked := false, state := .coast, lock := r.lock, coast := 1, lost := false }

theorem closeMade_locked {r : Reader} (pred : Pos) {n : Nat} (hr : r.state = .locked) (hn : 1 ≤ n) :
    closeMade r pred n = coastMade r pred := by
  have within : ¬ n < 1 := Nat.not_lt.mpr hn
  unfold closeMade coastMade
  rw [hr]
  simp [within]

section
variable {s : State} {j : Slot} {l : LastMark} (hm : TripsMirrored s) (ha : s.active = some j) (hl : s.reader.last = some l)
  (room : s.track.length < 48) (fresh : ∀ r ∈ s.track, r.seq ≠ s.nextSeq)
include hm ha hl room fresh

theorem execMarkEdge_locked {c : Pos} (hs : s.reader.state = .locked)
    (h : (plus (c - l.pred) (s.globals j).wWin).toNat ≤ 2 * (s.globals j).wWin) (quiet : s.QuietAt j c)
    (later : reached s.web.h
      (plus (s.madePred j (edgeMade c true true .locked s.reader.lock)) (((s.globals j).wWin + 1 : Nat) : Int)) = false) :
    execMarkEdge c false s = .next (s.madeJoined j (edgeMade c true true .locked s.reader.lock)) := by
  rw [execMarkEdge_kept, State.takeEdge_inside ha hs hl h]
  exact State.produce_done (m := edgeMade c true true .locked s.reader.lock) hm ha room fresh quiet rfl
    (State.madeJoined_windowLater (.inl rfl) later)

theorem execWindowClose_locked {x : Pos} (hs : s.reader.state = .locked) (he : s.reader.event = some (.windowClose x))
    (hx : reached s.web.h x = true) (hc : 1 ≤ (s.globals j).coastMax) (quiet : s.QuietAt j l.pred)
    (later : reached s.web.h
      (plus (s.madePred j (coastMade s.reader l.pred)) (((s.globals j).wWin + 1 : Nat) : Int)) = false) :
    execWindowClose s = .next (s.madeJoined j (coastMade s.reader l.pred)) := by
  rw [execWindowClose_reached he hx hl, State.activeGlobals_of ha, closeMade_locked _ hs hc]
  exact State.produce_done (m := coastMade s.reader l.pred) hm ha room fresh quiet rfl
    (State.madeJoined_windowLater (.inr rfl) later)

theorem execSearchSynthesis_quiet {x : Pos} (he : s.reader.event = some (.synthesis x)) (hx : reached s.web.h x = true)
    (quiet : s.QuietAt j l.pred) (later : reached s.web.h (s.madePred j (synthesisMade s.reader l.pred)) = false) :
    execSearchSynthesis s = .next (s.madeJoined j (synthesisMade s.reader l.pred)) := by
  rw [execSearchSynthesis_reached he hx hl]
  exact State.produce_done (m := synthesisMade s.reader l.pred) hm ha room fresh quiet rfl
    (State.madeJoined_synthesisLater rfl later)

end

end Sys2Proof.Machine

open Sys2Proof Sys2Proof.Machine

/-- Settles O47: each event of the reader ends in `madeJoined`, whose record and reader are those that the statement writes out. -/
theorem edgesAndWindowsMakeRecords : Obligations.EdgesAndWindowsMakeRecords := by
  refine ⟨fun c s => rfl, fun s j l hm => ⟨fun c idle => ?_, fun ha hl room fresh => ?_⟩⟩
  · refine (congrArg State.done (State.takeEdge_idle c idle)).trans ?_
    exact State.done_of hm (fun _ => rfl) fun _ => rfl
  · refine ⟨fun locked c => ⟨fun inside => ?_, fun outside => ?_⟩, fun x locked he hx coasts quiet => ?_,
      fun x _ he hx quiet => ?_⟩
    · have stretch := State.madeStretch_edge ha hl c s.reader.lock
      have pitch := Reader.pitchTo_edge hl c
      by_cases real : l.origin = .real
      all_goals
        simp only [real, if_true, if_false, ← stretchUpdate_eq] at stretch pitch ⊢
        intro ⟨k, z, next⟩
        refine (execMarkEdge_locked hm ha hl room fresh locked inside ⟨k, z⟩ ?_).trans ?_
        · rw [State.madePred, stretch]
          exact next
        · rw [State.madeJoined, State.madeRecord, State.madeReader, State.madePred, stretch, edgeMade, pitch]
          rfl
    · exact (congrArg State.done (State.takeEdge_stray ha locked hl outside)).trans (State.strayMark_done hm c)
    · obtain ⟨k, z, next⟩ := quiet
      have pitch := s.reader.pitchTo_synthesised l.pred (o := .coasted) (by decide)
      refine (execWindowClose_locked hm ha hl room fresh locked he hx coasts ⟨k, z⟩ ?_).trans ?_
      · rw [State.madePred, State.madeStretch_kept rfl]
        exact next
      · rw [State.madeJoined, State.madeRecord, State.madeReader, State.madePred, State.madeStretch_kept rfl, coastMade, pitch]
        rfl
    · obtain ⟨k, z, next⟩ := quiet
      have pitch := s.reader.pitchTo_synthesised l.pred (o := .lost) (by decide)
      refine (execSearchSynthesis_quiet hm ha hl room fresh he hx ⟨k, z⟩ ?_).trans ?_
      · rw [State.madePred, State.madeStretch_kept rfl]
        exact (congrArg _ (plus_zero _)).symm.trans next
      · rw [State.madeJoined, State.madeRecord, State.madeReader, State.madePred, State.madeStretch_kept rfl, synthesisMade,
          pitch]
        rfl
end

section
/-! SUPPORT. Why the statement about ACQUIRE, COAST and SEARCH fails: a converted record keeps the K of a station that its slot has no
entry for, and the commit that H has reached there is taken at once (R28, O48). -/

namespace Sys2Proof.Machine

/-- A LOST record at 0, PENDING at S0 with K at 0, whose other stations were absent at its join. -/
def lostTail : TrackRecord :=
  { seq := 0, mark := 0, origin := .lost, locked := false, pitch := none, eSnap := 0, slot := .slot0, flagged := false,
    watchMark := .all false, firstOff := .all (.all false), verdict := .all none,
    st := (Four.all { k := none, decision := .pass, status := .passed, target := none, feed := none, report := none }).set .i0
      { k := some 0, decision := .none, status := .pending, target := none, feed := none, report := none },
    z := 1000 }

/-- In SEARCH with that record at the tail, H at its K, and an ACTIVE slot whose job has no station. -/
def searchAtLostTail : State :=
  { State.reset with
    reader := { Reader.reset with state := .search }
    track := [lostTail], nextSeq := 1
    slots := ⟨{ JobSlot.reset with state := .active, job := some .blank, refs := 1, retireDist := some 1000 }, .reset⟩ }

theorem searchAtLostTail_mirrored : TripsMirrored searchAtLostTail := by
  intro st
  cases st <;> rfl

theorem searchAtLostTail_entry (st : Idx) : searchAtLostTail.entry lostTail.slot st = none := by
  cases st <;> rfl

/-- Nothing is reached that the entries of the record's slot schedule. -/
theorem searchAtLostTail_ahead :
    (∀ st x, searchAtLostTail.entry lostTail.slot st = some x →
      reached searchAtLostTail.web.h (plus 0 ((x.d : Int) - x.lead)) = false) ∧
    reached searchAtLostTail.web.h (plus 0 ((searchAtLostTail.slots.get lostTail.slot).retireDist.getD 0)) = false := by
  refine ⟨fun st x h => ?_, by decide⟩
  rw [searchAtLostTail_entry] at h
  cases h

theorem lostTail_pending (st : Idx) : (lostTail.st.get st).k = none ∨ (lostTail.st.get st).status = .pending := by
  cases st with
  | i0 => exact .inr rfl
  | i1 | i2 | i3 => exact .inl rfl

/-- The edge converts the record, keeps its K at S0, and H has reached it: the commit outside of RUN is MISSED (R28, R64). -/
theorem markEdge_searchAtLostTail :
    ∃ t, exec (.markEdge 0 false) searchAtLostTail = .next t ∧
      t.track.map (fun r => (r.origin, (r.st.get .i0).status)) = [(.real, .missed)] :=
  ⟨(searchAtLostTail.takeEdge 0).settleTrips, rfl, by decide +kernel⟩

end Sys2Proof.Machine

open Sys2Proof Sys2Proof.Machine

/-- Refutes O48: in the clause on a LOST tail, the commit positions named are those of the slot's entries, but a station without an
entry keeps its own K at the conversion; where H has reached it the record is committed there, and does not stay PENDING. -/
theorem not_edgesAcquireCoastAndRestart : ¬ Obligations.EdgesAcquireCoastAndRestart := by
  intro h
  obtain ⟨-, converts, -⟩ := h searchAtLostTail .slot0 searchAtLostTail_mirrored (by decide) (by decide)
  have claimed := converts 0 lostTail [] rfl rfl (by simp) rfl (by decide) lostTail_pending searchAtLostTail_ahead (by decide)
  obtain ⟨t, ran, missed⟩ := markEdge_searchAtLostTail
  rw [claimed] at ran
  cases ran
  exact absurd missed (by decide +kernel)
end

section
/-! SUPPORT. The order of the track and the counts of the job slots (R23, R177, R178): what they are read off, the changes that touch
it, and each shared operation with what it keeps of them. -/

namespace Sys2Proof.Machine

/-! ### What the order and the counts are read off -/

/-- The track in order and the references of the slots counted (R23, R177, R178). -/
def TrackSound (s : State) : Prop := TrackOrdered s ∧ SlotsReferenced s

/-- What of a record its place in the track and its slot's count are read off. -/
def TrackRecord.place (r : TrackRecord) : SeqNo × Slot := (r.seq, r.slot)

/-- What of a job slot its references are judged by. -/
def JobSlot.tally (sl : JobSlot) : SlotState × Nat := (sl.state, sl.refs)

/-- The places of the track, next seq, and the two slots' states and counts. -/
def State.ledger (s : State) : List (SeqNo × Slot) × SeqNo × (SlotState × Nat) × (SlotState × Nat) :=
  (s.track.map TrackRecord.place, s.nextSeq, s.slots.s0.tally, s.slots.s1.tally)

theorem State.ledger_eq_iff {s t : State} : t.ledger = s.ledger ↔ t.track.map TrackRecord.place = s.track.map TrackRecord.place ∧
    t.nextSeq = s.nextSeq ∧ ∀ j, (t.slots.get j).tally = (s.slots.get j).tally := by
  simp only [State.ledger, Prod.mk.injEq]
  refine and_congr_right fun _ => and_congr_right fun _ => ⟨fun ⟨h0, h1⟩ j => ?_, fun h => ⟨h .slot0, h .slot1⟩⟩
  cases j <;> assumption

theorem places_seqs (l : List TrackRecord) : l.map (·.seq) = (l.map TrackRecord.place).map (·.1) := by
  rw [List.map_map]; rfl

/-- The references of a slot, read off the places of the track. -/
theorem State.references_eq (s : State) (j : Slot) :
    s.references j = (s.track.map TrackRecord.place).countP fun p => decide (p.2 = j) := by
  rw [State.references, ← List.countP_eq_length_filter, List.countP_map]; rfl

theorem TrackSound.of_ledger {s t : State} (h : t.ledger = s.ledger) (hs : TrackSound s) : TrackSound t := by
  obtain ⟨places, next, tally⟩ := State.ledger_eq_iff.1 h
  obtain ⟨⟨room, seqs⟩, counted, inUse, one⟩ := hs
  have len : t.track.length = s.track.length := by simpa using congrArg List.length places
  have state : ∀ j, (t.slots.get j).state = (s.slots.get j).state := fun j => congrArg (·.1) (tally j)
  have refs : ∀ j, (t.slots.get j).refs = (s.slots.get j).refs := fun j => congrArg (·.2) (tally j)
  refine ⟨⟨len ▸ room, ?_⟩, fun j => ?_, fun j hj => ?_, ?_⟩
  · rw [places_seqs, places, ← places_seqs, len, next]; exact seqs
  · rw [refs, counted, State.references_eq, State.references_eq, places]
  · rw [state]; exact inUse j (refs j ▸ hj)
  · have h0 := state .slot0
    have h1 := state .slot1
    simp only [Two.get] at h0 h1
    rw [h0, h1]; exact one

/-! ### What a change keeps -/

/-- A change keeps the order of the track and the counts. -/
def TrackKept (s t : State) : Prop := TrackSound s → TrackSound t

theorem TrackKept.refl (s : State) : TrackKept s s := id

theorem TrackKept.trans {s t u : State} (a : TrackKept s t) (b : TrackKept t u) : TrackKept s u := fun h => b (a h)

theorem TrackKept.foldl {α : Type} (g : State → α → State) (h : ∀ s x, TrackKept s (g s x)) (l : List α) (s : State) :
    TrackKept s (l.foldl g s) := by
  induction l generalizing s with
  | nil => exact .refl s
  | cons x xs ih => exact (h s x).trans (ih _)

theorem TrackKept.of_ledger {s t : State} (h : t.ledger = s.ledger) : TrackKept s t := TrackSound.of_ledger h

/-- A change of other parts of the state. -/
theorem TrackKept.of_same {s t : State} (ht : t.track = s.track) (hn : t.nextSeq = s.nextSeq) (hs : t.slots = s.slots) :
    TrackKept s t := .of_ledger (by rw [State.ledger, State.ledger, ht, hn, hs])

theorem map_place_of_keys {k l : List TrackRecord} (h : k.map recordKey = l.map recordKey) :
    k.map TrackRecord.place = l.map TrackRecord.place := by
  have place : TrackRecord.place = (fun x : SeqNo × Slot × Four (Option Verdict) => (x.1, x.2.1)) ∘ recordKey := rfl
  rw [place, ← List.map_map, ← List.map_map, h]

theorem JobSlot.tally_of_key {a b : JobSlot} (h : slotKey b = slotKey a) : b.tally = a.tally :=
  congrArg (fun x => (x.1, x.2.1)) h

theorem Within.trackKept {s t : State} (w : Within s t) : TrackKept s t :=
  .of_ledger (State.ledger_eq_iff.2 ⟨map_place_of_keys w.keys, w.next, fun j => JobSlot.tally_of_key (w.slots j)⟩)

theorem Settled.trackKept {s t : State} (w : Settled s t) : TrackKept s t :=
  .of_ledger (State.ledger_eq_iff.2 ⟨map_place_of_keys w.keys, w.next, fun j => JobSlot.tally_of_key (w.slots j)⟩)

/-- A command ends in one state. -/
theorem TrackKept.next {s t u : State} (h : TrackKept s t) (e : (.next t : Outcome State) = .next u) : TrackKept s u := by
  cases e; exact h

theorem TrackKept.done {s t u : State} (h : TrackKept s t) (e : t.done = .next u) : TrackKept s u :=
  (h.trans t.settleTrips_settled.trackKept).next e

/-- One record changed in other fields than its seq and slot. -/
theorem State.updRecord_trackKept (s : State) (q : SeqNo) {f : TrackRecord → TrackRecord} (h : ∀ r, (f r).place = r.place) :
    TrackKept s (s.updRecord q f) := by
  refine .of_ledger (State.ledger_eq_iff.2 ⟨?_, rfl, fun _ => rfl⟩)
  rw [State.updRecord, List.map_map]
  refine List.map_congr_left fun r _ => ?_
  simp only [Function.comp]
  split
  · exact h r
  · rfl

/-- One job slot changed: its count stays, and so do the rules on its state. -/
theorem State.updSlot_trackKept (s : State) (j : Slot) {f : JobSlot → JobSlot} (hr : (f (s.slots.get j)).refs = (s.slots.get j).refs)
    (hu : 0 < (s.slots.get j).refs → (f (s.slots.get j)).state = .active ∨ (f (s.slots.get j)).state = .retiring)
    (ha : (f (s.slots.get j)).state = .active → (s.slots.get j.other).state ≠ .active) : TrackKept s (s.updSlot j f) := by
  intro ⟨ordered, counted, inUse, one⟩
  have slots : ∀ i, (s.updSlot j f).slots.get i = if i = j then f (s.slots.get j) else s.slots.get i := fun i =>
    Two.get_upd s.slots j i f
  have refs : ∀ i, ((s.updSlot j f).slots.get i).refs = (s.slots.get i).refs := by
    intro i
    rw [slots]
    split
    · subst i; exact hr
    · rfl
  refine ⟨ordered, fun i => (refs i).trans (counted i), fun i hi => ?_, ?_⟩
  · rw [refs] at hi
    rw [slots]
    split
    · subst i; exact hu hi
    · exact inUse i hi
  · cases j with
    | slot0 => exact ha
    | slot1 => exact fun h h' => ha h' h

end Sys2Proof.Machine
end

section
/-! SUPPORT. What joining and leaving do to the track and the counts (R23, R25, R30, R178), and the operations built on them. -/

namespace Sys2Proof.Machine

/-! ### Joining (R23, R25) -/

/-- A run one longer has one more seq at its end. -/
theorem seqRun_succ_last (q : SeqNo) (n : Nat) : seqRun q (n + 1) = seqRun q n ++ [q + BitVec.ofNat 16 n] := by
  induction n generalizing q with
  | zero => simp [seqRun]
  | succ n ih =>
    rw [seqRun, ih (q + 1), seqRun, List.cons_append]
    congr 3
    bv_omega

theorem State.slots_appendRecord (s : State) (r : TrackRecord) :
    (s.appendRecord r).slots = s.slots.upd r.slot fun sl => { sl with refs := sl.refs + 1 } := rfl

/-- A record with the next seq joins under the ACTIVE slot. -/
theorem State.appendRecord_trackSound {s : State} {r : TrackRecord} (room : s.track.length < Config.trackCapacity)
    (hq : r.seq = s.nextSeq) (ha : (s.slots.get r.slot).state = .active) (h : TrackSound s) : TrackSound (s.appendRecord r) := by
  obtain ⟨⟨-, seqs⟩, counted, inUse, one⟩ := h
  have track : (s.appendRecord r).track = s.track ++ [r] := rfl
  have next : (s.appendRecord r).nextSeq = s.nextSeq + 1 := rfl
  have states : ∀ j, ((s.appendRecord r).slots.get j).state = (s.slots.get j).state := by
    intro j
    rw [State.slots_appendRecord, Two.get_upd]
    split
    · subst j; rfl
    · rfl
  refine ⟨⟨?_, ?_⟩, fun j => ?_, fun j hj => ?_, ?_⟩
  · rw [track, List.length_append]; exact room
  · have first : s.nextSeq + 1 - BitVec.ofNat 16 (s.track.length + 1) = s.nextSeq - BitVec.ofNat 16 s.track.length := by bv_omega
    have last : s.nextSeq - BitVec.ofNat 16 s.track.length + BitVec.ofNat 16 s.track.length = s.nextSeq := by bv_omega
    rw [track, next, List.length_append, List.length_singleton, first, seqRun_succ_last, last, List.map_append, seqs]
    simp [hq]
  · rw [State.references_eq, track, State.slots_appendRecord, Two.get_upd, List.map_append, List.countP_append,
      ← State.references_eq, ← counted]
    by_cases hj : j = r.slot
    · subst hj; simp [TrackRecord.place]
    · simp [TrackRecord.place, hj, Ne.symm hj]
  · rw [states]
    by_cases he : j = r.slot
    · subst he; exact .inl ha
    · rw [State.slots_appendRecord, Two.get_upd, if_neg he] at hj
      exact inUse j hj
  · have h0 := states .slot0
    have h1 := states .slot1
    simp only [Two.get] at h0 h1
    rw [h0, h1]; exact one

/-! ### Leaving (R30, R31, R178) -/

/-- The state in which the head has been handed to the stations' sequencers and lanes (R31 step 1). -/
def State.headSettled (s : State) (r : TrackRecord) (rs : List TrackRecord) (final : Status) : State :=
  Idx.all.foldl (fun s st => s.leaveStation r st) { s with track := r.finalize final :: rs }

/-- A slot that a record references no more (R178). -/
def JobSlot.released (sl : JobSlot) : JobSlot :=
  { sl with refs := sl.refs - 1, state := if sl.refs - 1 = 0 ∧ sl.state = .retiring then .ready else sl.state }

theorem State.leaveHead_cons {s : State} {r : TrackRecord} {rs : List TrackRecord} (h : s.track = r :: rs) (final : Status) :
    s.leaveHead final = ((({ s.headSettled r rs final with track := rs } : State).appendOutcome
      (({ s.headSettled r rs final with track := rs } : State).outcomeOf (r.finalize final))).dropRef r.slot).disarmFor r.seq := by
  unfold State.leaveHead
  rw [h]
  rfl

theorem State.leaveHead_nil {s : State} (h : s.track = []) (final : Status) : s.leaveHead final = s := by
  unfold State.leaveHead
  rw [h]

theorem State.headSettled_within (s : State) (r : TrackRecord) (rs : List TrackRecord) (final : Status) :
    Within { s with track := r.finalize final :: rs } (s.headSettled r rs final) :=
  Within.foldl _ (fun s st => s.leaveStation_within r st) _ _

theorem State.leaveHead_track {s : State} {r : TrackRecord} {rs : List TrackRecord} (h : s.track = r :: rs) (final : Status) :
    (s.leaveHead final).track = rs := by
  rw [State.leaveHead_cons h]
  simp

theorem State.leaveHead_slots {s : State} {r : TrackRecord} {rs : List TrackRecord} (h : s.track = r :: rs) (final : Status) :
    (s.leaveHead final).slots = (s.headSettled r rs final).slots.upd r.slot JobSlot.released := by
  rw [State.leaveHead_cons h]
  simp only [State.dropRef, State.disarmFor_frame, State.appendOutcome_frame]
  rfl

/-- Of a leaving head's slot the count falls by one, and a RETIRING slot that none references becomes READY; the other slot keeps
its state and count. -/
theorem State.leaveHead_tally {s : State} {r : TrackRecord} {rs : List TrackRecord} (h : s.track = r :: rs) (final : Status)
    (j : Slot) : ((s.leaveHead final).slots.get j).tally =
      (if j = r.slot then (s.slots.get j).released else s.slots.get j).tally := by
  have kept : ∀ i, ((s.headSettled r rs final).slots.get i).tally = (s.slots.get i).tally := fun i =>
    JobSlot.tally_of_key ((s.headSettled_within r rs final).slots i)
  rw [State.leaveHead_slots h, Two.get_upd]
  split
  · subst j
    have k := kept r.slot
    simp only [JobSlot.tally, Prod.mk.injEq] at k
    obtain ⟨state, refs⟩ := k
    simp only [JobSlot.tally, JobSlot.released, state, refs]
  · exact kept j

theorem State.leaveHead_trackKept (s : State) (final : Status) : TrackKept s (s.leaveHead final) := by
  cases h : s.track with
  | nil => rw [State.leaveHead_nil h]; exact .refl s
  | cons r rs =>
    intro ⟨⟨room, seqs⟩, counted, inUse, one⟩
    have track := State.leaveHead_track h final
    have next : (s.leaveHead final).nextSeq = s.nextSeq := by simp
    have state : ∀ j, ((s.leaveHead final).slots.get j).state =
        (if j = r.slot then (s.slots.get j).released else s.slots.get j).state :=
      fun j => congrArg (·.1) (State.leaveHead_tally h final j)
    have refs : ∀ j, ((s.leaveHead final).slots.get j).refs =
        (if j = r.slot then (s.slots.get j).released else s.slots.get j).refs :=
      fun j => congrArg (·.2) (State.leaveHead_tally h final j)
    have active : ∀ j, ((s.leaveHead final).slots.get j).state = .active → (s.slots.get j).state = .active := by
      intro j hj
      rw [state] at hj
      split at hj
      · unfold JobSlot.released at hj
        dsimp only at hj
        split at hj
        · cases hj
        · exact hj
      · exact hj
    rw [h, List.length_cons] at room seqs
    refine ⟨⟨?_, ?_⟩, fun j => ?_, fun j hj => ?_, fun h0 h1 => ?_⟩
    · rw [track]; omega
    · have first : s.nextSeq - BitVec.ofNat 16 (rs.length + 1) + 1 = s.nextSeq - BitVec.ofNat 16 rs.length := by bv_omega
      rw [seqRun, first, List.map_cons] at seqs
      rw [track, next]
      exact (List.cons.inj seqs).2
    · have c := counted j
      rw [State.references_eq, h, List.map_cons, List.countP_cons] at c
      rw [refs, State.references_eq, track]
      by_cases hj : j = r.slot
      · subst hj
        simp only [TrackRecord.place, decide_true, if_true] at c
        rw [if_pos rfl, JobSlot.released, c]
        exact Nat.add_sub_cancel _ 1
      · simpa [TrackRecord.place, hj, Ne.symm hj] using c
    · rw [refs] at hj
      rw [state]
      split at hj
      · subst j
        rw [if_pos rfl]
        have left : (s.slots.get r.slot).refs - 1 ≠ 0 := Nat.pos_iff_ne_zero.1 hj
        simp only [JobSlot.released, left, false_and, if_false]
        exact inUse r.slot (by omega)
      · rw [if_neg ‹_›]; exact inUse j hj
    · exact one (active .slot0 h0) (active .slot1 h1)

theorem retireLoop_trackKept (n : Nat) (s : State) : TrackKept s (retireLoop n s) := by
  induction n generalizing s with
  | zero => exact .refl s
  | succ n ih =>
    unfold retireLoop
    split
    · exact (s.leaveHead_trackKept _).trans (ih _)
    · exact .refl s

theorem State.retireRun_trackKept (s : State) : TrackKept s s.retireRun := retireLoop_trackKept _ s

theorem emptyLoop_trackKept (n : Nat) (s : State) : TrackKept s (emptyLoop n s) := by
  induction n generalizing s with
  | zero => exact .refl s
  | succ n ih => exact (s.leaveHead_trackKept _).trans (ih _)

theorem State.emptyTrack_trackKept (s : State) : TrackKept s s.emptyTrack := emptyLoop_trackKept _ s

/-! ### Records made and converted (R12, R25 to R28) -/

theorem State.commitIfReached_trackKept (s : State) (st : Idx) (q : SeqNo) : TrackKept s (s.commitIfReached st q) := by
  obtain ⟨-, keys, next, slots⟩ := s.commitIfReached_calm st q
  exact .of_ledger (State.ledger_eq_iff.2 ⟨map_place_of_keys keys, next, fun j => JobSlot.tally_of_key (slots j)⟩)

theorem State.takeReached_trackKept (s : State) (q : SeqNo) : TrackKept s (s.takeReached q) := by
  unfold State.takeReached
  have commits := TrackKept.foldl _ (fun s st => State.commitIfReached_trackKept s st q) Idx.all s
  dsimp only
  split
  · split
    · exact commits.trans (State.retireRun_trackKept _)
    · exact commits
  · exact commits

theorem State.join_trackKept (s : State) (x : Handed) : TrackKept s (s.join x) := by
  unfold State.join
  split
  · exact .refl s
  · rename_i j ha
    split
    · exact ((s.raise_within _).trans (State.assertStop_within _ _)).trackKept
    · rename_i room
      intro h
      refine State.takeReached_trackKept _ _ ?_
      exact State.appendRecord_trackSound (r := s.newRecord j x) (Nat.not_le.1 room) rfl (State.active_eq_some ha) h

theorem State.convert_trackKept (s : State) (q : SeqNo) (c : Pos) : TrackKept s (s.convert q c) := by
  unfold State.convert
  refine TrackKept.trans (State.updRecord_trackKept _ _ ?_) (State.takeReached_trackKept _ _)
  exact fun _ => rfl

theorem State.setReader_trackKept (s : State) (m : Pos) (o : Origin) (st : ReaderState) (l c : Nat) :
    TrackKept s (s.setReader m o st l c) := (s.setReader_within m o st l c).trackKept

theorem State.produce_trackKept (s : State) (m : Made) : TrackKept s (s.produce m) := by
  have made : TrackKept s (s.produced m) := by
    unfold State.produced
    exact ((State.reader_within s _).trackKept.trans (State.join_trackKept _ _)).trans (State.setReader_trackKept _ _ _ _ _ _)
  rw [State.produce_eq]
  split
  · exact made.trans (State.raise_within _ _).trackKept
  · exact made

theorem State.takeReaderEvent_trackKept (s : State) : TrackKept s s.takeReaderEvent := by
  unfold State.takeReaderEvent
  split
  · exact s.produce_trackKept _
  · exact s.produce_trackKept _
  · exact .refl s

theorem readerLoop_trackKept (n : Nat) (s : State) : TrackKept s (readerLoop n s) := by
  induction n generalizing s with
  | zero => exact .refl s
  | succ n ih =>
    unfold readerLoop
    split
    · exact s.takeReaderEvent_trackKept.trans (ih _)
    · exact .refl s

theorem State.takeReadyReader_trackKept (s : State) : TrackKept s s.takeReadyReader := readerLoop_trackKept _ s

theorem State.takeReaderEvents_trackKept (s : State) : TrackKept s s.takeReaderEvent.takeReadyReader :=
  s.takeReaderEvent_trackKept.trans (State.takeReadyReader_trackKept _)

theorem State.restartAt_trackKept (s : State) (c : Pos) : TrackKept s (s.restartAt c) := by
  unfold State.restartAt
  split
  · split
    · exact (s.convert_trackKept _ _).trans (State.setReader_trackKept _ _ _ _ _ _)
    · exact s.produce_trackKept _
  · exact s.produce_trackKept _

theorem State.takeEdge_trackKept (s : State) (c : Pos) : TrackKept s (s.takeEdge c) := by
  have window : ∀ (b : Bool) (m : Made), TrackKept s (if b then (s.produce m).takeReadyReader else s.strayMark c) := by
    intro b m
    split
    · exact (s.produce_trackKept m).trans (State.takeReadyReader_trackKept _)
    · exact (s.strayMark_within c).trackKept
  unfold State.takeEdge
  split
  · exact .refl s
  · exact (s.restartAt_trackKept c).trans (State.takeReadyReader_trackKept _)
  · exact (s.produce_trackKept _).trans (State.takeReadyReader_trackKept _)
  · exact window _ _
  · exact window _ _
  · exact window _ _
  · exact .refl s
  · exact .refl s

end Sys2Proof.Machine
end

section
/-! SUPPORT. What the requests and the commands keep of the order of the track and the counts of the slots, with the statement that every
step keeps both (O57). -/

namespace Sys2Proof.Machine

/-! ### Serving a request (R188, R189) -/

theorem State.updPort_trackKept (s : State) (p : Port) (f : PortState → PortState) : TrackKept s (s.updPort p f) :=
  .of_same rfl rfl rfl

theorem State.serve_trackKept (s : State) (hdr : ReqHdr) (make : ReqHdr → Instr) (code : Byte) {take : State → State × Answer}
    (h : ∀ s, TrackKept s (take s).1) : TrackKept s (s.serve hdr make code take) := by
  have answer : TrackKept s (s.answer hdr code take) := ((s.updPort_trackKept _ _).trans (h _)).trans (State.updPort_trackKept _ _ _)
  unfold State.serve
  dsimp only
  split
  · exact .refl s
  · split
    · split
      · exact s.updPort_trackKept _ _
      · exact s.updPort_trackKept _ _
    · split
      · exact answer
      · exact s.updPort_trackKept _ _
    · split
      · exact answer
      · exact .refl s

theorem lineOnly_trackKept {hdr : ReqHdr} {take : State → State × Answer} (h : ∀ s, TrackKept s (take s).1) (s : State) :
    TrackKept s (lineOnly hdr take s).1 := by
  unfold lineOnly
  split
  · exact h s
  · exact .refl s

theorem lineRequest_trackKept {hdr : ReqHdr} {take : State → State × Answer} (h : ∀ s, TrackKept s (take s).1) (s : State) :
    TrackKept s (lineRequest hdr take s).1 := by
  unfold lineRequest
  split
  · exact h s
  · exact .refl s

/-! ### Line requests (R135 to R150) -/

theorem State.stopLine_trackKept (s : State) : TrackKept s s.stopLine :=
  ((s.line_within .stopped).trackKept.trans (State.emptyTrack_trackKept _)).trans (.of_same rfl rfl rfl)

theorem State.resetStation_trackKept (s : State) (st : Idx) : TrackKept s (s.resetStation st) := by
  unfold State.resetStation
  exact ((s.missInFlight_within st).trans (State.emptyOverdue_within _ st)).trackKept.trans (.of_same rfl rfl rfl)

theorem State.resetLine_trackKept (s : State) : TrackKept s s.resetLine := by
  have emptied : ∀ t : State, TrackKept t { t with reader := .reset, splices := [] } := fun _ => .of_same rfl rfl rfl
  have cleared : ∀ t : State, TrackKept t (({ t.dropContexts with units := .all .reset, lineUnit := .reset } : State).deassertStop) :=
    fun _ => .of_same rfl rfl rfl
  unfold State.resetLine
  refine TrackKept.trans ?_ (cleared _)
  exact (s.emptyTrack_trackKept.trans (emptied _)).trans (TrackKept.foldl _ State.resetStation_trackKept Idx.all _)

theorem State.resetOne_trackKept (s : State) (st : Idx) : TrackKept s (s.resetOne st) := by
  unfold State.resetOne
  refine TrackKept.trans (TrackKept.trans ?_ (State.resetStation_trackKept _ st)) (.of_same rfl rfl rfl)
  exact .of_same (by simp) (by simp) (by simp)

theorem State.takeStart_trackKept (s : State) : TrackKept s s.takeStart.1 := by
  unfold State.takeStart
  repeat' split
  all_goals first
    | exact .refl s
    | exact s.startLine_within.trackKept

theorem State.takeHold_trackKept (s : State) : TrackKept s s.takeHold.1 := by
  unfold State.takeHold
  split
  · exact s.enterHold_within.trackKept
  · exact .refl s
  · exact .refl s

theorem State.takeResume_trackKept (s : State) : TrackKept s s.takeResume.1 := by
  unfold State.takeResume
  repeat' split
  all_goals first
    | exact .refl s
    | exact s.resumeLine_within.trackKept

theorem State.takeStop_trackKept (s : State) : TrackKept s s.takeStop.1 := by
  unfold State.takeStop
  repeat' split
  all_goals first
    | exact .refl s
    | exact s.stopLine_trackKept

theorem State.takeLineReset_trackKept (s : State) : TrackKept s s.takeLineReset.1 := by
  unfold State.takeLineReset
  split
  · exact s.resetLine_trackKept
  · exact .refl s

theorem State.takeStationReset_trackKept (b : Byte) (s : State) : TrackKept s (s.takeStationReset b).1 := by
  unfold State.takeStationReset
  repeat' split
  · exact .refl s
  · exact .refl s
  · exact s.resetOne_trackKept _

/-! ### Requests that touch neither the track nor a slot's state -/

/-- What a request leaves of the track and the slots. -/
theorem TrackKept.of_take {s : State} {take : State → State × Answer}
    (h : (take s).1.track = s.track ∧ (take s).1.nextSeq = s.nextSeq ∧ (take s).1.slots = s.slots) : TrackKept s (take s).1 :=
  .of_same h.1 h.2.1 h.2.2

theorem State.takeEditTrim_trackKept (b : Byte) (t : BitVec 16) (s : State) : TrackKept s (s.takeEditTrim b t).1 := by
  refine TrackKept.of_take ?_
  unfold State.takeEditTrim
  (repeat' split) <;> simp

theorem State.takeEditAction_trackKept (b : Byte) (q : SeqNo) (a : Option ResumeAction) (s : State) :
    TrackKept s (s.takeEditAction b q a).1 := by
  refine TrackKept.of_take ?_
  unfold State.takeEditAction
  (repeat' split) <;> simp

theorem State.takeClearFlags_trackKept (b : Byte) (f : FlagSet) (s : State) : TrackKept s (s.takeClearFlags b f).1 := by
  refine TrackKept.of_take ?_
  unfold State.takeClearFlags
  (repeat' split) <;> simp

theorem State.takeSetFlags_trackKept (b : Byte) (f g : FlagSet) (s : State) : TrackKept s (s.takeSetFlags b f g).1 := by
  refine TrackKept.of_take ?_
  unfold State.takeSetFlags
  (repeat' split) <;> simp

theorem State.takeClearFaultRecord_trackKept (b : Byte) (s : State) : TrackKept s (s.takeClearFaultRecord b).1 := by
  refine TrackKept.of_take ?_
  unfold State.takeClearFaultRecord
  (repeat' split) <;> simp

theorem State.takeWriteSettings_trackKept (items : List SettingItem) (s : State) : TrackKept s (s.takeWriteSettings items).1 := by
  refine TrackKept.of_take ?_
  unfold State.takeWriteSettings
  (repeat' split) <;> simp

theorem State.takeEnable_trackKept (p : Port) (b : Byte) (v : Option Bool) (s : State) : TrackKept s (s.takeEnable p b v).1 := by
  refine TrackKept.of_take ?_
  unfold State.takeEnable
  (repeat' split) <;> simp

theorem State.takeClearHit_trackKept (p : Port) (b : Byte) (s : State) : TrackKept s (s.takeClearHit p b).1 := by
  refine TrackKept.of_take ?_
  unfold State.takeClearHit
  (repeat' split) <;> simp

theorem State.takeRelease_trackKept (p : Port) (b : Byte) (s : State) : TrackKept s (s.takeRelease p b).1 := by
  refine TrackKept.of_take ?_
  unfold State.takeRelease
  (repeat' split) <;> simp

theorem State.takeSetRouting_trackKept (p : Port) (k : BitVec 16) (c : Option RouteClass) (s : State) :
    TrackKept s (s.takeSetRouting p k c).1 := by
  refine TrackKept.of_take ?_
  unfold State.takeSetRouting
  (repeat' split) <;> simp

theorem State.takeOutcomes_trackKept (p : Port) (s : State) : TrackKept s (s.takeOutcomes p).1 := by
  refine TrackKept.of_take ?_
  unfold State.takeOutcomes
  split <;> simp

/-! ### Watch units, verdicts, splices and foil (R97, R99, R123, R129, R169) -/

/-- A unit that is met marks at most a record's watch mark. -/
theorem State.meetWatch_trackKept (s : State) (w : Idx) (q : Option SeqNo) : TrackKept s (s.meetWatch w q) := by
  have met : ∀ f, TrackKept s (s.updWatch w f) := fun f => .of_same rfl rfl rfl
  unfold State.meetWatch
  dsimp only
  split
  · split
    · split
      · exact (met _).trans (State.offerTo_within _ _ _).trackKept
      · exact met _
    · split
      · refine (met _).trans (State.updRecord_trackKept _ _ ?_)
        exact fun _ => rfl
      · exact met _
    · exact (met _).trans (State.assertStop_within _ _).trackKept
    · exact met _
  · exact met _

theorem State.takeArm_trackKept (p : Port) (a : Option ArmRequest) (s : State) : TrackKept s (s.takeArm p a).1 := by
  have armed : ∀ (c : WatchCondition) (a : ArmRequest), TrackKept s (s.arm p c a) := by
    intro c a
    have claimed : ∀ f, TrackKept s (s.updWatch a.unit f) := fun f => .of_same rfl rfl rfl
    unfold State.arm
    dsimp only
    split
    · exact (claimed _).trans (State.meetWatch_trackKept _ _ _)
    · exact claimed _
  unfold State.takeArm
  repeat' split
  all_goals first
    | exact .refl s
    | exact armed _ _

theorem State.takePostVerdict_trackKept (p : Port) (q : SeqNo) (cols : Four Bool) (v : Option PostedVerdict) (s : State) :
    TrackKept s (s.takePostVerdict p q cols v).1 := by
  unfold State.takePostVerdict
  split
  · exact .refl s
  split
  · exact .refl s
  split
  · exact .refl s
  · dsimp only
    split
    · exact .refl s
    · refine TrackKept.trans (State.updRecord_trackKept s q ?_)
        (Within.foldl _ (fun s st => State.lateTest_within s _ _ _) _ _).trackKept
      exact fun _ => rfl

theorem State.takeReportSplice_trackKept (p : Port) (c : Pos) (s : State) : TrackKept s (s.takeReportSplice p c).1 := by
  unfold State.takeReportSplice
  split
  · exact .refl s
  · split
    · exact .refl s
    · dsimp only
      split
      · exact .refl s
      · split
        · exact .refl s
        · have flagged : ∀ l x, TrackKept s (({ s with splices := l } : State).flagTrack x) := fun l x =>
            ((s.splices_within l).trans (State.flagTrack_within _ x)).trackKept
          dsimp only
          split
          · exact (flagged _ _).trans (.of_same rfl rfl rfl)
          · exact flagged _ _

theorem State.takeApprove_trackKept (p : Port) (sb cb : Byte) (s : State) : TrackKept s (s.takeApprove p sb cb).1 := by
  unfold State.takeApprove
  repeat' split
  all_goals first
    | exact .refl s
    | exact (s.setDescriptor_within _ _ _ _).trackKept

theorem State.takeFoilRoll_trackKept (p : Port) (sb cb : Byte) (l : BitVec 32) (s : State) :
    TrackKept s (s.takeFoilRoll p sb cb l).1 := by
  unfold State.takeFoilRoll
  repeat' split
  all_goals first
    | exact .refl s
    | exact ((s.updLane_within _ _ _).trans (State.laneChanged_within _ _ _)).trackKept

/-! ### Jobs (R178 to R183) -/

/-- A slot that is neither ACTIVE nor RETIRING is referenced by no record. -/
theorem SlotsReferenced.unreferenced {s : State} (h : SlotsReferenced s) {j : Slot} (ha : (s.slots.get j).state ≠ .active)
    (hr : (s.slots.get j).state ≠ .retiring) : (s.slots.get j).refs = 0 := by
  by_contra used
  rcases h.2.1 j (Nat.pos_of_ne_zero used) with e | e
  · exact ha e
  · exact hr e

/-- A slot that no record references changes and does not become ACTIVE. -/
theorem State.idleSlot_trackKept (s : State) {j : Slot} {f : JobSlot → JobSlot} (ha : (s.slots.get j).state ≠ .active)
    (hr : (s.slots.get j).state ≠ .retiring) (hf : (f (s.slots.get j)).refs = (s.slots.get j).refs)
    (hs : (f (s.slots.get j)).state ≠ .active) : TrackKept s (s.updSlot j f) := by
  intro h
  have none := h.2.unreferenced ha hr
  exact s.updSlot_trackKept j hf (fun used => absurd used (by omega)) (fun e => absurd e hs) h

theorem State.takeBeginJob_trackKept (b : Byte) (src : Option JobSource) (s : State) : TrackKept s (s.takeBeginJob b src).1 := by
  unfold State.takeBeginJob
  repeat' split
  all_goals first
    | exact .refl s
    | exact s.idleSlot_trackKept (by simp_all) (by simp_all) rfl (by simp)

theorem State.updJob_trackKept (s : State) (j : Slot) (f : JobRecord → JobRecord) : TrackKept s (s.updJob j f) := by
  refine .of_ledger (State.ledger_eq_iff.2 ⟨rfl, rfl, fun i => ?_⟩)
  simp only [State.updJob, State.updSlot, Two.get_upd]
  split
  · subst i; rfl
  · rfl

theorem State.takeItemGlobal_trackKept (b : Byte) (i : GlobalItem) (s : State) : TrackKept s (s.takeItemGlobal b i).1 := by
  unfold State.takeItemGlobal
  repeat' split
  all_goals first
    | exact .refl s
    | exact s.updJob_trackKept _ _

theorem State.takeItemStation_trackKept (b sb : Byte) (i : StationItem) (s : State) :
    TrackKept s (s.takeItemStation b sb i).1 := by
  unfold State.takeItemStation
  repeat' split
  all_goals first
    | exact .refl s
    | exact s.updJob_trackKept _ _

theorem State.takeItemZone_trackKept (b sb zb : Byte) (i : ZoneItem) (s : State) : TrackKept s (s.takeItemZone b sb zb i).1 := by
  unfold State.takeItemZone
  repeat' split
  all_goals first
    | exact .refl s
    | exact s.updJob_trackKept _ _

theorem State.takeItemLane_trackKept (b sb cb : Byte) (k : Option LaneCode) (lf gf : BitVec 16) (s : State) :
    TrackKept s (s.takeItemLane b sb cb k lf gf).1 := by
  unfold State.takeItemLane
  repeat' split
  all_goals first
    | exact .refl s
    | exact s.updJob_trackKept _ _

theorem State.takeItemRemove_trackKept (b sb : Byte) (s : State) : TrackKept s (s.takeItemRemove b sb).1 := by
  unfold State.takeItemRemove
  repeat' split
  all_goals first
    | exact .refl s
    | exact s.updJob_trackKept _ _

theorem State.loading_state {s : State} {j : Slot} (h : s.loading j = true) : (s.slots.get j).state = .loading :=
  of_decide_eq_true h

theorem State.takeCheckJob_trackKept (b : Byte) (s : State) : TrackKept s (s.takeCheckJob b).1 := by
  unfold State.takeCheckJob
  split
  · exact .refl s
  · split
    · rename_i hl
      have state := State.loading_state hl
      split
      · exact s.idleSlot_trackKept (by simp [state]) (by simp [state]) rfl (by simp)
      · exact s.idleSlot_trackKept (by simp [state]) (by simp [state]) rfl (by simp)
    · exact .refl s

/-- The ACTIVE slot retires with the records that reference it, and any other slot stays (R183 step 1). -/
theorem State.retireSlot_trackKept (s : State) (j : Slot) : TrackKept s (s.updSlot j JobSlot.retired) := by
  intro h
  refine s.updSlot_trackKept j ?_ (fun used => ?_) (fun e => ?_) h
  · unfold JobSlot.retired
    split <;> rfl
  · unfold JobSlot.retired
    split
    · exact .inr (if_neg (by omega))
    · exact h.2.2.1 j used
  · unfold JobSlot.retired at e
    split at e
    · dsimp only at e
      split at e <;> cases e
    · contradiction

theorem JobSlot.retired_ne_active (sl : JobSlot) : sl.retired.state ≠ .active := by
  unfold JobSlot.retired
  split
  · dsimp only
    split <;> simp
  · assumption

/-- Steps 1 and 2 of R183: the other slot retires and the slot becomes ACTIVE. -/
theorem State.activate_trackKept (s : State) (j : Slot) : TrackKept s (s.activate j) := by
  have other : (s.updSlot j.other JobSlot.retired).slots.get j.other = (s.slots.get j.other).retired := by
    simp only [State.updSlot, Two.get_upd_same]
  refine (s.retireSlot_trackKept j.other).trans (State.updSlot_trackKept _ j rfl (fun _ => .inl rfl) fun _ => ?_)
  rw [other]
  exact JobSlot.retired_ne_active _

theorem State.clampTrims_within (s : State) : Within s s.clampTrims :=
  Within.foldl _ (fun s st => s.setTrim_within st _ (natAbs_clampAbs _ _)) _ _

theorem State.switchTo_trackKept (s : State) (j : Slot) : TrackKept s (s.switchTo j) := by
  have disabled : ∀ t : State, TrackKept t t.disableJobWatches := fun _ => .of_same rfl rfl rfl
  have restarted : ∀ t : State, Within t t.restartReader := fun t => t.reader_within _
  unfold State.switchTo
  refine ((s.activate_trackKept j).trans (disabled _)).trans (Within.trackKept ?_)
  exact (((State.clampTrims_within _).trans (restarted _)).trans (State.heatSwitch_within _)).trans (State.offer_within _ _)

theorem State.takeSwitchJob_trackKept (b : Byte) (s : State) : TrackKept s (s.takeSwitchJob b).1 := by
  unfold State.takeSwitchJob
  repeat' split
  all_goals first
    | exact .refl s
    | exact s.switchTo_trackKept _

/-! ### Events -/

theorem execCommit_trackKept {s t : State} {st : Idx} {q : SeqNo} (h : execCommit st q s = .next t) : TrackKept s t := by
  unfold execCommit at h
  split at h
  · split at h
    · exact (s.commitRecord_within _ _).trackKept.done h
    · exact (TrackKept.refl s).next h
  · exact (TrackKept.refl s).next h

theorem execReportDeadline_trackKept {s t : State} {st : Idx} {q : SeqNo} (h : execReportDeadline st q s = .next t) :
    TrackKept s t := by
  unfold execReportDeadline at h
  split at h
  · split at h
    · exact (s.takeDeadline_within _ _).trackKept.done h
    · exact (TrackKept.refl s).next h
  · exact (TrackKept.refl s).next h

theorem execWindowClose_trackKept {s t : State} (h : execWindowClose s = .next t) : TrackKept s t := by
  unfold execWindowClose at h
  split at h
  · split at h
    · exact s.takeReaderEvents_trackKept.done h
    · exact (TrackKept.refl s).next h
  · exact (TrackKept.refl s).next h

theorem execSearchSynthesis_trackKept {s t : State} (h : execSearchSynthesis s = .next t) : TrackKept s t := by
  unfold execSearchSynthesis at h
  split at h
  · split at h
    · exact s.takeReaderEvents_trackKept.done h
    · exact (TrackKept.refl s).next h
  · exact (TrackKept.refl s).next h

theorem execMarkEdge_trackKept {s t : State} {c : Pos} {b : Bool} (h : execMarkEdge c b s = .next t) : TrackKept s t := by
  unfold execMarkEdge at h
  split at h
  · exact (TrackKept.refl s).next h
  · exact (s.takeEdge_trackKept c).done h

theorem execSpliceZoneEnd_trackKept {s t : State} {x : Pos} (h : execSpliceZoneEnd x s = .next t) : TrackKept s t := by
  unfold execSpliceZoneEnd at h
  split at h
  · exact (s.splices_within _).trackKept.next h
  · exact (TrackKept.refl s).next h

theorem execPositionWatch_trackKept {s t : State} {w : Idx} (h : execPositionWatch w s = .next t) : TrackKept s t := by
  refine TrackKept.next ?_ h
  split
  · exact s.meetWatch_trackKept _ _
  · exact .refl s

theorem PositionalEvent.after_trackKept (e : PositionalEvent) (s : State) : TrackKept s (e.after s) := by
  unfold PositionalEvent.after
  split
  · rename_i t h
    cases e with
    | windowClose => exact execWindowClose_trackKept h
    | searchSynthesis => exact execSearchSynthesis_trackKept h
    | spliceZoneEnd x => exact execSpliceZoneEnd_trackKept h
    | reportDeadline st q => exact execReportDeadline_trackKept h
    | commit st q => exact execCommit_trackKept h
    | retire => exact s.retireRun_trackKept.next h
    | positionWatch w => exact execPositionWatch_trackKept h
  · exact .refl s
  · exact .refl s

theorem State.handOver_trackKept (s : State) : TrackKept s s.handOver := fun h =>
  s.handOver_keeps TrackSound (fun e t _ => e.after_trackKept t) h

theorem execEncoderStep_trackKept {s t : State} {ch : EncoderChange} (h : execEncoderStep ch s = .next t) : TrackKept s t := by
  have moved : ∀ w, TrackKept s { s.handOver with web := w } := fun w => s.handOver_trackKept.trans (State.web_within _ w).trackKept
  cases ch with
  | forward => exact (moved _).next h
  | backward => exact ((moved _).trans (State.reversalTest_within _).trackKept).next h
  | bothPhases => exact (TrackKept.refl s).next h

theorem execEstopAsserted_trackKept {s t : State} (h : execEstopAsserted s = .next t) : TrackKept s t := by
  have asserted := (s.estop_within true).trackKept
  unfold execEstopAsserted at h
  dsimp only at h
  split at h
  · exact (asserted.trans (State.enterHold_within _).trackKept).done h
  · exact asserted.next h

theorem trackSound_reset : TrackSound .reset := by
  refine ⟨⟨by decide, by decide⟩, fun j => ?_, fun j => ?_, by decide⟩ <;> cases j <;> decide

theorem execPowerOn_trackKept {s t : State} {b : Bool} (h : execPowerOn b s = .next t) : TrackKept s t := by
  have fresh : TrackKept .reset { State.reset with estop := b, pending := s.pending } := .of_same rfl rfl rfl
  exact TrackKept.next (fun _ => fresh trackSound_reset) h

theorem State.unknownRequest_trackKept (s : State) (hdr : ReqHdr) (code : Byte) : TrackKept s (s.unknownRequest hdr code) := by
  unfold State.unknownRequest
  repeat' split
  · exact s.serve_trackKept _ _ _ (lineOnly_trackKept .refl)
  · exact .refl s
  · exact .of_same rfl rfl rfl

/-! ### Every command -/

theorem exec_trackKept {i : Instr} {s t : State} (h : exec i s = .next t) : TrackKept s t := by
  cases i
  case powerOn => exact execPowerOn_trackKept h
  case encoderStep => exact execEncoderStep_trackKept h
  case speedIntervalEnd => exact (s.web_within _).trackKept.next h
  case markEdge => exact execMarkEdge_trackKept h
  case windowClose => exact execWindowClose_trackKept h
  case searchSynthesis => exact execSearchSynthesis_trackKept h
  case commit => exact execCommit_trackKept h
  case orderAck => exact (s.orderAck_within _ _ _).trackKept.done h
  case ackTimeout => exact (s.ackTimeout_within _).trackKept.done h
  case strikeReport => exact (s.strikeReport_within _ _).trackKept.done h
  case reportDeadline => exact execReportDeadline_trackKept h
  case retire => exact s.retireRun_trackKept.next h
  case spliceZoneEnd => exact execSpliceZoneEnd_trackKept h
  case positionWatch => exact execPositionWatch_trackKept h
  case abortReport => exact (s.abortReport_within _ _ _ _).trackKept.done h
  case abortTimeout => exact (s.abortTimeout_within _).trackKept.done h
  case stationLinkLoss => exact (s.stationLinkLoss_within _).trackKept.done h
  case stationCarrierReturn => exact (TrackKept.of_same (by simp) (by simp) (by simp)).next h
  case stationFrameSent => exact (s.updLink_within _ _).trackKept.next h
  case stationFrameDropped => exact (TrackKept.refl s).next h
  case heatReading => exact (s.heatReading_within _ _).trackKept.done h
  case millisecondTick => exact s.tick_within.trackKept.next h
  case staleHeat => exact (s.staleHeat_within _).trackKept.done h
  case minHoldReached => exact (s.minHold_within _ _).trackKept.next h
  case maxHoldExpiry => exact (s.maxHold_within _ _).trackKept.done h
  case estopAsserted => exact execEstopAsserted_trackKept h
  case estopCleared => exact (s.estop_within false).trackKept.next h
  case portLinkLoss => exact (s.updPort_trackKept _ _).next h
  case portCarrierReturn => exact (s.updPort_trackKept _ _).next h
  case portFrameDropped => exact (TrackKept.refl s).next h
  case unknownRequest => exact (s.unknownRequest_trackKept _ _).next h
  case portReplySent => exact (s.updPort_trackKept _ _).next h
  case start => exact (s.serve_trackKept _ _ _ (lineRequest_trackKept State.takeStart_trackKept)).done h
  case hold => exact (s.serve_trackKept _ _ _ (lineRequest_trackKept State.takeHold_trackKept)).done h
  case resume => exact (s.serve_trackKept _ _ _ (lineRequest_trackKept State.takeResume_trackKept)).done h
  case stop => exact (s.serve_trackKept _ _ _ (lineRequest_trackKept State.takeStop_trackKept)).done h
  case lineReset => exact (s.serve_trackKept _ _ _ (lineRequest_trackKept State.takeLineReset_trackKept)).done h
  case stationReset => exact (s.serve_trackKept _ _ _ (lineRequest_trackKept (State.takeStationReset_trackKept _))).done h
  case editHoldContextTrim => exact (s.serve_trackKept _ _ _ (lineOnly_trackKept (State.takeEditTrim_trackKept _ _))).next h
  case editHoldContextAction => exact (s.serve_trackKept _ _ _ (lineOnly_trackKept (State.takeEditAction_trackKept _ _ _))).next h
  case clearFlags => exact (s.serve_trackKept _ _ _ (lineOnly_trackKept (State.takeClearFlags_trackKept _ _))).next h
  case setFlags => exact (s.serve_trackKept _ _ _ (lineOnly_trackKept (State.takeSetFlags_trackKept _ _ _))).next h
  case clearFaultRecord => exact (s.serve_trackKept _ _ _ (lineOnly_trackKept (State.takeClearFaultRecord_trackKept _))).next h
  case setZoneMask => exact (s.serve_trackKept _ _ _ (lineOnly_trackKept fun s => (s.takeSetZoneMask_within _ _ _).trackKept)).next h
  case finishZone => exact (s.serve_trackKept _ _ _ (lineOnly_trackKept fun s => (s.takeFinishZone_within _ _ _).trackKept)).next h
  case setLowest => exact (s.serve_trackKept _ _ _ (lineOnly_trackKept fun s => (s.takeSetLowest_within _ _).trackKept)).next h
  case beginJob => exact (s.serve_trackKept _ _ _ (lineOnly_trackKept (State.takeBeginJob_trackKept _ _))).next h
  case jobItemGlobal => exact (s.serve_trackKept _ _ _ (lineOnly_trackKept (State.takeItemGlobal_trackKept _ _))).next h
  case jobItemStation => exact (s.serve_trackKept _ _ _ (lineOnly_trackKept (State.takeItemStation_trackKept _ _ _))).next h
  case jobItemZone => exact (s.serve_trackKept _ _ _ (lineOnly_trackKept (State.takeItemZone_trackKept _ _ _ _))).next h
  case jobItemLane => exact (s.serve_trackKept _ _ _ (lineOnly_trackKept (State.takeItemLane_trackKept _ _ _ _ _ _))).next h
  case jobItemRemoveStation => exact (s.serve_trackKept _ _ _ (lineOnly_trackKept (State.takeItemRemove_trackKept _ _))).next h
  case checkJob => exact (s.serve_trackKept _ _ _ (lineOnly_trackKept (State.takeCheckJob_trackKept _))).next h
  case switchJob => exact (s.serve_trackKept _ _ _ (lineOnly_trackKept (State.takeSwitchJob_trackKept _))).next h
  case writeLineSettings => exact (s.serve_trackKept _ _ _ (lineOnly_trackKept (State.takeWriteSettings_trackKept _))).next h
  case postVerdict => exact (s.serve_trackKept _ _ _ (State.takePostVerdict_trackKept _ _ _ _)).next h
  case approveFirstOff => exact (s.serve_trackKept _ _ _ (State.takeApprove_trackKept _ _ _)).next h
  case reportSplice => exact (s.serve_trackKept _ _ _ (State.takeReportSplice_trackKept _ _)).done h
  case reportFoilRoll => exact (s.serve_trackKept _ _ _ (State.takeFoilRoll_trackKept _ _ _ _)).next h
  case armWatch => exact (s.serve_trackKept _ _ _ (State.takeArm_trackKept _ _)).next h
  case enableWatch => exact (s.serve_trackKept _ _ _ (State.takeEnable_trackKept _ _ _)).next h
  case clearWatchHit => exact (s.serve_trackKept _ _ _ (State.takeClearHit_trackKept _ _)).next h
  case releaseWatch => exact (s.serve_trackKept _ _ _ (State.takeRelease_trackKept _ _)).next h
  case readTrack | readStation | readLane | readZone | readLine | readFaultRecord | readWatch =>
    exact (s.serve_trackKept _ _ _ fun s => .refl s).next h
  case takeNotices => exact (s.serve_trackKept _ _ _ fun _ => .of_same rfl rfl rfl).next h
  case setRouting => exact (s.serve_trackKept _ _ _ (State.takeSetRouting_trackKept _ _ _)).next h
  case subscribeOutcomes => exact (s.serve_trackKept _ _ _ fun _ => .of_same rfl rfl rfl).next h
  case takeOutcomes => exact (s.serve_trackKept _ _ _ (State.takeOutcomes_trackKept _)).next h
  case busyAnswer => exact (TrackKept.of_same (by simp) (by simp) (by simp)).next h

theorem step_trackKept {s t : State} (h : step s = .next t) : TrackKept s t := by
  have queue : ∀ cs, TrackKept s { s with pending := cs } := fun _ => .of_same rfl rfl rfl
  unfold step at h
  split at h
  · exact (queue _).trans (exec_trackKept h)
  · split at h
    · exact exec_trackKept h
    · exact (TrackKept.refl s).next h

end Sys2Proof.Machine

open Sys2Proof Sys2Proof.Machine

/-- Settles O57: joining and leaving move the track and the counts together, the job requests change only unreferenced slots or retire
the ACTIVE one, and every other operation leaves the ledger. -/
theorem everyStepKeepsTheTrackAndItsSlots : Obligations.EveryStepKeepsTheTrackAndItsSlots :=
  fun _ _ h ran => step_trackKept ran h

end

section
/-! SUPPORT. The state after reset meets the invariants on orders, trips, notices and watch units, with the statement that it meets them all
(O56). -/

namespace Sys2Proof.Machine

/-- Nothing is in flight after reset, and no foil is reserved (R85, R101). -/
theorem ordersInFlight_reset : OrdersInFlight .reset := by
  intro st
  refine ⟨by cases st <;> decide, by cases st <;> decide, ?_, ?_, ?_⟩
  · intro e he
    cases st <;> cases he
  · intro r hr
    cases hr
  · intro c
    cases st <;> cases c <;> rfl

/-- Nothing is awaited or queued after reset, and no context is held (R85). -/
theorem ordersAwaited_reset : OrdersAwaited .reset := by
  intro st
  have fresh : State.reset.seqr.get st = .reset := Four.get_all _ st
  rw [fresh]
  simp [Sequencer.reset]

theorem watchesOwned_reset : WatchesOwned .reset := fun w _ => Four.get_all _ w

theorem noticesOrdered_reset : NoticesOrdered .reset := by
  intro p
  cases p <;> exact .nil

theorem tripsMirrored_reset : TripsMirrored .reset := by
  intro st
  cases st <;> rfl

end Sys2Proof.Machine

open Sys2Proof Sys2Proof.Machine

/-- Settles O56: the invariants one by one; those of the track and the bounds were shown with their step lemmas. -/
theorem resetMeetsTheInvariants : Obligations.ResetMeetsTheInvariants := by
  obtain ⟨stretch, outcomes, power, overdue, trims, splices⟩ := bounded_reset
  exact ⟨trackSound_reset, ⟨ordersInFlight_reset, ordersAwaited_reset⟩,
    ⟨tripsMirrored_reset, rfl, watchesOwned_reset, noticesOrdered_reset⟩, stretch, outcomes, power, overdue, trims, splices⟩

end

section
/-! SUPPORT. The reads: a request that only looks changes nothing but the transmitter of its port, and the bytes of a READ TRACK reply
are bounded (O23). -/

namespace Sys2Proof.Machine

/-! ### The length of a track record in a frame (R190, R195) -/

@[simp] theorem length_u1 (n : Nat) : (u1 n).length = 1 := rfl
@[simp] theorem length_u2 (n : Nat) : (u2 n).length = 2 := rfl
@[simp] theorem length_u4 (n : Nat) : (u4 n).length = 4 := rfl

theorem length_optB_le {α : Type} {f : α → Bytes} {n : Nat} (hf : ∀ x, (f x).length ≤ n) (o : Option α) :
    (optB f o).length ≤ n + 1 := by
  cases o with
  | none => simp [optB]
  | some x =>
    have := hf x
    simp [optB]; omega

theorem length_four_le {α : Type} {f : α → Bytes} {n : Nat} (hf : ∀ x, (f x).length ≤ n) (x : Four α) :
    (four f x).length ≤ 4 * n := by
  have h0 := hf x.a0
  have h1 := hf x.a1
  have h2 := hf x.a2
  have h3 := hf x.a3
  simp [four, Four.toList]; omega

theorem length_flatMap_le {α : Type} {f : α → Bytes} {n : Nat} (hf : ∀ x, (f x).length ≤ n) (l : List α) :
    (l.flatMap f).length ≤ l.length * n := by
  induction l with
  | nil => simp
  | cons x xs ih =>
    have := hf x
    rw [List.flatMap_cons, List.length_append, List.length_cons, Nat.succ_mul]
    omega

theorem length_posB_le (x : Pos) : (posB x).length ≤ 4 := by simp [posB]

theorem length_reportB_le (r : Report) : (reportB r).length ≤ 12 := by
  have e := length_optB_le (f := i2) (n := 2) (fun x => by simp [i2]) r.e
  have advanced := length_four_le (f := u2) (n := 2) (fun x => by simp) r.advanced
  simp [reportB]; omega

theorem length_slotB (j : Slot) : (slotB j).length = 1 := by cases j <;> rfl

/-- The fields of R24 at their longest, every optional one present. -/
theorem length_trackRecordB_le (r : TrackRecord) : (trackRecordB r).length ≤ 170 := by
  have pitch := length_optB_le (f := u4) (n := 4) (fun _ => by simp) r.pitch
  have verdict := length_four_le (f := optB fun v => u1 (Verdict.ctorIdx v)) (length_optB_le (n := 1) fun _ => by simp) r.verdict
  have k := length_four_le (f := fun f : StationField => optB posB f.k) (fun f => length_optB_le length_posB_le f.k) r.st
  have decision := length_four_le (f := fun f : StationField => u1 f.decision.ctorIdx) (n := 1) (fun _ => by simp) r.st
  have status := length_four_le (f := fun f : StationField => u1 f.status.ctorIdx) (n := 1) (fun _ => by simp) r.st
  have target := length_four_le (f := fun f : StationField => optB posB f.target) (fun f => length_optB_le length_posB_le f.target) r.st
  have feed := length_four_le (f := fun f : StationField => optB (four u2) f.feed)
    (fun f => length_optB_le (length_four_le (n := 2) fun _ => by simp) f.feed) r.st
  have report := length_four_le (f := fun f : StationField => optB reportB f.report)
    (fun f => length_optB_le length_reportB_le f.report) r.st
  have mark := length_posB_le r.mark
  have z := length_posB_le r.z
  simp only [trackRecordB, List.length_append, seqB, flagFirstB, flagB, i4, setB, laneSetB, wideSetB, length_u1, length_u2, length_u4,
    length_slotB]
  omega

theorem length_track_bytes_le (rs : List TrackRecord) : (ReplyBody.track rs).bytes.length ≤ 1 + rs.length * 170 := by
  have := length_flatMap_le length_trackRecordB_le rs
  simp only [ReplyBody.bytes, listB, List.length_append, length_u1]
  omega

/-! ### Reading -/

/-- A read that is taken answers what it sees, where the port's service does not enter into that. -/
theorem State.serve_readOnly {s : State} {hdr : ReqHdr} {make : ReqHdr → Instr} {code : Byte} {look : State → Answer}
    (taken : s.takes hdr make) (blind : look (s.updPort hdr.port PortState.free) = look s) :
    s.serve hdr make code (readOnly look) = s.answered hdr code (look s).result (look s).body := by
  rw [State.serve_taken taken, State.answer_eq]
  simp only [readOnly, blind]
  exact s.reply_free hdr code (look s)

/-- The command of a read that is taken. -/
theorem State.readOnly_next {s t : State} {hdr : ReqHdr} {make : ReqHdr → Instr} {code : Byte} {x : Outcome State}
    (look : State → Answer) (taken : s.takes hdr make) (meaning : x = .next (s.serve hdr make code (readOnly look)))
    (blind : look (s.updPort hdr.port PortState.free) = look s)
    (seen : s.answered hdr code (look s).result (look s).body = t) : x = .next t := by
  rw [meaning, State.serve_readOnly taken blind, seen]

theorem pairOf_eq (a b : Byte) :
    pairOf a b = (idxOf a).bind fun i => (idxOf b).map fun j => (i, j) := by
  unfold pairOf
  cases idxOf a <;> cases idxOf b <;> rfl

theorem State.entry_eq (s : State) (j : Slot) (st : Idx) :
    s.entry j st = (s.slots.get j).job.bind fun r => r.stations.get st := by
  unfold State.entry
  cases (s.slots.get j).job <;> rfl

theorem State.descriptor_eq (s : State) (j : Slot) (st c : Idx) :
    s.descriptor j st c = ((s.entry j st).bind (·.lanes)).map (·.get c) := by
  unfold State.descriptor
  cases s.entry j st <;> rfl

theorem State.zoneParams_eq (s : State) (st z : Idx) :
    s.zoneParams st z = (s.active.bind fun j => s.entry j st).bind fun e =>
      if (e.zones.get z).enabled then some (e.zones.get z) else none := by
  unfold State.zoneParams State.activeEntry
  cases s.active with
  | none => rfl
  | some j =>
    simp only [Option.bind_some]
    cases s.entry j st <;> rfl

/-- The band of R118 without a signed difference: setpoint − band ≤ t is setpoint ≤ t + band. -/
theorem Zone.inBand_eq (q : Zone) (p : ZoneParams) :
    q.inBand p = (decide (q.block = .none) && (q.age.any fun n => decide (n ≤ 500)) && match q.reading with
      | some (.temp n) => decide (p.setpoint ≤ n + p.band ∧ n ≤ p.setpoint + p.band)
      | _ => false) := by
  unfold Zone.inBand
  congr 1
  · cases q.age <;> rfl
  · cases q.reading with
    | none => rfl
    | some x =>
      cases x with
      | openCircuit => rfl
      | temp n => exact decide_eq_decide.2 (by omega)

theorem State.hot_eq (s : State) (st : Idx) :
    s.hot st = Idx.all.all fun z => (s.zoneParams st z).all fun p => (s.zone st z).inBand p := by
  unfold State.hot
  congr 1
  funext z
  cases s.zoneParams st z <;> rfl

/-- READ ZONE as R102 and R118 list it. -/
theorem State.zoneView_eq (s : State) (st z : Idx) :
    s.zoneView st z =
      let enabled (b : Idx) : Option ZoneParams :=
        (s.active.bind fun j => s.entry j st).bind fun e => if (e.zones.get b).enabled then some (e.zones.get b) else none
      { zone := (s.heat.zones.get st).get z, stale := s.heat.stale.get st, onSet := s.heat.onSet.get st,
        rank := s.heat.order.idxOf (st, z) + 1, params := enabled z,
        hot := Idx.all.all fun b => (enabled b).all fun p => ((s.heat.zones.get st).get b).inBand p } := by
  simp only [State.zoneView, State.hot_eq, State.zoneParams_eq] <;> rfl

end Sys2Proof.Machine

open Sys2Proof Sys2Proof.Machine

/-- Settles O23: each read only looks, and what it looks at is the listed view; a record takes at most 170 bytes. -/
theorem readsAnswerWhatStands : Obligations.ReadsAnswerWhatStands := by
  refine ⟨fun rs short => ?_, fun hdr q ib cb s => ⟨?_, ?_, ?_, ?_, ?_, ?_, ?_⟩⟩
  · have := length_track_bytes_le rs
    omega
  · intro taken
    refine State.readOnly_next (State.lookTrack q) taken rfl rfl ?_
    unfold State.lookTrack
    cases s.record q <;> rfl
  · intro taken
    refine State.readOnly_next (State.lookStation ib) taken rfl rfl ?_
    unfold State.lookStation
    cases idxOf ib with
    | none => rfl
    | some st =>
      simp only [State.stationView, State.entry_eq] <;> rfl
  · intro taken
    refine State.readOnly_next (State.lookLane ib cb) taken rfl rfl ?_
    simp only [State.lookLane, pairOf_eq]
    cases idxOf ib with
    | none => rfl
    | some st =>
      cases idxOf cb with
      | none => rfl
      | some c =>
        simp only [Option.bind_some, Option.map_some, State.laneView, State.descriptor_eq, State.entry_eq, Option.map_map] <;> rfl
  · intro taken
    refine State.readOnly_next (State.lookZone ib cb) taken rfl rfl ?_
    simp only [State.lookZone, pairOf_eq]
    cases idxOf ib with
    | none => rfl
    | some st =>
      cases idxOf cb with
      | none => rfl
      | some z =>
        simp only [Option.bind_some, Option.map_some, State.zoneView_eq, Zone.inBand_eq] <;> rfl
  · intro taken
    exact State.readOnly_next State.lookLine taken rfl rfl rfl
  · intro taken
    refine State.readOnly_next (State.lookFault ib) taken rfl ?_ ?_
    · unfold State.lookFault
      cases unitOf ib with
      | none => rfl
      | some u => exact congrArg (fun x => Answer.mk .ok (.faultUnit x)) (s.unit_free hdr.port _ u)
    · unfold State.lookFault
      cases unitOf ib <;> rfl
  · intro taken
    refine State.readOnly_next (State.lookWatch ib) taken rfl rfl ?_
    unfold State.lookWatch
    cases idxOf ib <;> rfl

end

section
/-! SUPPORT. The Outcome List: what its cursors hold back, an append with and without room, and the two requests on it (O27). -/

namespace Sys2Proof.Machine

theorem Three.ext_get {α : Type} {f g : Three α} (h : ∀ p, f.get p = g.get p) : f = g := by
  cases f; cases g
  exact congr (congr (congrArg Three.mk (h .line)) (h .inspection)) (h .roll)

theorem OutcomeList.passed_le_stand (o : OutcomeList) (p : Port) : o.passed ≤ o.stand p := by
  rw [OutcomeList.passed_eq]
  cases p <;> omega

theorem OutcomeList.stand_of_subscribed {o : OutcomeList} {p : Port} {c : Cursor} (h : o.cursors.get p = some c) : o.stand p = c.pos := by
  simp [OutcomeList.stand, h]

theorem OutcomeList.stand_of_detached {o : OutcomeList} {p : Port} (h : o.cursors.get p = none) : o.stand p = o.records.length := by
  simp [OutcomeList.stand, h]

/-- What leaves is bounded by the list itself or by a cursor (R37). -/
theorem OutcomeList.passed_reached (o : OutcomeList) :
    o.passed = o.records.length ∨ ∃ p c, o.cursors.get p = some c ∧ o.passed = c.pos := by
  have reached : o.passed = o.records.length ∨ ∃ p, o.passed = o.stand p := by
    have line := o.passed_le_stand .line
    have inspection := o.passed_le_stand .inspection
    have roll := o.passed_le_stand .roll
    by_cases whole : o.passed = o.records.length
    · exact .inl whole
    by_cases h1 : o.passed = o.stand .line
    · exact .inr ⟨_, h1⟩
    by_cases h2 : o.passed = o.stand .inspection
    · exact .inr ⟨_, h2⟩
    refine .inr ⟨.roll, ?_⟩
    rw [OutcomeList.passed_eq] at *
    omega
  obtain whole | ⟨p, stands⟩ := reached
  · exact .inl whole
  · cases subscribed : o.cursors.get p with
    | none => exact .inl (stands.trans (OutcomeList.stand_of_detached subscribed))
    | some c => exact .inr ⟨p, c, subscribed, stands.trans (OutcomeList.stand_of_subscribed subscribed)⟩

/-- A cursor at the oldest record holds the whole list back. -/
theorem OutcomeList.passed_eq_zero {o : OutcomeList} {p : Port} {c : Cursor} (h : o.cursors.get p = some c) (oldest : c.pos = 0) :
    o.passed = 0 := by
  have := o.passed_le_stand p
  rw [OutcomeList.stand_of_subscribed h] at this
  omega

@[simp] theorem OutcomeList.dropOldest_cursors (o : OutcomeList) (n : Nat) (p : Port) :
    (o.dropOldest n).cursors.get p = (o.cursors.get p).map fun c => { c with pos := c.pos - n } := by
  simp [OutcomeList.dropOldest]

theorem OutcomeList.dropOldest_zero (o : OutcomeList) : o.dropOldest 0 = o := by
  have cursors : (o.dropOldest 0).cursors = o.cursors := by
    refine Three.ext_get fun p => ?_
    rw [OutcomeList.dropOldest_cursors]
    cases o.cursors.get p <;> rfl
  cases o
  exact congrArg (OutcomeList.mk _) cursors

/-- While a cursor stands at the oldest record, an append adds its record to the list that has made room, and no more leaves. -/
theorem OutcomeList.append_of_oldest {o : OutcomeList} {p : Port} {c : Cursor} (r : OutcomeRecord)
    (h : o.makeRoom.cursors.get p = some c) (oldest : c.pos = 0) :
    o.append r = { o.makeRoom with records := o.makeRoom.records ++ [r] } := by
  have none_passed : ({ o.makeRoom with records := o.makeRoom.records ++ [r] } : OutcomeList).passed = 0 :=
    OutcomeList.passed_eq_zero h oldest
  calc o.append r
      = ({ o.makeRoom with records := o.makeRoom.records ++ [r] } : OutcomeList).dropOldest
          ({ o.makeRoom with records := o.makeRoom.records ++ [r] } : OutcomeList).passed := rfl
    _ = { o.makeRoom with records := o.makeRoom.records ++ [r] } := by rw [none_passed, OutcomeList.dropOldest_zero]

theorem OutcomeList.makeRoom_of_room {o : OutcomeList} (h : o.records.length < 64) : o.makeRoom = o := by
  unfold OutcomeList.makeRoom
  exact if_neg (by simp only [Config.outcomeCapacity]; omega)

theorem OutcomeList.makeRoom_of_full {o : OutcomeList} (h : 64 ≤ o.records.length) :
    o.makeRoom.records = o.records.drop 1 ∧ ∀ p, o.makeRoom.cursors.get p =
      (o.cursors.get p).map fun c => { pos := c.pos - 1, gap := c.gap || decide (c.pos = 0) } := by
  unfold OutcomeList.makeRoom
  rw [if_pos (by simpa only [Config.outcomeCapacity] using h)]
  refine ⟨rfl, fun p => ?_⟩
  rw [OutcomeList.dropOldest_cursors]
  simp only [Three.get_tab, Option.map_map]
  rfl

/-- What TAKE OUTCOMES returns: the records from the cursor on, GAP with the first of them (R40). -/
theorem OutcomeList.batch_eq (o : OutcomeList) (c : Cursor) :
    o.batch c = ((o.records.drop c.pos).take 8).mapIdx fun i r => (r, c.gap && i == 0) := by
  unfold OutcomeList.batch
  cases h : (o.records.drop c.pos).take Config.readBatch with
  | nil =>
    rw [show (o.records.drop c.pos).take 8 = [] from h]
    rfl
  | cons r rs =>
    rw [show (o.records.drop c.pos).take 8 = r :: rs from h]
    exact List.ext_getElem (by simp) fun i _ _ => by cases i <;> simp

theorem OutcomeList.take_eq (o : OutcomeList) (p : Port) (c : Cursor) :
    let got := (o.records.drop c.pos).take 8
    o.take p c = ({ o with
      cursors := o.cursors.set p (some { pos := c.pos + got.length, gap := c.gap && got.isEmpty }) } : OutcomeList).prune := by
  intro got
  have count : (o.batch c).length = got.length := by rw [OutcomeList.batch_eq, List.length_mapIdx]
  have gap : (if got.length = 0 then c.gap else false) = (c.gap && got.isEmpty) := by
    cases got <;> simp
  unfold OutcomeList.take
  simp only [count, gap]

end Sys2Proof.Machine

open Sys2Proof Sys2Proof.Machine

/-- Settles O27: the two requests by what they do to the list; what leaves is the number every cursor has passed. -/
theorem outcomesAreKeptForTheirCursors : Obligations.OutcomesAreKeptForTheirCursors := by
  refine ⟨fun hdr s => ⟨?_, ?_, ?_⟩, fun o => ⟨o.passed, rfl, o.dropOldest_cursors _, fun p c subscribed => ?_, o.passed_reached⟩,
    fun o r ⟨p, c, subscribed, oldest⟩ => ⟨fun room => ?_, fun full => ?_⟩⟩
  · intro taken
    have meaning : exec (.subscribeOutcomes hdr) s = .next (s.serve hdr .subscribeOutcomes 36 (State.takeSubscribe hdr.port)) := rfl
    rw [meaning, State.serve_taken taken, State.answer_eq]
    exact congrArg Host.Outcome.next (State.reply_free ({ s with outcomes := s.outcomes.subscribe hdr.port } : State) hdr 36 (.bare .ok))
  · intro taken detached
    have meaning : exec (.takeOutcomes hdr) s = .next (s.serve hdr .takeOutcomes 37 (State.takeOutcomes hdr.port)) := rfl
    rw [meaning, State.serve_taken taken, State.answer_eq]
    have refused : State.takeOutcomes hdr.port (s.updPort hdr.port PortState.free) = (s.updPort hdr.port PortState.free, .bare .state) := by
      simp [State.takeOutcomes, detached]
    rw [refused]
    exact congrArg Host.Outcome.next (State.reply_free s hdr 37 (.bare .state))
  · intro c taken subscribed got
    have meaning : exec (.takeOutcomes hdr) s = .next (s.serve hdr .takeOutcomes 37 (State.takeOutcomes hdr.port)) := rfl
    rw [meaning, State.serve_taken taken, State.answer_eq]
    have answered : State.takeOutcomes hdr.port (s.updPort hdr.port PortState.free) =
        (({ s with outcomes := s.outcomes.take hdr.port c } : State).updPort hdr.port PortState.free,
          ⟨.ok, .outcomes (s.outcomes.batch c)⟩) := by
      simp [State.takeOutcomes, subscribed, State.updPort]
    rw [answered, State.reply_free, OutcomeList.take_eq, OutcomeList.batch_eq]
  · exact (o.passed_le_stand p).trans_eq (OutcomeList.stand_of_subscribed subscribed)
  · have made := OutcomeList.makeRoom_of_room room
    rw [OutcomeList.append_of_oldest r (made.symm ▸ subscribed) oldest, made]
    exact ⟨rfl, rfl⟩
  · obtain ⟨records, cursors⟩ := OutcomeList.makeRoom_of_full full
    have moved := cursors p
    rw [subscribed] at moved
    rw [OutcomeList.append_of_oldest r moved (by simp [oldest])]
    exact ⟨by rw [records], cursors⟩

end

section
/-! SUPPORT. What a leaving head changes beside the track (R30, R31): a station's orders change at that station alone, of the job records
nothing but first-off stages, and the ports are offered the notice of the outcome record. -/

namespace Sys2Proof.Machine

/-! ### What belongs to one station -/

/-- What the orders of one station stand in: its sequencer, its lanes, its link and its entries in the job slots. -/
def State.ordersAt (s : State) (st : Idx) : Sequencer × Four Lane × Link × (Slot → Option StationEntry) :=
  (s.seqr.get st, s.lanes.get st, s.links.get st, fun j => s.entry j st)

/-- The other stations keep theirs. -/
def OnlyAt (st : Idx) (s t : State) : Prop := ∀ v, v ≠ st → t.ordersAt v = s.ordersAt v

theorem OnlyAt.refl (st : Idx) (s : State) : OnlyAt st s s := fun _ _ => rfl

theorem OnlyAt.trans {st : Idx} {s t u : State} (a : OnlyAt st s t) (b : OnlyAt st t u) : OnlyAt st s u :=
  fun v hv => (b v hv).trans (a v hv)

theorem State.updSeqr_onlyAt (s : State) (st : Idx) (f : Sequencer → Sequencer) : OnlyAt st s (s.updSeqr st f) := by
  intro v hv
  simp only [State.ordersAt, State.updSeqr, Four.get_upd_ne _ _ hv]
  rfl

theorem State.updLink_onlyAt (s : State) (st : Idx) (f : Link → Link) : OnlyAt st s (s.updLink st f) := by
  intro v hv
  simp only [State.ordersAt, State.updLink, Four.get_upd_ne _ _ hv]
  rfl

theorem State.release_onlyAt (s : State) (st : Idx) (n : Four Nat) : OnlyAt st s (s.release st n) := by
  intro v hv
  simp only [State.ordersAt, State.release, State.updLanes, Four.get_upd_ne _ _ hv]
  rfl

/-- An entry with the first-offs of a seq given up (R94). -/
def StationEntry.giveUp (e : StationEntry) (q : SeqNo) : StationEntry :=
  { e with lanes := e.lanes.map fun ls => .tab fun c => (ls.get c).giveUp q }

theorem State.giveUpFirstOff_entry (s : State) (j i : Slot) (st v : Idx) (q : SeqNo) :
    (s.giveUpFirstOff j st q).entry i v = if v = st ∧ i = j then (s.entry i v).map (·.giveUp q) else s.entry i v := by
  unfold State.giveUpFirstOff
  cases present : s.entry j st with
  | none =>
    dsimp only
    split
    · rename_i same
      obtain ⟨rfl, rfl⟩ := same
      simp [present]
    · rfl
  | some e =>
    simp only [State.entry_eq, State.setEntry, Two.get_upd] at present ⊢
    by_cases slot : i = j
    · subst slot
      simp only [if_true]
      cases stored : (s.slots.get i).job with
      | none => simp
      | some record =>
        simp only [stored, Option.bind_some] at present
        simp only [Option.map_some, Option.bind_some, Four.get_set]
        by_cases station : v = st
        · subst station
          simp only [present, and_self, if_true]
          rfl
        · simp [station]
    · simp [slot]

theorem State.giveUpFirstOff_onlyAt (s : State) (j : Slot) (st : Idx) (q : SeqNo) : OnlyAt st s (s.giveUpFirstOff j st q) := by
  intro v hv
  simp only [State.ordersAt, State.giveUpFirstOff_entry, State.giveUpFirstOff_frame, hv, false_and, if_false]

theorem State.clearAwaited_onlyAt (s : State) (st : Idx) : OnlyAt st s (s.clearAwaited st) :=
  (s.updSeqr_onlyAt st _).trans (State.updLink_onlyAt _ st _)

theorem State.releaseQueue_onlyAt (s : State) (st : Idx) : OnlyAt st s (s.releaseQueue st) := by
  unfold State.releaseQueue State.transmit
  split
  · split
    · exact (s.updLink_onlyAt st _).trans (State.updSeqr_onlyAt _ st _)
    · exact .refl st s
  · exact .refl st s

theorem State.completeAbort_onlyAt (s : State) (st : Idx) : OnlyAt st s (s.completeAbort st) := by
  unfold State.completeAbort
  split
  · exact (s.clearAwaited_onlyAt st).trans (State.releaseQueue_onlyAt _ st)
  · exact .refl st s

theorem State.pushOverdue_onlyAt (s : State) (st : Idx) (e : OverdueEntry) : OnlyAt st s (s.pushOverdue st e) := by
  unfold State.pushOverdue
  dsimp only
  refine OnlyAt.trans ?_ (State.updSeqr_onlyAt _ st _)
  split
  · split
    · exact (s.updSeqr_onlyAt st _).trans (State.giveUpFirstOff_onlyAt _ _ st _)
    · exact .refl st s
  · exact .refl st s

/-! ### A record handed to one station (R31 step 1) -/

/-- The order is out: COMMITTED or ACKED. -/
@[reducible] def StationField.sent (f : StationField) : Prop := f.status = .committed ∨ f.status = .acked

/-- The order of a leaving record is overdue: it is in flight no more, its feeds are released, and its copy is in the overdue list. -/
def State.nowOverdue (s : State) (r : TrackRecord) (st : Idx) : State :=
  ((s.leaveInFlight st r.seq).release st (r.st.get st).feeds).pushOverdue st (r.overdueCopy st)

/-- An order of the seq is queued and awaited no more, and the queued one behind an awaited one goes out. -/
def State.unawait (s : State) (st : Idx) (q : SeqNo) : State :=
  if (s.seqr.get st).queue = some q then s.updSeqr st fun sq => { sq with queue := none }
  else if (s.seqr.get st).awaited = .order q then (s.clearAwaited st).releaseQueue st
  else s

/-- An abort that names the seq settles it as UNKNOWN. -/
def State.unabort (s : State) (st : Idx) (q : SeqNo) : State :=
  if (s.seqr.get st).abortSet.contains q then ((s.leaveAbortSet st q).settleContext st q .unknown).completeAbort st else s

theorem State.leaveStation_of_sent {s : State} {r : TrackRecord} {st : Idx} (h : (r.st.get st).sent) :
    s.leaveStation r st = ((s.nowOverdue r st).unawait st r.seq).unabort st r.seq := by
  obtain committed | acked := h
  · simp only [State.leaveStation, committed]; rfl
  · simp only [State.leaveStation, acked]; rfl

theorem State.leaveStation_of_not_sent {s : State} {r : TrackRecord} {st : Idx} (h : ¬ (r.st.get st).sent) :
    s.leaveStation r st = s := by
  unfold State.leaveStation
  dsimp only
  split
  · exact absurd (.inl ‹_›) h
  · exact absurd (.inr ‹_›) h
  · rfl

theorem State.nowOverdue_onlyAt (s : State) (r : TrackRecord) (st : Idx) : OnlyAt st s (s.nowOverdue r st) :=
  ((s.updSeqr_onlyAt st _).trans (State.release_onlyAt _ st _)).trans (State.pushOverdue_onlyAt _ st _)

theorem State.unawait_onlyAt (s : State) (st : Idx) (q : SeqNo) : OnlyAt st s (s.unawait st q) := by
  unfold State.unawait
  split
  · exact s.updSeqr_onlyAt st _
  · split
    · exact (s.clearAwaited_onlyAt st).trans (State.releaseQueue_onlyAt _ st)
    · exact .refl st s

theorem State.unabort_onlyAt (s : State) (st : Idx) (q : SeqNo) : OnlyAt st s (s.unabort st q) := by
  unfold State.unabort
  split
  · exact ((s.updSeqr_onlyAt st _).trans (State.updSeqr_onlyAt _ st _)).trans (State.completeAbort_onlyAt _ st)
  · exact .refl st s

theorem State.leaveStation_onlyAt (s : State) (r : TrackRecord) (st : Idx) : OnlyAt st s (s.leaveStation r st) := by
  by_cases h : (r.st.get st).sent
  · rw [State.leaveStation_of_sent h]
    exact ((s.nowOverdue_onlyAt r st).trans (State.unawait_onlyAt _ st _)).trans (State.unabort_onlyAt _ st _)
  · rw [State.leaveStation_of_not_sent h]
    exact .refl st s

/-- Each station finds its own orders as they stood and leaves them as its own step does, in whatever state the others are by then. -/
theorem State.leaveStations_ordersAt (s : State) (r : TrackRecord) (st : Idx) :
    ∃ x : State, x.track = s.track ∧ x.ordersAt st = s.ordersAt st ∧
      (Idx.all.foldl (fun s st => s.leaveStation r st) s).ordersAt st = (x.leaveStation r st).ordersAt st := by
  have others (s : State) {v : Idx} (h : st ≠ v) : (s.leaveStation r v).ordersAt st = s.ordersAt st := s.leaveStation_onlyAt r v st h
  simp only [Idx.all, List.foldl_cons, List.foldl_nil]
  cases st with
  | i0 =>
    refine ⟨s, rfl, rfl, ?_⟩
    rw [others _ (v := .i3) (by decide), others _ (v := .i2) (by decide), others _ (v := .i1) (by decide)]
  | i1 =>
    refine ⟨s.leaveStation r .i0, by simp, others _ (by decide), ?_⟩
    rw [others _ (v := .i3) (by decide), others _ (v := .i2) (by decide)]
  | i2 =>
    refine ⟨(s.leaveStation r .i0).leaveStation r .i1, by simp, ?_, ?_⟩
    · rw [others _ (by decide), others _ (by decide)]
    · rw [others _ (v := .i3) (by decide)]
  | i3 =>
    refine ⟨((s.leaveStation r .i0).leaveStation r .i1).leaveStation r .i2, by simp, ?_, rfl⟩
    rw [others _ (by decide), others _ (by decide), others _ (by decide)]

end Sys2Proof.Machine
end

section
/-! SUPPORT. What a leaving head does to the sequencer, the lanes, the link and the entries of one station (R31, R76, R94, R140). -/

namespace Sys2Proof.Machine

/-! ### Job slots that change in their entries alone -/

/-- Of the slots, no more than entries of stations change. -/
def SameButEntries (s t : State) : Prop :=
  ∀ j, t.slots.get j =
    { s.slots.get j with job := (s.slots.get j).job.map fun r => { r with stations := .tab fun st => t.entry j st } }

theorem Four.tab_get {α : Type} (f : Four α) : Four.tab (fun i => f.get i) = f := Four.ext_get fun i => Four.get_tab _ i

theorem State.job_entries (s : State) (j : Slot) :
    (s.slots.get j).job.map (fun r => { r with stations := .tab fun st => s.entry j st }) = (s.slots.get j).job := by
  simp only [State.entry_eq]
  cases (s.slots.get j).job with
  | none => rfl
  | some r => simp only [Option.bind_some, Option.map_some, Four.tab_get]

theorem SameButEntries.of_slots {s t : State} (h : t.slots = s.slots) : SameButEntries s t := by
  intro j
  have entries : ∀ st, t.entry j st = s.entry j st := fun st => by rw [State.entry_eq, State.entry_eq, h]
  simp only [entries, s.job_entries, h]

theorem SameButEntries.trans {s t u : State} (a : SameButEntries s t) (b : SameButEntries t u) : SameButEntries s u := by
  intro j
  rw [b j, a j, Option.map_map]
  rfl

theorem SameButEntries.foldl {α : Type} (g : State → α → State) (h : ∀ s x, SameButEntries s (g s x)) (l : List α) :
    ∀ s, SameButEntries s (l.foldl g s) := by
  induction l with
  | nil => exact fun s => .of_slots rfl
  | cons x xs ih => exact fun s => (h s x).trans (ih _)

/-- Where every entry stays too, the slots stay. -/
theorem SameButEntries.slots_eq {s t : State} (h : SameButEntries s t) (entries : ∀ j st, t.entry j st = s.entry j st) :
    t.slots = s.slots := by
  have same : ∀ j, t.slots.get j = s.slots.get j := by
    intro j
    rw [h j]
    simp only [entries, s.job_entries]
  have first : t.slots.s0 = s.slots.s0 := same .slot0
  have second : t.slots.s1 = s.slots.s1 := same .slot1
  calc t.slots = ⟨t.slots.s0, t.slots.s1⟩ := rfl
    _ = ⟨s.slots.s0, s.slots.s1⟩ := by rw [first, second]

theorem SameButEntries.but_job {s t : State} (h : SameButEntries s t) (j : Slot) :
    t.slots.get j = { s.slots.get j with job := (t.slots.get j).job } := by
  rw [h j]

theorem State.setEntry_sameButEntries (s : State) (j : Slot) (st : Idx) (e : StationEntry) :
    SameButEntries s (s.setEntry j st e) := by
  intro i
  simp only [State.entry_eq, State.setEntry, Two.get_upd]
  by_cases slot : i = j
  · subst slot
    simp only [if_true]
    cases stored : (s.slots.get i).job with
    | none => rfl
    | some r => simp only [Option.map_some, Option.bind_some, Four.tab_get]
  · simp only [slot, if_false]
    simp only [← State.entry_eq, s.job_entries]

theorem State.giveUpFirstOff_sameButEntries (s : State) (j : Slot) (st : Idx) (q : SeqNo) :
    SameButEntries s (s.giveUpFirstOff j st q) := by
  unfold State.giveUpFirstOff
  split
  · exact s.setEntry_sameButEntries j st _
  · exact .of_slots rfl

/-! ### The overdue list (R76, R94) -/

/-- The entry that a full overdue list drops for the order of a leaving record. -/
def State.droppedBy (s : State) (r : TrackRecord) (st : Idx) : Option OverdueEntry :=
  match (s.seqr.get st).overdue with
  | x :: _ :: _ => if (r.st.get st).sent then some x else none
  | _ => none

/-- An entry after an overdue order has been dropped: in the order's slot its first-offs are given up. -/
def StationEntry.afterDrop (e : StationEntry) (j : Slot) : Option OverdueEntry → StationEntry
  | some x => if x.slot = j then e.giveUp x.seq else e
  | none => e

/-- A station's sequencer once the order of a record is overdue. -/
def Sequencer.overdueBy (sq : Sequencer) (r : TrackRecord) (st : Idx) : Sequencer :=
  { sq with
    inFlight := sq.inFlight.filter fun e => decide (e.seq ≠ r.seq)
    overdue := (match sq.overdue with
      | [] => []
      | x :: xs => if 2 ≤ xs.length + 1 then xs else x :: xs) ++ [r.overdueCopy st] }

theorem State.nowOverdue_seqr (s : State) (r : TrackRecord) (st : Idx) :
    (s.nowOverdue r st).seqr.get st = (s.seqr.get st).overdueBy r st := by
  unfold State.nowOverdue
  rw [(Orders.push_overdue_spec _ st _).1]
  simp only [State.release_frame, State.leaveInFlight, State.updSeqr, Four.get_upd_same]
  rfl

theorem State.nowOverdue_links (s : State) (r : TrackRecord) (st : Idx) : (s.nowOverdue r st).links = s.links := by
  simp [State.nowOverdue]

theorem State.nowOverdue_track (s : State) (r : TrackRecord) (st : Idx) : (s.nowOverdue r st).track = s.track := by
  simp [State.nowOverdue]

theorem State.nowOverdue_lane (s : State) (r : TrackRecord) (st c : Idx) :
    (s.nowOverdue r st).lane st c = { s.lane st c with reserved := (s.lane st c).reserved - (r.st.get st).feeds.get c } := by
  simp [State.nowOverdue, State.lane, State.release, State.updLanes]

theorem State.pushOverdue_slots (s : State) (st : Idx) (e : OverdueEntry) :
    (s.pushOverdue st e).slots = (match (s.seqr.get st).overdue with
      | x :: _ :: _ => (s.giveUpFirstOff x.slot st x.seq).slots
      | _ => s.slots) := by
  have kept (f : Sequencer → Sequencer) (j : Slot) (q : SeqNo) :
      ((s.updSeqr st f).giveUpFirstOff j st q).slots = (s.giveUpFirstOff j st q).slots := by
    unfold State.giveUpFirstOff
    rw [show (s.updSeqr st f).entry j st = s.entry j st from rfl]
    cases s.entry j st <;> rfl
  unfold State.pushOverdue
  cases (s.seqr.get st).overdue with
  | nil => rfl
  | cons x xs =>
    cases xs with
    | nil => rfl
    | cons y ys =>
      have full : Config.overdueLimit ≤ (y :: ys).length + 1 := by simp [Config.overdueLimit]
      simp only [full, if_true]
      exact kept _ x.slot x.seq

theorem State.unawait_slots (s : State) (st : Idx) (q : SeqNo) : (s.unawait st q).slots = s.slots := by
  unfold State.unawait
  split
  · rfl
  · split <;> simp

theorem State.unabort_slots (s : State) (st : Idx) (q : SeqNo) : (s.unabort st q).slots = s.slots := by
  unfold State.unabort
  split <;> simp

theorem State.leaveStation_slots (s : State) (r : TrackRecord) (st : Idx) :
    (s.leaveStation r st).slots = (match s.droppedBy r st with
      | some x => (s.giveUpFirstOff x.slot st x.seq).slots
      | none => s.slots) := by
  by_cases sent : (r.st.get st).sent
  · have seqr : ((s.leaveInFlight st r.seq).release st (r.st.get st).feeds).seqr.get st =
        { s.seqr.get st with inFlight := (s.seqr.get st).inFlight.filter fun e => decide (e.seq ≠ r.seq) } := by
      simp [State.leaveInFlight, State.updSeqr]
    rw [State.leaveStation_of_sent sent, State.unabort_slots, State.unawait_slots, State.nowOverdue, State.pushOverdue_slots, seqr]
    have kept (j : Slot) (q : SeqNo) : (((s.leaveInFlight st r.seq).release st (r.st.get st).feeds).giveUpFirstOff j st q).slots =
        (s.giveUpFirstOff j st q).slots := by
      unfold State.giveUpFirstOff
      rw [show ((s.leaveInFlight st r.seq).release st (r.st.get st).feeds).entry j st = s.entry j st from rfl]
      cases s.entry j st <;> rfl
    unfold State.droppedBy
    dsimp only
    split
    · rw [if_pos sent]
      exact kept _ _
    · rfl
  · have undropped : s.droppedBy r st = none := by
      unfold State.droppedBy
      split
      · exact if_neg sent
      · rfl
    rw [State.leaveStation_of_not_sent sent, undropped]

theorem State.leaveStation_sameButEntries (s : State) (r : TrackRecord) (st : Idx) : SameButEntries s (s.leaveStation r st) := by
  have slots := s.leaveStation_slots r st
  cases dropped : s.droppedBy r st with
  | none => exact .of_slots (by rw [slots, dropped])
  | some x =>
    refine SameButEntries.trans (s.giveUpFirstOff_sameButEntries x.slot st x.seq) (.of_slots ?_)
    rw [slots, dropped]

theorem State.leaveStation_entry (s : State) (r : TrackRecord) (j : Slot) (st : Idx) :
    (s.leaveStation r st).entry j st = (s.entry j st).map fun e => e.afterDrop j (s.droppedBy r st) := by
  have slots := s.leaveStation_slots r st
  cases dropped : s.droppedBy r st with
  | none =>
    rw [dropped] at slots
    rw [State.entry_eq, slots, ← State.entry_eq]
    cases s.entry j st <;> rfl
  | some x =>
    rw [dropped] at slots
    rw [State.entry_eq, slots, ← State.entry_eq, State.giveUpFirstOff_entry]
    cases s.entry j st with
    | none => simp
    | some e => by_cases same : x.slot = j <;> simp [StationEntry.afterDrop, same, Ne.symm]

/-! ### The queue, the awaited answer and the abort (R68, R81, R140) -/

/-- What a queued order needs to go out is its record and the station's link. -/
theorem QueuedGoesOut.congr {s s' t t' : State} {st : Idx} {sq : Sequencer} (h : QueuedGoesOut s t st sq)
    (record : sq.queue.bind s'.record = sq.queue.bind s.record) (link : s'.links.get st = s.links.get st)
    (seqr : t'.seqr.get st = t.seqr.get st) (links : t'.links.get st = t.links.get st) : QueuedGoesOut s' t' st sq := by
  unfold QueuedGoesOut at *
  rw [record, link, seqr, links]
  exact h

theorem AbortSettled.congr {s s' t t' : State} {st : Idx} {sq : Sequencer} {q : SeqNo} {o : AbortOutcome}
    (h : AbortSettled s t st sq q o) (record : sq.queue.bind s'.record = sq.queue.bind s.record)
    (link : s'.links.get st = s.links.get st) (seqr : t'.seqr.get st = t.seqr.get st)
    (links : t'.links.get st = t.links.get st) : AbortSettled s' t' st sq q o := by
  unfold AbortSettled at *
  dsimp only at *
  split
  · rw [if_pos ‹_›] at h
    exact h.congr record link seqr links
  · rw [if_neg ‹_›] at h
    rw [seqr, links, link]
    exact h

theorem State.releaseQueue_abortSet (s : State) (st : Idx) : ((s.releaseQueue st).seqr.get st).abortSet = (s.seqr.get st).abortSet := by
  unfold State.releaseQueue State.transmit
  split
  · split
    · simp [State.updSeqr, State.updLink]
    · rfl
  · rfl

theorem State.unabort_of_not_named {s : State} {st : Idx} {q : SeqNo} (h : q ∉ (s.seqr.get st).abortSet) : s.unabort st q = s := by
  unfold State.unabort
  exact if_neg (by simpa using h)

/-- The sequencer that the order of a record leaves, where no abort names it. -/
theorem State.leaveStation_unnamed {s : State} {r : TrackRecord} {st : Idx} (sent : (r.st.get st).sent)
    (unnamed : r.seq ∉ (s.seqr.get st).abortSet) : s.leaveStation r st = (s.nowOverdue r st).unawait st r.seq := by
  have named : r.seq ∉ (((s.nowOverdue r st).unawait st r.seq).seqr.get st).abortSet := by
    have before : r.seq ∉ ((s.nowOverdue r st).seqr.get st).abortSet := by
      rw [State.nowOverdue_seqr]
      exact unnamed
    unfold State.unawait
    split
    · simpa [State.updSeqr] using before
    · split
      · rw [State.releaseQueue_abortSet]
        simpa [State.clearAwaited, State.updSeqr, State.updLink] using before
      · exact before
  rw [State.leaveStation_of_sent sent, State.unabort_of_not_named named]

theorem State.leaveStation_queued {s : State} {r : TrackRecord} {st : Idx} (sent : (r.st.get st).sent)
    (unnamed : r.seq ∉ (s.seqr.get st).abortSet) (queued : (s.seqr.get st).queue = some r.seq) :
    (s.leaveStation r st).seqr.get st = { (s.seqr.get st).overdueBy r st with queue := none } ∧
      (s.leaveStation r st).links.get st = s.links.get st := by
  have queue : ((s.nowOverdue r st).seqr.get st).queue = some r.seq := by rw [State.nowOverdue_seqr]; exact queued
  rw [State.leaveStation_unnamed sent unnamed, State.unawait, if_pos queue]
  refine ⟨?_, ?_⟩
  · simp only [State.updSeqr, Four.get_upd_same, State.nowOverdue_seqr]
  · exact congrArg (·.get st) (State.nowOverdue_links s r st)

theorem State.leaveStation_idle {s : State} {r : TrackRecord} {st : Idx} (sent : (r.st.get st).sent)
    (unnamed : r.seq ∉ (s.seqr.get st).abortSet) (unqueued : (s.seqr.get st).queue ≠ some r.seq)
    (unawaited : (s.seqr.get st).awaited ≠ .order r.seq) :
    (s.leaveStation r st).seqr.get st = (s.seqr.get st).overdueBy r st ∧ (s.leaveStation r st).links.get st = s.links.get st := by
  have queue : ((s.nowOverdue r st).seqr.get st).queue ≠ some r.seq := by rw [State.nowOverdue_seqr]; exact unqueued
  have awaited : ((s.nowOverdue r st).seqr.get st).awaited ≠ .order r.seq := by rw [State.nowOverdue_seqr]; exact unawaited
  rw [State.leaveStation_unnamed sent unnamed, State.unawait, if_neg queue, if_neg awaited]
  exact ⟨State.nowOverdue_seqr s r st, congrArg (·.get st) (State.nowOverdue_links s r st)⟩

theorem State.leaveStation_awaited {s : State} {r : TrackRecord} {st : Idx} (sent : (r.st.get st).sent)
    (unnamed : r.seq ∉ (s.seqr.get st).abortSet) (unqueued : (s.seqr.get st).queue ≠ some r.seq)
    (awaits : (s.seqr.get st).awaited = .order r.seq) :
    QueuedGoesOut s (s.leaveStation r st) st { (s.seqr.get st).overdueBy r st with awaited := .none, timer := none } := by
  have queue : ((s.nowOverdue r st).seqr.get st).queue ≠ some r.seq := by rw [State.nowOverdue_seqr]; exact unqueued
  have awaited : ((s.nowOverdue r st).seqr.get st).awaited = .order r.seq := by rw [State.nowOverdue_seqr]; exact awaits
  have record : (s.nowOverdue r st).record = s.record := by funext q; simp only [State.record, State.nowOverdue_track]
  have out := Aborts.queued_goes_out (s.nowOverdue r st) st
  rw [State.nowOverdue_seqr] at out
  rw [State.leaveStation_unnamed sent unnamed, State.unawait, if_neg queue, if_pos awaited]
  exact out.congr (by rw [record]) (congrArg (·.get st) (State.nowOverdue_links s r st)).symm rfl rfl

theorem State.leaveInFlight_of_absent {s : State} {st : Idx} {q : SeqNo}
    (h : (s.seqr.get st).inFlight.filter (fun e => decide (e.seq ≠ q)) = (s.seqr.get st).inFlight) : s.leaveInFlight st q = s := by
  have same : (s.seqr.upd st fun sq => { sq with inFlight := sq.inFlight.filter fun e => decide (e.seq ≠ q) }) = s.seqr :=
    Four.upd_same (by simp only [h])
  unfold State.leaveInFlight State.updSeqr
  rw [same]

theorem State.leaveStation_aborted {s : State} {r : TrackRecord} {st : Idx} (sent : (r.st.get st).sent)
    (named : r.seq ∈ (s.seqr.get st).abortSet) (unqueued : (s.seqr.get st).queue ≠ some r.seq)
    (awaits : (s.seqr.get st).awaited = .abort) :
    AbortSettled s (s.leaveStation r st) st ((s.seqr.get st).overdueBy r st) r.seq .unknown := by
  have seqr := State.nowOverdue_seqr s r st
  have queue : ((s.nowOverdue r st).seqr.get st).queue ≠ some r.seq := by rw [seqr]; exact unqueued
  have awaited : ((s.nowOverdue r st).seqr.get st).awaited = .abort := by rw [seqr]; exact awaits
  have record : (s.nowOverdue r st).record = s.record := by funext q; simp only [State.record, State.nowOverdue_track]
  have contains : ((s.nowOverdue r st).seqr.get st).abortSet.contains r.seq = true := by
    rw [seqr]
    simpa [Sequencer.overdueBy] using named
  have left : ((s.nowOverdue r st).leaveAbortSet st r.seq).leaveInFlight st r.seq = (s.nowOverdue r st).leaveAbortSet st r.seq := by
    refine State.leaveInFlight_of_absent ?_
    simp [State.leaveAbortSet, State.updSeqr, seqr, Sequencer.overdueBy, List.filter_filter]
  have settled := Aborts.settled (s.nowOverdue r st) st r.seq .unknown awaited
  rw [left, seqr] at settled
  rw [State.leaveStation_of_sent sent, State.unawait, if_neg queue, if_neg (by rw [awaited]; simp), State.unabort, if_pos contains]
  exact settled.congr (by rw [record]) (congrArg (·.get st) (State.nowOverdue_links s r st)).symm rfl rfl

theorem State.leaveStation_lane {s : State} {r : TrackRecord} {st : Idx} (sent : (r.st.get st).sent) (c : Idx) :
    (s.leaveStation r st).lane st c = { s.lane st c with reserved := (s.lane st c).reserved - (r.st.get st).feeds.get c } := by
  have unawait (x : State) : (x.unawait st r.seq).lanes = x.lanes := by
    unfold State.unawait
    split
    · rfl
    · split <;> simp
  have unabort (x : State) : (x.unabort st r.seq).lanes = x.lanes := by
    unfold State.unabort
    split <;> simp
  rw [← State.nowOverdue_lane, State.leaveStation_of_sent sent]
  unfold State.lane
  rw [unabort, unawait]

end Sys2Proof.Machine
end

section
/-! SUPPORT. What a leaving head does to the outcome list, the ports, the job slots and the watch units (R31, R34, R37, R173), and its
stations' orders in the state it leaves. -/

namespace Sys2Proof.Machine

/-! ### What an outcome record reads of the job slots (R35) -/

/-- What the reasons of an outcome record read of a station's entry: its type and the codes of its lanes. -/
def StationEntry.printed (e : StationEntry) : StationType × Option (Four LaneCode) :=
  (e.type, e.lanes.map fun ls => .tab fun c => (ls.get c).code)

def State.printedAt (s : State) (j : Slot) (st : Idx) : Option (StationType × Option (Four LaneCode)) :=
  (s.entry j st).map StationEntry.printed

theorem State.stationReason_eq (s : State) (r : TrackRecord) :
    s.stationReason r = Idx.all.any fun st =>
      (s.printedAt r.slot st).isSome && !decide ((r.st.get st).status = .done ∨ (r.st.get st).status = .passed) := by
  simp only [State.stationReason, State.printedAt, Option.isSome_map]

theorem State.embossLift_eq (s : State) (r : TrackRecord) :
    s.embossLift r = Idx.all.any fun st =>
      (s.printedAt r.slot st).any fun p => decide (p.1 = .emboss ∨ p.1 = .foilEmboss) && decide ((r.st.get st).decision = .lift) := by
  unfold State.embossLift State.printedAt
  congr 1
  funext st
  cases s.entry r.slot st <;> rfl

theorem State.foilMissing_eq (s : State) (r : TrackRecord) (c : Idx) :
    s.foilMissing r c = Idx.all.any fun st =>
      (((s.printedAt r.slot st).bind (·.2)).map (·.get c)).any fun code =>
        decide (code = .on ∨ code = .onReport) && decide ((r.st.get st).feeds.get c = 0) := by
  unfold State.foilMissing State.printedAt
  congr 1
  funext st
  rw [State.descriptor_eq]
  cases s.entry r.slot st with
  | none => rfl
  | some e =>
    simp only [Option.map_some, Option.bind_some, StationEntry.printed]
    cases e.lanes with
    | none => rfl
    | some ls => simp

theorem State.outcomeOf_of_printed {s t : State} {r : TrackRecord} (h : ∀ st, t.printedAt r.slot st = s.printedAt r.slot st) :
    t.outcomeOf r = s.outcomeOf r := by
  have reasons : ∀ c v, t.reasons r c v = s.reasons r c v := by
    intro c v
    simp only [State.reasons, State.stationReason_eq, State.embossLift_eq, State.foilMissing_eq, h]
  simp only [State.outcomeOf, reasons]

theorem StationEntry.printed_afterDrop (e : StationEntry) (j : Slot) (x : Option OverdueEntry) : (e.afterDrop j x).printed = e.printed := by
  have code (d : Descriptor) (q : SeqNo) : (d.giveUp q).code = d.code := by
    unfold Descriptor.giveUp
    split <;> rfl
  unfold StationEntry.afterDrop
  split
  · split
    · simp [StationEntry.giveUp, StationEntry.printed, Function.comp_def, code]
    · rfl
  · rfl

/-! ### The stations in the state a head leaves -/

theorem State.ordersAt_of_parts {s t : State} (st : Idx) (seqr : t.seqr = s.seqr) (lanes : t.lanes = s.lanes) (links : t.links = s.links)
    (jobs : ∀ j, (t.slots.get j).job = (s.slots.get j).job) : t.ordersAt st = s.ordersAt st := by
  simp only [State.ordersAt, State.entry_eq, seqr, lanes, links, jobs]

theorem State.leaveHead_jobs {s : State} {r : TrackRecord} {rs : List TrackRecord} (h : s.track = r :: rs) (final : Status) (j : Slot) :
    ((s.leaveHead final).slots.get j).job = ((s.headSettled r rs final).slots.get j).job := by
  rw [State.leaveHead_slots h, Two.get_upd]
  split
  · subst j; rfl
  · rfl

/-- Every station leaves its orders as its own step does. -/
theorem State.leaveHead_ordersAt {s : State} {r : TrackRecord} {rs : List TrackRecord} (h : s.track = r :: rs) (final : Status)
    (st : Idx) : ∃ x : State, x.track = r.finalize final :: rs ∧ x.ordersAt st = s.ordersAt st ∧
      (s.leaveHead final).ordersAt st = (x.leaveStation r st).ordersAt st := by
  obtain ⟨x, track, before, after⟩ := State.leaveStations_ordersAt { s with track := r.finalize final :: rs } r st
  refine ⟨x, track, before, .trans (State.ordersAt_of_parts st ?_ ?_ ?_ (State.leaveHead_jobs h final)) after⟩
  all_goals rw [State.leaveHead_cons h]; simp

theorem State.droppedBy_of_seqr {s t : State} {r : TrackRecord} {st : Idx} (h : t.seqr.get st = s.seqr.get st) :
    t.droppedBy r st = s.droppedBy r st := by
  unfold State.droppedBy
  rw [h]

theorem State.ordersAt_eq_iff {s t : State} {st : Idx} : t.ordersAt st = s.ordersAt st ↔
    t.seqr.get st = s.seqr.get st ∧ t.lanes.get st = s.lanes.get st ∧ t.links.get st = s.links.get st ∧
      ∀ j, t.entry j st = s.entry j st := by
  simp only [State.ordersAt, Prod.mk.injEq, funext_iff]

theorem State.leaveHead_entry {s : State} {r : TrackRecord} {rs : List TrackRecord} (h : s.track = r :: rs) (final : Status)
    (j : Slot) (st : Idx) :
    (s.leaveHead final).entry j st = (s.entry j st).map fun e => e.afterDrop j (s.droppedBy r st) := by
  obtain ⟨x, -, before, after⟩ := State.leaveHead_ordersAt h final st
  obtain ⟨seqr, -, -, entries⟩ := State.ordersAt_eq_iff.1 before
  obtain ⟨-, -, -, left⟩ := State.ordersAt_eq_iff.1 after
  rw [left, State.leaveStation_entry, entries, State.droppedBy_of_seqr seqr]

theorem State.headSettled_sameButEntries (s : State) (r : TrackRecord) (rs : List TrackRecord) (final : Status) :
    SameButEntries s (s.headSettled r rs final) :=
  (SameButEntries.of_slots (t := { s with track := r.finalize final :: rs }) rfl).trans
    (SameButEntries.foldl _ (fun s st => s.leaveStation_sameButEntries r st) _ _)

theorem State.leaveHead_printedAt (s : State) (final : Status) (j : Slot) (st : Idx) :
    (s.leaveHead final).printedAt j st = s.printedAt j st := by
  cases h : s.track with
  | nil => rw [State.leaveHead_nil h]
  | cons r rs =>
    unfold State.printedAt
    rw [State.leaveHead_entry h, Option.map_map]
    congr 1
    funext e
    exact e.printed_afterDrop j _

/-! ### The outcome record and its notice (R31, R37, R41) -/

theorem State.headSettled_outcomes (s : State) (r : TrackRecord) (rs : List TrackRecord) (final : Status) :
    (s.headSettled r rs final).outcomes = s.outcomes := foldl_same State.outcomes _ (fun s st => by simp) _ _

theorem State.headSettled_ports (s : State) (r : TrackRecord) (rs : List TrackRecord) (final : Status) :
    (s.headSettled r rs final).ports = s.ports := foldl_same State.ports _ (fun s st => by simp) _ _

theorem State.headSettled_watches (s : State) (r : TrackRecord) (rs : List TrackRecord) (final : Status) :
    (s.headSettled r rs final).watches = s.watches := foldl_same State.watches _ (fun s st => by simp) _ _

theorem State.leaveHead_outcomes {s : State} {r : TrackRecord} {rs : List TrackRecord} (h : s.track = r :: rs) (final : Status) :
    (s.leaveHead final).outcomes = s.outcomes.append (s.outcomeOf (r.finalize final)) := by
  have printed : ∀ j st, ({ s.headSettled r rs final with track := rs } : State).printedAt j st = s.printedAt j st := by
    intro j st
    rw [← s.leaveHead_printedAt final j st]
    simp only [State.printedAt, State.entry_eq, State.leaveHead_jobs h]
  rw [State.leaveHead_cons h, State.outcomeOf_of_printed (printed _)]
  simp only [State.disarmFor_frame, State.dropRef_frame, State.appendOutcome_outcomes, State.headSettled_outcomes]

theorem OutcomeList.append_subscribed (o : OutcomeList) (r : OutcomeRecord) (p : Port) :
    ((o.append r).cursors.get p).isSome = (o.cursors.get p).isSome := by
  simp only [OutcomeList.append, OutcomeList.prune, OutcomeList.dropOldest_cursors, Option.isSome_map, OutcomeList.makeRoom]
  split
  · simp only [OutcomeList.dropOldest_cursors, Option.isSome_map, Three.get_tab]
  · rfl

theorem State.appendOutcome_eq (s : State) (r : OutcomeRecord) : s.appendOutcome r =
    Port.all.foldl (fun x p => if (x.outcomes.cursors.get p).isSome then x.offerTo p .outcomeReady else x)
      { s with outcomes := s.outcomes.append r } := by
  unfold State.appendOutcome
  congr 1
  funext x p
  cases x.outcomes.cursors.get p <;> rfl

/-- OUTCOME_READY is offered at the ports that are subscribed. -/
theorem State.appendOutcome_ports (s : State) (r : OutcomeRecord) (p : Port) :
    (s.appendOutcome r).ports.get p = if (s.outcomes.cursors.get p).isSome then (s.ports.get p).offer .outcomeReady
      else s.ports.get p := by
  have kept (x : State) (b : Bool) (q : Port) : (if b then x.offerTo q .outcomeReady else x).outcomes = x.outcomes := by
    cases b <;> rfl
  have once (x : State) (b : Bool) (q : Port) : (if b then x.offerTo q .outcomeReady else x).ports.get p =
      if q = p ∧ b then (x.ports.get p).offer .outcomeReady else x.ports.get p := by
    cases b with
    | false => simp
    | true =>
      simp only [if_true, and_true, State.offerTo, Three.get_set]
      by_cases same : q = p
      · simp [same]
      · simp [same, Ne.symm same]
  rw [State.appendOutcome_eq]
  simp only [Port.all, List.foldl_cons, List.foldl_nil, kept, once, OutcomeList.append_subscribed]
  cases p <;> simp

theorem State.leaveHead_ports {s : State} {r : TrackRecord} {rs : List TrackRecord} (h : s.track = r :: rs) (final : Status) (p : Port) :
    (s.leaveHead final).ports.get p = if (s.outcomes.cursors.get p).isSome then (s.ports.get p).offer .outcomeReady
      else s.ports.get p := by
  rw [State.leaveHead_cons h]
  simp only [State.disarmFor_frame, State.dropRef_frame, State.appendOutcome_ports, State.headSettled_outcomes, State.headSettled_ports]

theorem State.leaveHead_tx (s : State) (final : Status) (p : Port) : ((s.leaveHead final).ports.get p).tx = (s.ports.get p).tx := by
  cases h : s.track with
  | nil => rw [State.leaveHead_nil h]
  | cons r rs =>
    rw [State.leaveHead_ports h]
    split <;> simp

/-- A watch unit armed for the seq disarms (R173). -/
theorem State.leaveHead_watches {s : State} {r : TrackRecord} {rs : List TrackRecord} (h : s.track = r :: rs) (final : Status) (w : Idx) :
    (s.leaveHead final).watches.get w = { s.watches.get w with
      armed := (s.watches.get w).armed && (match (s.watches.get w).condition with
        | some (.repeatAtStation q _) => decide (q ≠ r.seq)
        | _ => true) } := by
  have disarmed (x : State) : (x.disarmFor r.seq).watches.get w = { x.watches.get w with
      armed := (x.watches.get w).armed && (match (x.watches.get w).condition with
        | some (.repeatAtStation q _) => decide (q ≠ r.seq)
        | _ => true) } := by
    simp only [State.disarmFor, Four.get_tab]
    obtain ⟨owner, condition, action, scope, enabled, armed, inside, hit, lastHit⟩ := x.watches.get w
    cases condition with
    | none => simp
    | some c =>
      cases c with
      | repeatAtStation q st => by_cases same : q = r.seq <;> simp [same]
      | _ => simp
  rw [State.leaveHead_cons h, disarmed]
  simp only [State.dropRef_frame, State.appendOutcome_frame, State.headSettled_watches]

/-- A head that leaves trips no station. -/
theorem State.leaveHead_tripped (s : State) (final : Status) (st : Idx) :
    ((s.leaveHead final).seqr.get st).tripped = (s.seqr.get st).tripped := by
  cases h : s.track with
  | nil => rw [State.leaveHead_nil h]
  | cons r rs =>
    rw [State.leaveHead_cons h]
    simp only [State.disarmFor_frame, State.dropRef_frame, State.appendOutcome_frame]
    exact (s.headSettled_within r rs final).trips st

end Sys2Proof.Machine
end

section
/-! SUPPORT. Emptying the track, head to tail, and the accepted STOP (O34; R32, R148). -/

namespace Sys2Proof.Machine

/-- The records leave in order, each with its outcome record as the job slots stand before the first one leaves. -/
theorem emptyLoop_outcomes (n : Nat) (s : State) (h : s.track.length = n) :
    (emptyLoop n s).track = [] ∧ (emptyLoop n s).outcomes =
      s.track.foldl (fun o r => o.append (s.outcomeOf (r.finalize .missed))) s.outcomes := by
  induction n generalizing s with
  | zero =>
    have empty : s.track = [] := List.eq_nil_of_length_eq_zero h
    exact ⟨empty, by rw [empty]; rfl⟩
  | succ n ih =>
    cases track : s.track with
    | nil => simp [track] at h
    | cons r rs =>
      have left := State.leaveHead_track track .missed
      have shorter : (s.leaveHead .missed).track.length = n := by
        rw [track, List.length_cons] at h
        rw [left]
        omega
      have printed : ∀ x, (s.leaveHead .missed).outcomeOf x = s.outcomeOf x := fun x =>
        State.outcomeOf_of_printed (s.leaveHead_printedAt .missed x.slot)
      obtain ⟨empty, outcomes⟩ := ih (s.leaveHead .missed) shorter
      refine ⟨empty, outcomes.trans ?_⟩
      simp only [left, printed, State.leaveHead_outcomes track, List.foldl_cons]

theorem emptyLoop_tx (n : Nat) (s : State) (p : Port) : ((emptyLoop n s).ports.get p).tx = (s.ports.get p).tx := by
  induction n generalizing s with
  | zero => rfl
  | succ n ih => exact (ih _).trans (s.leaveHead_tx .missed p)

theorem emptyLoop_tripped (n : Nat) (s : State) (st : Idx) :
    ((emptyLoop n s).seqr.get st).tripped = (s.seqr.get st).tripped := by
  induction n generalizing s with
  | zero => rfl
  | succ n ih => exact (ih _).trans (s.leaveHead_tripped .missed st)

/-- The record with the statuses that are not yet final MISSED (R32). -/
theorem TrackRecord.finalize_missed (r : TrackRecord) :
    r.finalize .missed = { r with st := .tab fun st => { r.st.get st with
      status := match (r.st.get st).status with
        | .pending | .committed | .acked => .missed
        | x => x } } := by
  unfold TrackRecord.finalize
  congr 2
  funext st
  dsimp only
  obtain ⟨k, decision, status, target, feed, report⟩ := r.st.get st
  cases status <;> rfl

theorem State.stopLine_track (s : State) : s.stopLine.track = [] :=
  (emptyLoop_outcomes _ ({ s with line := .stopped } : State) rfl).1

theorem State.stopLine_outcomes (s : State) :
    s.stopLine.outcomes = s.track.foldl (fun o r => o.append (s.outcomeOf (r.finalize .missed))) s.outcomes :=
  (emptyLoop_outcomes _ ({ s with line := .stopped } : State) rfl).2

theorem State.stopLine_line (s : State) : s.stopLine.line = .stopped := by
  simp [State.stopLine, State.deassertStop, State.dropContexts]

theorem State.stopLine_tx (s : State) (p : Port) : (s.stopLine.ports.get p).tx = (s.ports.get p).tx :=
  emptyLoop_tx _ ({ s with line := .stopped } : State) p

theorem State.stopLine_context (s : State) (st : Idx) : (s.stopLine.seqr.get st).context = none := by
  simp [State.stopLine, State.deassertStop, State.dropContexts]

theorem State.stopLine_tripped (s : State) (st : Idx) : (s.stopLine.seqr.get st).tripped = (s.seqr.get st).tripped := by
  have emptied := emptyLoop_tripped s.track.length ({ s with line := .stopped } : State) st
  simp only [State.stopLine, State.deassertStop, State.dropContexts, Four.get_tab]
  exact emptied

theorem State.abortOutstanding_eq_false {s : State} (h : ∀ st, (s.seqr.get st).awaited ≠ .abort) : s.abortOutstanding = false := by
  simp [State.abortOutstanding, h]

theorem State.takeStop_of_hold {s : State} (hold : s.line = .hold) (idle : ∀ st, (s.seqr.get st).awaited ≠ .abort) :
    s.takeStop = (s.stopLine, ⟨.ok, .level .stopped s.estop⟩) := by
  unfold State.takeStop
  rw [if_neg (by simp [hold]), if_neg (by simp [State.abortOutstanding_eq_false idle])]
  simp only [State.accept, State.levelAnswer, State.stopLine_line, State.stopLine_frame]

end Sys2Proof.Machine

open Sys2Proof Sys2Proof.Machine

/-- Settles O34: the track is emptied by induction on its length, and the job slots keep what the outcome records read. -/
theorem stopEmptiesTheLine : Obligations.StopEmptiesTheLine := by
  intro hdr s taken port mirrored hold idle
  let t := ((s.updPort hdr.port PortState.free).stopLine).reply hdr.port hdr.tag 4 ⟨.ok, .level .stopped s.estop⟩
  have stopped : lineRequest hdr State.takeStop (s.updPort hdr.port PortState.free) =
      ((s.updPort hdr.port PortState.free).stopLine, ⟨.ok, .level .stopped s.estop⟩) := by
    rw [lineRequest, if_pos port, State.takeStop_of_hold (s := s.updPort hdr.port PortState.free) hold idle]
    rfl
  have served : s.serve hdr .stop 4 (lineRequest hdr State.takeStop) = t := by
    rw [State.serve_taken taken, State.answer_eq, stopped]
  have done : t.done = .next t := by
    refine State.done_of mirrored (fun st => by simp [t]) fun st => ?_
    have kept := State.stopLine_tripped (s.updPort hdr.port PortState.free) st
    simpa [t, State.reply] using kept
  have meaning : exec (.stop hdr) s = (s.serve hdr .stop 4 (lineRequest hdr State.takeStop)).done := rfl
  refine ⟨t, by rw [meaning, served, done], State.stopLine_line _, State.stopLine_track _, rfl, ?_, rfl, State.stopLine_context _, rfl,
    ?_, ?_⟩
  · refine (State.stopLine_outcomes _).trans ?_
    simp only [TrackRecord.finalize_missed]
    rfl
  · have kept := State.stopLine_tx (s.updPort hdr.port PortState.free) .line
    simpa [t, State.reply, State.updPort, port, PortState.free] using kept
  · refine State.ext_fields ?_ ?_ ?_ ?_ ?_ ?_ ?_ ?_ ?_ ?_ ?_ ?_ ?_ ?_ ?_ ?_ ?_ ?_ ?_ ?_ ?_
    all_goals simp [t]

end

section
/-! SUPPORT. The retire event with one head due, the outcome record field by field, and the end of a splice zone (O49; R30, R31, R34,
R35, R132). -/

namespace Sys2Proof.Machine

/-! ### The retire event (R30) -/

theorem retireLoop_of_not_due {s : State} (h : s.retireDue = false) (n : Nat) : retireLoop n s = s := by
  cases n with
  | zero => rfl
  | succ n => exact if_neg (by simp [h])

/-- Where no record behind the head is due, the head alone leaves. -/
theorem State.retireRun_of_head {s : State} {r : TrackRecord} {rs : List TrackRecord} (h : s.track = r :: rs)
    (due : reached s.web.h r.z = true) (behind : ∀ x xs, rs = x :: xs → reached s.web.h x.z = false) :
    s.retireRun = s.leaveHead .unconfirmed := by
  have track := State.leaveHead_track h .unconfirmed
  have done : (s.leaveHead .unconfirmed).retireDue = false := by
    unfold State.retireDue
    rw [track, (s.leaveHead_frame .unconfirmed).1]
    cases rest : rs with
    | nil => rfl
    | cons x xs => exact behind x xs rest
  have first : s.retireDue = true := by
    unfold State.retireDue
    rw [h]
    exact due
  unfold State.retireRun
  rw [h, List.length_cons, retireLoop, if_pos first]
  exact retireLoop_of_not_due done _

/-- The record with the statuses that are not yet final UNCONFIRMED (R31). -/
theorem TrackRecord.finalize_unconfirmed (r : TrackRecord) :
    r.finalize .unconfirmed = { r with st := .tab fun st => { r.st.get st with
      status := if (r.st.get st).status = .pending ∨ (r.st.get st).sent then .unconfirmed else (r.st.get st).status } } := by
  unfold TrackRecord.finalize
  congr 2
  funext st
  obtain ⟨k, decision, status, target, feed, report⟩ := r.st.get st
  cases status <;> rfl

/-! ### The stations (R31, R76, R94, R140) -/

theorem StationEntry.afterDrop_descriptor (e : StationEntry) (j : Slot) (x : Option OverdueEntry) (c : Idx) :
    (e.afterDrop j x).lanes.map (·.get c) = (e.lanes.map (·.get c)).map fun d =>
      if ∃ y ∈ x, y.slot = j ∧ d.stage = .awaiting y.seq then { d with stage := .vacant } else d := by
  cases lanes : e.lanes with
  | none =>
    cases x with
    | none => simp [StationEntry.afterDrop, lanes]
    | some y => by_cases slot : y.slot = j <;> simp [StationEntry.afterDrop, StationEntry.giveUp, slot, lanes]
  | some ls =>
    cases x with
    | none => simp [StationEntry.afterDrop, lanes]
    | some y =>
      by_cases slot : y.slot = j <;>
        simp [StationEntry.afterDrop, StationEntry.giveUp, Descriptor.giveUp, Descriptor.awaits, slot, lanes]

theorem State.leaveHead_descriptor {s : State} {r : TrackRecord} {rs : List TrackRecord} (h : s.track = r :: rs) (final : Status)
    (j : Slot) (st c : Idx) : (s.leaveHead final).descriptor j st c = (s.descriptor j st c).map fun d =>
      if ∃ x ∈ s.droppedBy r st, x.slot = j ∧ d.stage = .awaiting x.seq then { d with stage := .vacant } else d := by
  rw [State.descriptor_eq, State.descriptor_eq, State.leaveHead_entry h]
  cases s.entry j st with
  | none => rfl
  | some e => exact e.afterDrop_descriptor j _ c

theorem State.leaveHead_slot_but_job {s : State} {r : TrackRecord} {rs : List TrackRecord} (h : s.track = r :: rs) (final : Status)
    (j : Slot) : (s.leaveHead final).slots.get j =
      { (s.slots.upd r.slot JobSlot.released).get j with job := ((s.leaveHead final).slots.get j).job } := by
  have settled := (s.headSettled_sameButEntries r rs final).but_job j
  rw [State.leaveHead_jobs h, State.leaveHead_slots h, Two.get_upd, Two.get_upd]
  split
  · subst j
    rw [settled]
    rfl
  · exact settled

/-- Where no overdue order is dropped, the job slots change in their counts alone. -/
theorem State.leaveHead_slots_of_undropped {s : State} {r : TrackRecord} {rs : List TrackRecord} (h : s.track = r :: rs)
    (final : Status) (undropped : ∀ st, s.droppedBy r st = none) :
    (s.leaveHead final).slots = s.slots.upd r.slot JobSlot.released := by
  have entries : ∀ j st, (s.headSettled r rs final).entry j st = s.entry j st := by
    intro j st
    have left := State.leaveHead_entry h final j st
    rw [undropped] at left
    rw [State.entry_eq, ← State.leaveHead_jobs h final, ← State.entry_eq, left]
    cases s.entry j st <;> rfl
  rw [State.leaveHead_slots h, (s.headSettled_sameButEntries r rs final).slots_eq entries]

/-- A record of another seq than the head's is found as before. -/
theorem findRecord_of_head_ne {q : SeqNo} {r r' : TrackRecord} (rs : List TrackRecord) (h : r.seq ≠ q) (same : r'.seq = r.seq) :
    findRecord q (r' :: rs) = findRecord q (r :: rs) := by
  simp only [findRecord, same, h, if_false]

theorem State.queued_record {s x : State} {r r' : TrackRecord} {rs : List TrackRecord} {queue : Option SeqNo}
    (h : s.track = r :: rs) (hx : x.track = r' :: rs) (same : r'.seq = r.seq) (unqueued : queue ≠ some r.seq) :
    queue.bind s.record = queue.bind x.record := by
  cases queue with
  | none => rfl
  | some q =>
    have other : r.seq ≠ q := fun e => unqueued (e ▸ rfl)
    simp only [Option.bind_some, State.record, h, hx]
    exact (findRecord_of_head_ne rs other same).symm

/-- What the order of a leaving record does to its station (R76, R94, R140). -/
theorem State.leaveHead_sent {s : State} {r : TrackRecord} {rs : List TrackRecord} (h : s.track = r :: rs) (final : Status) {st : Idx}
    (sent : (r.st.get st).sent) :
    let t := s.leaveHead final
    let sq := (s.seqr.get st).overdueBy r st
    (∀ c, t.lane st c = { s.lane st c with reserved := (s.lane st c).reserved - (r.st.get st).feeds.get c }) ∧
    (r.seq ∉ sq.abortSet → sq.queue = some r.seq →
      t.seqr.get st = { sq with queue := none } ∧ t.links.get st = s.links.get st) ∧
    (r.seq ∉ sq.abortSet → sq.queue ≠ some r.seq → sq.awaited = .order r.seq →
      QueuedGoesOut s t st { sq with awaited := .none, timer := none }) ∧
    (r.seq ∉ sq.abortSet → sq.queue ≠ some r.seq → sq.awaited ≠ .order r.seq →
      t.seqr.get st = sq ∧ t.links.get st = s.links.get st) ∧
    (r.seq ∈ sq.abortSet → sq.queue ≠ some r.seq → sq.awaited = .abort → AbortSettled s t st sq r.seq .unknown) := by
  obtain ⟨x, track, before, after⟩ := State.leaveHead_ordersAt h final st
  obtain ⟨seqr, lanes, link, -⟩ := State.ordersAt_eq_iff.1 before
  obtain ⟨seqr', lanes', link', -⟩ := State.ordersAt_eq_iff.1 after
  have record {queue : Option SeqNo} (unqueued : queue ≠ some r.seq) : queue.bind s.record = queue.bind x.record :=
    State.queued_record h track rfl unqueued
  intro t sq
  refine ⟨fun c => ?_, fun unnamed queued => ?_, fun unnamed unqueued awaits => ?_, fun unnamed unqueued unawaited => ?_,
    fun named unqueued awaits => ?_⟩
  · have left := State.leaveStation_lane (s := x) sent c
    simp only [State.lane, lanes] at left ⊢
    rw [lanes', left]
  · obtain ⟨sequencer, links⟩ := State.leaveStation_queued (s := x) sent (seqr ▸ unnamed) (seqr ▸ queued)
    exact ⟨by rw [seqr', sequencer, seqr], by rw [link', links, link]⟩
  · have out := State.leaveStation_awaited (s := x) sent (seqr ▸ unnamed) (seqr ▸ unqueued) (seqr ▸ awaits)
    rw [seqr] at out
    exact out.congr (record unqueued) link.symm seqr' link'
  · obtain ⟨sequencer, links⟩ := State.leaveStation_idle (s := x) sent (seqr ▸ unnamed) (seqr ▸ unqueued) (seqr ▸ unawaited)
    exact ⟨by rw [seqr', sequencer, seqr], by rw [link', links, link]⟩
  · have settled := State.leaveStation_aborted (s := x) sent (seqr ▸ named) (seqr ▸ unqueued) (seqr ▸ awaits)
    rw [seqr] at settled
    exact settled.congr (record unqueued) link.symm seqr' link'

/-- A station where the record's order was not out keeps its orders. -/
theorem State.leaveHead_unsent {s : State} {r : TrackRecord} {rs : List TrackRecord} (h : s.track = r :: rs) (final : Status)
    {st : Idx} (unsent : ¬ (r.st.get st).sent) : (s.leaveHead final).ordersAt st = s.ordersAt st := by
  obtain ⟨x, -, before, after⟩ := State.leaveHead_ordersAt h final st
  rw [after, State.leaveStation_of_not_sent unsent, before]

/-! ### The outcome record (R34, R35) -/

/-- The advice is yes exactly where there is a reason. -/
theorem Reasons.advice_eq (x : Reasons) :
    x.advice = decide (x ≠ { verdict := false, splice := false, lost := false, unlocked := false, station := false,
                             embossLift := false, foilMissing := false }) := by
  obtain ⟨verdict, splice, lost, unlocked, station, embossLift, foilMissing⟩ := x
  simp [Reasons.advice, Bool.or_assoc]

/-- The three reasons that read the job slot, said of the stored entries. -/
theorem State.reasons_of_slot (s : State) (r : TrackRecord) :
    let feed (st c : Idx) : Nat := ((r.st.get st).feed.getD (.all 0)).get c
    let entry (st : Idx) : Option StationEntry := (s.slots.get r.slot).job.bind fun job => job.stations.get st
    (s.stationReason r = Idx.all.any fun st =>
      (entry st).isSome && decide ((r.st.get st).status ≠ .done) && decide ((r.st.get st).status ≠ .passed)) ∧
    (s.embossLift r = Idx.all.any fun st =>
      decide ((r.st.get st).decision = .lift) && ((entry st).map fun e => decide (e.type ≠ .foil)).getD false) ∧
    (∀ c, s.foilMissing r c = Idx.all.any fun st => decide (feed st c = 0) &&
      (((entry st).bind (·.lanes)).map fun ls =>
        decide ((ls.get c).code = .on) || decide ((ls.get c).code = .onReport)).getD false) := by
  intro feed entry
  have entries : ∀ st, s.entry r.slot st = entry st := fun st => s.entry_eq r.slot st
  refine ⟨?_, ?_, fun c => ?_⟩
  · unfold State.stationReason
    congr 1
    funext st
    simp [entries, Bool.and_assoc]
  · unfold State.embossLift
    congr 1
    funext st
    rw [entries]
    cases entry st with
    | none => simp
    | some e => cases type : e.type <;> simp [type]
  · unfold State.foilMissing
    congr 1
    funext st
    rw [State.descriptor_eq, entries]
    cases entry st with
    | none => simp
    | some e =>
      cases lanes : e.lanes with
      | none => simp [lanes]
      | some ls =>
        simp only [Option.map_some, Option.bind_some, Option.getD_some, lanes, Bool.decide_or]
        exact Bool.and_comm _ _

end Sys2Proof.Machine

open Sys2Proof Sys2Proof.Machine

/-- Settles O49: the retire event is one head leaving; each station's part is the step of that station alone. -/
theorem recordsAndZonesLeaveBehind : Obligations.RecordsAndZonesLeaveBehind := by
  refine ⟨?_, ?_, ?_⟩
  · intro r rs s track due behind sent dropped slots
    have meaning : exec .retire s = .next s.retireRun := rfl
    refine ⟨s.leaveHead .unconfirmed, by rw [meaning, State.retireRun_of_head track due behind], State.leaveHead_track track _, ?_,
      State.leaveHead_slot_but_job track _, fun j st c => State.leaveHead_descriptor track _ j st c,
      fun undropped => State.leaveHead_slots_of_undropped track _ undropped, State.leaveHead_watches track _, ?_, ?_, ?_,
      fun st out => State.leaveHead_sent track _ out, ?_⟩
    · rw [State.leaveHead_outcomes track, TrackRecord.finalize_unconfirmed]
    · intro p detached
      rw [State.leaveHead_ports track, if_neg (by simp [detached])]
    · intro p subscribed
      rw [State.leaveHead_ports track, if_pos subscribed]
    · intro st unsent
      obtain ⟨seqr, lanes, links, -⟩ := State.ordersAt_eq_iff.1 (State.leaveHead_unsent track .unconfirmed unsent)
      exact ⟨seqr, lanes, links⟩
    · refine State.ext_fields ?_ ?_ ?_ ?_ ?_ ?_ ?_ ?_ ?_ ?_ ?_ ?_ ?_ ?_ ?_ ?_ ?_ ?_ ?_ ?_ ?_
      all_goals simp
  · intro r s feed entry reasons
    obtain ⟨station, embossLift, foilMissing⟩ := s.reasons_of_slot r
    have same : ∀ c v, s.reasons r c v = reasons c v := by
      intro c v
      simp only [State.reasons, station, embossLift, foilMissing]
      rfl
    unfold State.outcomeOf
    congr 1
    congr 1
    funext c
    cases r.verdict.get c with
    | none => rfl
    | some v =>
      simp only [same, Reasons.advice_eq]
      rfl
  · intro x s listed passed
    have meaning : exec (.spliceZoneEnd x.stop) s = execSpliceZoneEnd x.stop s := rfl
    have ends : s.splices.any (fun y => decide (y.stop = x.stop)) = true := List.any_eq_true.2 ⟨x, listed, by simp⟩
    rw [meaning, execSpliceZoneEnd, if_pos ⟨ends, passed⟩]
    rfl

end

section
/-! SUPPORT. RESUME (O32; R58, R145, R146): the first invalid entry of the hold contexts, and the accepted RESUME at which no entry stands
to be re-ordered. -/

namespace Sys2Proof.Machine

/-! ### The first invalid entry (R145) -/

/-- The entries of the hold contexts in the order in which RESUME judges them. -/
def State.listed (s : State) : List (Idx × ContextEntry) := Idx.all.flatMap fun st => (s.entries st).map fun e => (st, e)

/-- What the judging of one entry answers: nothing where it is valid. -/
def State.judged (s : State) (x : Idx × ContextEntry) : Option (Idx × SeqNo × RestrikeCause) :=
  if s.restrikes x.2 then (s.restrikeCause x.1).map fun c => (x.1, x.2.seq, c) else none

theorem State.firstInvalid_eq (s : State) : s.firstInvalid = s.listed.findSome? s.judged := by
  rw [← List.head?_filterMap]
  simp only [State.firstInvalid, State.listed, List.filterMap_flatMap, List.filterMap_map]
  rfl

theorem State.mem_listed {s : State} {x : Idx × ContextEntry} : x ∈ s.listed ↔ x.2 ∈ s.entries x.1 := by
  obtain ⟨st, e⟩ := x
  have station : st ∈ Idx.all := by cases st <;> decide
  simp [State.listed, station]

theorem State.restrikes_iff {s : State} {e : ContextEntry} :
    s.restrikes e = true ↔ e.action = .restrike ∧ s.record e.seq ≠ none ∧ reached s.web.h e.target = false := by
  simp [State.restrikes, Option.isSome_iff_ne_none, and_assoc]

theorem State.restrikeCause_of_invalid {s : State} {st : Idx}
    (h : (s.units.get st).tripped = true ∨ s.lineUnit.tripped = true ∨ (s.calcs.get st).phased = false) :
    s.restrikeCause st =
      some (if (s.units.get st).tripped then .unitTripped else if s.lineUnit.tripped then .lineTripped else .unphased) := by
  unfold State.restrikeCause
  split
  · rfl
  next unit =>
    split
    · rfl
    next line => rw [if_pos (by simpa [unit, line] using h)]

theorem State.restrikeCause_of_valid {s : State} {st : Idx}
    (h : ¬ ((s.units.get st).tripped = true ∨ s.lineUnit.tripped = true ∨ (s.calcs.get st).phased = false)) :
    s.restrikeCause st = none := by
  simp only [not_or, Bool.not_eq_true, Bool.not_eq_false] at h
  obtain ⟨unit, line, phased⟩ := h
  simp [State.restrikeCause, unit, line, phased]

/-! ### Where no entry stands (R58, R146) -/

theorem foldl_fixed_of_mem {α β : Type} {g : β → α → β} {b : β} {l : List α} (h : ∀ x ∈ l, g b x = b) : l.foldl g b = b := by
  induction l with
  | nil => rfl
  | cons x xs ih => rw [List.foldl_cons, h x (by simp), ih fun y hy => h y (by simp [hy])]

theorem State.restrikeStation_quiet {s : State} {st : Idx} (h : ∀ e ∈ s.entries st, s.restrikes e = false) :
    s.restrikeStation st = s :=
  foldl_fixed_of_mem fun e he => by rw [if_neg (by simp [h e he])]

/-- The line in RUN with every station's trim loaded from its context (R58, R146). -/
def State.trimsLoaded (s : State) : State := Idx.all.foldl (fun s st => s.loadTrim st) { s with line := .run }

@[simp] theorem State.trimsLoaded_frame (s : State) :
    s.trimsLoaded.web = s.web ∧ s.trimsLoaded.reader = s.reader ∧ s.trimsLoaded.nextSeq = s.nextSeq ∧
    s.trimsLoaded.outcomes = s.outcomes ∧ s.trimsLoaded.seqr = s.seqr ∧ s.trimsLoaded.lanes = s.lanes ∧
    s.trimsLoaded.heat = s.heat ∧ s.trimsLoaded.splices = s.splices ∧ s.trimsLoaded.units = s.units ∧
    s.trimsLoaded.lineUnit = s.lineUnit ∧ s.trimsLoaded.slots = s.slots ∧ s.trimsLoaded.settings = s.settings ∧
    s.trimsLoaded.line = .run ∧ s.trimsLoaded.estop = s.estop ∧ s.trimsLoaded.links = s.links ∧
    s.trimsLoaded.pending = s.pending := by
  simp [State.trimsLoaded, Idx.all]

theorem State.trimsLoaded_fields (s : State) : SameFields s s.trimsLoaded := by
  refine SameFields.trans (t := { s with line := .run }) (.of_track rfl) (SameFields.foldl _ (fun s st => ?_) _ _)
  unfold State.loadTrim
  split
  · exact s.setTrim_fields st _
  · exact .refl s

theorem State.trimsLoaded_restrikes (s : State) (e : ContextEntry) : s.trimsLoaded.restrikes e = s.restrikes e := by
  have stands : (s.trimsLoaded.record e.seq).isSome = (s.record e.seq).isSome := by
    simpa [State.fieldsOf] using congrArg Option.isSome (s.trimsLoaded_fields e.seq)
  simp [State.restrikes, stands]

/-- A station's calculator with the trim of the station's context, clamped to the ACTIVE slot (R58). -/
def State.loadedCalc (s : State) (st : Idx) : Calc :=
  match (s.seqr.get st).context with
  | some c => { s.calcs.get st with trim := clampAbs (s.trimLimit st) c.trim }
  | none => s.calcs.get st

theorem State.loadTrim_calcs (s : State) (st : Idx) : (s.loadTrim st).calcs = s.calcs.set st (s.loadedCalc st) := by
  unfold State.loadTrim State.loadedCalc
  cases (s.seqr.get st).context with
  | some c => simp [Four.upd]
  | none => simp

theorem State.loadTrim_loadedCalc (s : State) {st v : Idx} (h : v ≠ st) : (s.loadTrim st).loadedCalc v = s.loadedCalc v := by
  have limit : (s.loadTrim st).trimLimit v = s.trimLimit v := State.trimLimit_of_keys (fun j => by simp) v
  simp only [State.loadedCalc, State.loadTrim_frame, State.loadTrim_calcs, Four.get_set_ne _ _ h, limit]

theorem State.trimsLoaded_calcs (s : State) (st : Idx) : s.trimsLoaded.calcs.get st = s.loadedCalc st := by
  have run : ∀ v, ({ s with line := .run } : State).loadedCalc v = s.loadedCalc v := fun _ => rfl
  cases st <;> simp [State.trimsLoaded, Idx.all, State.loadTrim_calcs, State.loadTrim_loadedCalc, run]

theorem State.resumeLine_of_passed {s : State} (h : ∀ st, ∀ e ∈ s.entries st, s.restrikes e = false) :
    s.resumeLine = s.trimsLoaded.dropContexts.reversalTest := by
  have quiet : Idx.all.foldl (fun s st => s.restrikeStation st) s.trimsLoaded = s.trimsLoaded :=
    foldl_fixed_of_mem fun st _ => State.restrikeStation_quiet fun e he => by
      rw [s.trimsLoaded_restrikes]
      exact h st e (by simpa [State.entries] using he)
  exact congrArg (fun t : State => t.dropContexts.reversalTest) quiet

theorem State.reversalTest_units (s : State) : s.reversalTest.units = s.units := by
  unfold State.reversalTest
  split
  · exact State.raise_line_units _ _ rfl
  · rfl

theorem State.restruck_of_passed {s : State} {st : Idx} (h : ∀ e ∈ s.entries st, s.restrikes e = false) :
    s.restruck st =
      { ordered := [], passed := ((s.entries st).filter fun e => decide (e.action = .restrike)).map (·.seq) } := by
  have none : (s.entries st).filter s.restrikes = [] := List.filter_eq_nil_iff.2 fun e he => by simp [h e he]
  have all : (s.entries st).filter (fun e => decide (e.action = .restrike) && !s.restrikes e) =
      (s.entries st).filter fun e => decide (e.action = .restrike) :=
    List.filter_congr fun e he => by simp [h e he]
  simp only [State.restruck, none, all, List.map_nil]

/-! ### The answer (R135, R145) -/

theorem State.takeResume_invalid {s : State} (hold : s.line = .hold) (clear : s.estop = false)
    (idle : ∀ st, (s.seqr.get st).awaited ≠ .abort) {st : Idx} {q : SeqNo} {c : RestrikeCause}
    (invalid : s.firstInvalid = some (st, q, c)) : s.takeResume = (s, ⟨.context, .resumeInvalid .hold false st q c⟩) := by
  simp [State.takeResume, hold, clear, State.abortOutstanding_eq_false idle, invalid]

theorem State.takeResume_valid {s : State} (hold : s.line = .hold) (clear : s.estop = false)
    (idle : ∀ st, (s.seqr.get st).awaited ≠ .abort) (valid : s.firstInvalid = none) :
    s.takeResume = (s.resumeLine, ⟨.ok, .resumed s.resumeLine.line false (.tab s.restruck)⟩) := by
  simp [State.takeResume, hold, clear, State.abortOutstanding_eq_false idle, valid]

/-- A RESUME that its port serves answers what is made of the state with the port freed. -/
theorem execResume_taken {hdr : ReqHdr} {s : State} (taken : s.takes hdr .resume) (port : hdr.port = .line) :
    exec (.resume hdr) s = ((s.updPort hdr.port PortState.free).takeResume.1.reply hdr.port hdr.tag 3
      (s.updPort hdr.port PortState.free).takeResume.2).done := by
  have meaning : exec (.resume hdr) s = (s.serve hdr .resume 3 (lineRequest hdr State.takeResume)).done := rfl
  rw [meaning, State.serve_taken taken, State.answer_eq, lineRequest, if_pos port]

theorem execResume_invalid {hdr : ReqHdr} {s : State} (taken : s.takes hdr .resume) (port : hdr.port = .line)
    (mirrored : TripsMirrored s) (hold : s.line = .hold) (clear : s.estop = false)
    (idle : ∀ st, (s.seqr.get st).awaited ≠ .abort) {st : Idx} {q : SeqNo} {c : RestrikeCause}
    (invalid : s.firstInvalid = some (st, q, c)) :
    exec (.resume hdr) s = .next (s.answered hdr 3 .context (.resumeInvalid .hold false st q c)) := by
  rw [execResume_taken taken port,
    State.takeResume_invalid (s := s.updPort hdr.port PortState.free) hold clear idle invalid, State.reply_free]
  exact State.done_of mirrored (fun _ => rfl) fun _ => rfl

end Sys2Proof.Machine

open Sys2Proof Sys2Proof.Machine

/-- Settles O32: the entries before the first invalid one judge to nothing; where none stands, only the trims are loaded. -/
theorem resumeLoadsContextTrims : Obligations.ResumeLoadsContextTrims := by
  intro hdr s taken port mirrored hold clear idle stands invalid passed
  have judges : ∀ x : Idx × ContextEntry, ¬ (stands x.2 ∧ invalid x.1) → s.judged x = none := by
    intro x valid
    unfold State.judged
    split
    next restruck => rw [State.restrikeCause_of_valid fun bad => valid ⟨State.restrikes_iff.1 restruck, bad⟩]; rfl
    · rfl
  refine ⟨?_, ?_⟩
  · intro before after st e listed valid standing bad
    refine execResume_invalid taken port mirrored hold clear idle ?_
    have first : s.listed = before ++ (st, e) :: after := listed
    rw [s.firstInvalid_eq, first, List.findSome?_append, List.findSome?_eq_none_iff.2 fun x hx => judges x (valid x hx),
      Option.none_or, List.findSome?_cons, State.judged, if_pos (State.restrikes_iff.2 standing), State.restrikeCause_of_invalid bad]
    rfl
  · intro none_stands
    let u := s.updPort hdr.port PortState.free
    have quiet : ∀ st, ∀ e ∈ u.entries st, u.restrikes e = false := fun st e he =>
      Bool.eq_false_iff.2 fun h => none_stands st e he (State.restrikes_iff.1 h)
    have valid : u.firstInvalid = none := by
      rw [u.firstInvalid_eq]
      exact List.findSome?_eq_none_iff.2 fun x hx => judges x fun ⟨h, _⟩ => none_stands x.1 x.2 (State.mem_listed.1 hx) h
    have resumed := State.resumeLine_of_passed quiet
    have run : u.resumeLine.line = .run := by simp [resumed]
    let t := u.resumeLine.reply hdr.port hdr.tag 3 ⟨.ok, .resumed .run false (.tab passed)⟩
    have answer : u.takeResume = (u.resumeLine, ⟨.ok, .resumed .run false (.tab passed)⟩) := by
      have restruck : u.restruck = passed := funext fun st => State.restruck_of_passed (quiet st)
      rw [State.takeResume_valid (s := u) hold clear idle valid, run, restruck]
    have units : t.units = s.units := by simp [t, resumed, State.reply, State.reversalTest_units, u]
    have trips : ∀ st, (u.resumeLine.seqr.get st).tripped = (u.seqr.get st).tripped := u.resumeLine_within.trips
    refine ⟨t, ?_, run, ?_, ?_, ?_, ?_⟩
    · rw [execResume_taken taken port, answer]
      exact State.done_of mirrored (fun st => by rw [units]) trips
    · intro st
      simp [t, resumed, State.reply, State.dropContexts, u]
    · intro st c context
      have loaded : t.calcs.get st = u.loadedCalc st := by
        rw [← u.trimsLoaded_calcs]
        simp [t, resumed, State.reply]
      rw [loaded, State.loadedCalc, show (u.seqr.get st).context = some c from context]
      rfl
    · have kept : (u.resumeLine.ports.get .line).tx = (u.ports.get .line).tx :=
        congrArg (·.2.2.2) (u.resumeLine_within.ports .line)
      simp only [t, State.reply, State.updPort, port, Three.get_upd_same, kept]
      simp [u, State.updPort, port, PortState.free]
    · refine State.ext_fields ?_ ?_ ?_ ?_ ?_ ?_ ?_ ?_ ?_ ?_ ?_ ?_ ?_ ?_ ?_ ?_ ?_ ?_ ?_ ?_ ?_
      all_goals simp [t, resumed, State.reply, State.reversalTest_units, u]

end

section
/-! SUPPORT. What a commit changes (O44, O45; R63 to R68): one record of the track and its watch mark, its station alone, and the order that
joins the in-flight list. -/

namespace Sys2Proof.Machine

/-! ### One record of the track (R67, R173) -/

theorem RecordBecomes.of_track {s t : State} (q : SeqNo) (h : t.track = s.track) : RecordBecomes s t q id :=
  ⟨fun x => x.watchMark, by simp [h]⟩

theorem RecordBecomes.marked {s t u : State} {q : SeqNo} {f : TrackRecord → TrackRecord} (a : RecordBecomes s t q f)
    (b : RecordBecomes t u q id) (keeps : ∀ x, (f x).seq = x.seq) : RecordBecomes s u q f := by
  obtain ⟨m, hm⟩ := a
  obtain ⟨n, hn⟩ := b
  refine ⟨fun x => n { f x with watchMark := m x }, ?_⟩
  rw [hn, hm, List.map_map]
  refine List.map_congr_left fun x _ => ?_
  by_cases h : x.seq = q <;> simp [h, keeps]

theorem State.updRecord_becomes (s : State) (q : SeqNo) (f : TrackRecord → TrackRecord) : RecordBecomes s (s.updRecord q f) q f :=
  ⟨fun x => (f x).watchMark, rfl⟩

theorem State.updField_becomes (s : State) (q : SeqNo) (st : Idx) (f : StationField → StationField) :
    RecordBecomes s (s.updField q st f) q fun x => x.updStation st f := s.updRecord_becomes q _

theorem RecordBecomes.foldl {α : Type} {q : SeqNo} (g : State → α → State) (h : ∀ s x, RecordBecomes s (g s x) q id) (l : List α) :
    ∀ s, RecordBecomes s (l.foldl g s) q id := by
  induction l with
  | nil => exact fun s => .of_track q rfl
  | cons x xs ih => exact fun s => (h s x).marked (ih _) fun _ => rfl

/-- A unit that is met marks at most the record concerned (R171). -/
theorem State.meetWatch_track (s : State) (w : Idx) (q : Option SeqNo) : (s.meetWatch w q).track = s.track ∨
    ∃ x, q = some x ∧
      (s.meetWatch w q).track = (s.updRecord x fun r => { r with watchMark := r.watchMark.set w true }).track := by
  unfold State.meetWatch
  dsimp only
  generalize touched : s.updWatch w _ = u
  have track : u.track = s.track := by rw [← touched]; rfl
  split
  · cases (s.watches.get w).action with
    | none => exact .inl track
    | some a =>
      cases a with
      | notice => cases (s.watches.get w).owner <;> exact .inl (by simp [track])
      | mark =>
        cases q with
        | none => exact .inl track
        | some x => exact .inr ⟨x, rfl, by simp [State.updRecord, track]⟩
      | stop => exact .inl (by simp [track])
  · exact .inl track

theorem State.meetWatch_becomes (s : State) (w : Idx) (q : SeqNo) : RecordBecomes s (s.meetWatch w (some q)) q id := by
  obtain kept | ⟨x, concerned, marked⟩ := s.meetWatch_track w (some q)
  · exact .of_track q kept
  · obtain rfl := Option.some.inj concerned
    exact ⟨fun r => r.watchMark.set w true, marked⟩

theorem State.commitWatched_becomes (s : State) (st : Idx) (q : SeqNo) : RecordBecomes s (s.commitWatched st q) q id := by
  refine RecordBecomes.foldl _ (fun s w => ?_) _ s
  dsimp only
  split
  · exact s.meetWatch_becomes w q
  · exact .of_track q rfl

/-! ### One station -/

theorem SameElsewhere.trans {s t u : State} {st : Idx} (a : SameElsewhere s t st) (b : SameElsewhere t u st) : SameElsewhere s u st := by
  intro v hv
  obtain ⟨seqr, calcs, lanes, units, links⟩ := a v hv
  obtain ⟨seqr', calcs', lanes', units', links'⟩ := b v hv
  exact ⟨seqr'.trans seqr, calcs'.trans calcs, lanes'.trans lanes, units'.trans units, links'.trans links⟩

/-- A change of no station is a change of no other station. -/
theorem SameElsewhere.of_same {s t : State} (st : Idx) (seqr : t.seqr = s.seqr) (calcs : t.calcs = s.calcs) (lanes : t.lanes = s.lanes)
    (units : t.units = s.units) (links : t.links = s.links) : SameElsewhere s t st := fun v _ => by simp [seqr, calcs, lanes, units, links]

theorem State.updCalc_elsewhere (s : State) (st : Idx) (f : Calc → Calc) : SameElsewhere s (s.updCalc st f) st := fun v hv => by
  simp [State.updCalc, hv]

theorem State.updSeqr_elsewhere (s : State) (st : Idx) (f : Sequencer → Sequencer) : SameElsewhere s (s.updSeqr st f) st := fun v hv => by
  simp [State.updSeqr, hv]

theorem State.updLink_elsewhere (s : State) (st : Idx) (f : Link → Link) : SameElsewhere s (s.updLink st f) st := fun v hv => by
  simp [State.updLink, hv]

theorem State.raise_elsewhere (s : State) {ev : FaultEvent} {st : Idx} (h : ev.unit = .station st) : SameElsewhere s (s.raise ev) st :=
  fun v hv => by simp [(s.raise_station_others ev st h).2 v hv]

theorem State.transmit_elsewhere (s : State) (st : Idx) (q : SeqNo) : SameElsewhere s (s.transmit st q) st := by
  unfold State.transmit
  split
  · exact (s.updLink_elsewhere st _).trans (State.updSeqr_elsewhere _ st _)
  · exact .of_same st rfl rfl rfl rfl rfl

theorem State.launch_elsewhere (s : State) (st : Idx) (q : SeqNo) (b x : Bool) : SameElsewhere s (s.launch st q b x) st := by
  refine (s.updSeqr_elsewhere st fun sq => { sq with inFlight := sq.inFlight ++ [{ seq := q, phasing := b, restrike := x }] }).trans ?_
  unfold State.launch State.issue
  split
  · exact State.transmit_elsewhere _ st q
  · exact State.updSeqr_elsewhere _ st _

theorem State.commitWatched_elsewhere (s : State) (st : Idx) (q : SeqNo) : SameElsewhere s (s.commitWatched st q) st :=
  .of_same st (by simp) (by simp) (by simp) (by simp) (by simp)

/-! ### The order on its way (R67, R68) -/

theorem Sequencer.phasing_of_new {sq : Sequencer} {q : SeqNo} (new : ∀ x ∈ sq.inFlight, x.seq ≠ q) (phasing : Bool) :
    Sequencer.phasing { sq with inFlight := sq.inFlight ++ [{ seq := q, phasing := phasing }] } q = phasing := by
  have others : (sq.inFlight.any fun x => decide (x.seq = q) && x.phasing) = false := by
    simpa using fun x hx e => absurd e (new x hx)
  simp [Sequencer.phasing, others]

theorem State.launch_issued {s : State} {st : Idx} {q : SeqNo} {r : TrackRecord} (h : s.record q = some r)
    (new : ∀ x ∈ (s.seqr.get st).inFlight, x.seq ≠ q) (phasing : Bool) :
    OrderIssued s (s.launch st q phasing) st q phasing (r.strikeOrder st phasing) := by
  have flag := Sequencer.phasing_of_new new phasing
  let listed := s.updSeqr st fun sq => { sq with inFlight := sq.inFlight ++ [{ seq := q, phasing := phasing }] }
  have record : listed.record q = some r := h
  have launched : s.launch st q phasing = listed.issue st q := rfl
  unfold OrderIssued
  dsimp only
  rw [launched, State.issue]
  by_cases awaits : (s.seqr.get st).awaited = .none
  · rw [if_pos awaits, if_pos (by simpa [listed, State.updSeqr] using awaits), State.transmit, record]
    simp [listed, State.updSeqr, State.updLink, flag, Config.ackTimeout]
  · rw [if_neg awaits, if_neg (by simpa [listed, State.updSeqr] using awaits)]
    simp [listed, State.updSeqr]

theorem OrderIssued.congr {s s' t t' : State} {st : Idx} {q : SeqNo} {b : Bool} {f : LinkFrame} (h : OrderIssued s t st q b f)
    (seqr : s'.seqr = s.seqr) (links : s'.links = s.links) (seqr' : t'.seqr = t.seqr) (links' : t'.links = t.links) :
    OrderIssued s' t' st q b f := by
  unfold OrderIssued
  rw [seqr, links, seqr', links']
  exact h

theorem State.orderFoil_zero (s : State) (st : Idx) (j : Slot) (q : SeqNo) : s.orderFoil st j q (.all 0) = s := by
  have same : (Four.tab fun c => { (s.lanes.get st).get c with reserved := ((s.lanes.get st).get c).reserved + 0 }) = s.lanes.get st :=
    Four.tab_get _
  have reserve : s.reserve st (.all 0) = s := by
    simp only [State.reserve, State.updLanes, Four.get_all]
    rw [Four.upd_same same]
  unfold State.orderFoil
  rw [reserve]
  exact foldl_fixed_of_mem fun c _ => by simp

/-! ### MISSED without an order (R64) -/

theorem State.commitMissed_becomes (s : State) (st : Idx) (q : SeqNo) (overrun : Bool) :
    RecordBecomes s (s.commitMissed st q overrun) q fun x => x.updStation st fun f => { f with status := .missed } := by
  refine ((s.updField_becomes q st _).marked (.of_track q ?_) fun _ => rfl).marked (State.commitWatched_becomes _ st q) fun _ => rfl
  split <;> simp

theorem State.commitMissed_elsewhere (s : State) (st : Idx) (q : SeqNo) (overrun : Bool) :
    SameElsewhere s (s.commitMissed st q overrun) st := by
  have missed : SameElsewhere s ((s.updField q st fun f => { f with status := .missed }).updCalc st fun c =>
      { c with missed := min (c.missed + 1) Config.gapLimit }) st :=
    (SameElsewhere.of_same st rfl rfl rfl rfl rfl).trans (State.updCalc_elsewhere _ st _)
  refine (missed.trans ?_).trans (State.commitWatched_elsewhere _ st q)
  split
  · exact State.raise_elsewhere _ rfl
  · exact .of_same st rfl rfl rfl rfl rfl

theorem State.commitMissed_calcs (s : State) (st : Idx) (q : SeqNo) (overrun : Bool) :
    (s.commitMissed st q overrun).calcs = s.calcs.set st { s.calcs.get st with missed := min ((s.calcs.get st).missed + 1) 8 } := by
  cases overrun <;> simp [State.commitMissed, State.updCalc, Four.upd, Config.gapLimit]

theorem State.commitMissed_units (s : State) (st : Idx) (q : SeqNo) : (s.commitMissed st q false).units = s.units := by
  simp [State.commitMissed]

/-- A first soft fault of a station writes its unit and the ports, and nothing else (R154, R161). -/
theorem State.raise_soft_station {s : State} {ev : FaultEvent} {st : Idx} (soft : ev.kind.cls = .soft) (station : ev.unit = .station st)
    (clear : (s.units.get st).soft = false) :
    s.raise ev = { s with
      units := s.units.set st { s.units.get st with soft := true, latest := some (s.faultRecord ev .setSoft) },
      ports := (s.offer (.unitSoft (.station st))).ports } := by
  rw [Orders.raise_soft_first s ev soft (by rw [station]; exact clear), station]
  simp only [State.writeLatest, State.setUnit, State.unit, station, Four.get_set_same, Four.set_set]
  rfl

theorem State.commitMissed_overrun {s : State} {st : Idx} (q : SeqNo) (clear : (s.units.get st).soft = false) :
    ∃ x : FaultRecord, (s.commitMissed st q true).units = s.units.set st { s.units.get st with soft := true, latest := some x } := by
  unfold State.commitMissed
  dsimp only
  rw [if_pos rfl, State.raise_soft_station rfl rfl (by simpa using clear)]
  exact ⟨_, by simp; rfl⟩

end Sys2Proof.Machine

end

section
/-! SUPPORT. The commit that takes no feed, from case 5 on (O44, O45; R45 to R49, R63 to R68): its aim, its order, its fault and what the
command answers. -/

namespace Sys2Proof.Machine

/-! ### The aim (R47 to R49) -/

theorem phaseStep_within {t x : Pos} {stepMax tol : Nat} (h : (t - x).toInt.natAbs ≤ stepMax) :
    phaseStep t x stepMax tol = { target := t, phasing := false, residual := .withinStep } := if_pos h

/-- Beyond STEP_MAX the target stands STEP_MAX from the expected one, on the side of T. -/
theorem phaseStep_beyond {t x : Pos} {stepMax tol : Nat} (h : stepMax < (t - x).toInt.natAbs) :
    let aim := plus x (if 0 < (t - x).toInt then (stepMax : Int) else -(stepMax : Int))
    phaseStep t x stepMax tol =
      { target := aim, phasing := false, residual := if tol < (t - aim).toInt.natAbs then .beyondTol else .clamped } := by
  intro aim
  have side : signOf (t - x).toInt * stepMax = if 0 < (t - x).toInt then (stepMax : Int) else -(stepMax : Int) := by
    unfold signOf
    split
    · exact one_mul _
    next down =>
      rw [if_pos (by omega)]
      exact neg_one_mul _
  unfold phaseStep signedDist
  dsimp only
  rw [if_neg (by omega), side]
  simp only [← not_le, ite_not, aim]

/-- The target and the class of a commit whose station is PHASED (R48, R49). -/
theorem phaseStep_spec (t x : Pos) (stepMax tol : Nat) :
    let clamped := stepMax < (t - x).toInt.natAbs
    let aim := if clamped then plus x (if 0 < (t - x).toInt then (stepMax : Int) else -(stepMax : Int)) else t
    let beyond := clamped ∧ tol < (t - aim).toInt.natAbs
    let a := phaseStep t x stepMax tol
    a.target = aim ∧ a.phasing = false ∧ (a.residual = .beyondTol ↔ beyond) ∧ (a.residual = .clamped ↔ clamped ∧ ¬ beyond) := by
  intro clamped aim beyond a
  by_cases far : clamped
  · have there : aim = plus x (if 0 < (t - x).toInt then (stepMax : Int) else -(stepMax : Int)) := if_pos far
    have stepped : a = { target := aim, phasing := false, residual := if tol < (t - aim).toInt.natAbs then .beyondTol else .clamped } := by
      rw [there]
      exact phaseStep_beyond far
    simp [stepped, beyond, far]
  · have there : aim = t := if_neg far
    have stayed : a = { target := t, phasing := false, residual := .withinStep } := phaseStep_within (Nat.not_lt.1 far)
    simp [stayed, there, beyond, far]

theorem Calc.aim_of_phasing {c : Calc} {r : TrackRecord} {e : StationEntry} (p : Nat)
    (h : ∀ l, c.phased = true → c.last = some l → gapTestFails c.missed l r = true) : c.aim r e p = phasingAim (rawTarget r e c.trim) := by
  unfold Calc.aim
  dsimp only
  split
  next l phased last => rw [if_pos (h l phased last)]
  · rfl

theorem Calc.aim_of_phased {c : Calc} {r : TrackRecord} {e : StationEntry} {l : LastOrder} (p : Nat) (phased : c.phased = true)
    (last : c.last = some l) (gap : gapTestFails c.missed l r = false) :
    c.aim r e p = phaseStep (rawTarget r e c.trim) (expectedTarget l r p) e.stepMax e.tol := by
  simp [Calc.aim, phased, last, gap]

theorem gapTestFails_eq_true {missed : Nat} {l : LastOrder} {r : TrackRecord} :
    gapTestFails missed l r = true ↔ 8 < (r.seq - l.seq).toNat ∨ 8 ≤ missed ∨ r.slot ≠ l.slot := by
  simp only [gapTestFails, Bool.or_eq_true, decide_eq_true_eq, or_assoc]
  exact Iff.rfl

theorem gapTestFails_eq_false {missed : Nat} {l : LastOrder} {r : TrackRecord} (gap : (r.seq - l.seq).toNat ≤ 8) (few : missed < 8)
    (slot : r.slot = l.slot) : gapTestFails missed l r = false := by
  rw [← Bool.not_eq_true, gapTestFails_eq_true]
  rintro (far | many | other)
  · omega
  · omega
  · exact other slot

/-! ### The decision without a feed (R63, R65) -/

/-- The decision table makes a LIFT with the fault of its case, or the STRIKE of a station without foil. -/
def State.Unfed (s : State) (st : Idx) (r : TrackRecord) (e : StationEntry) (a : Aim) (d : Decision) (f : Option FaultKind) : Prop :=
  (s.liftCase st r e a = some f ∧ d = .lift) ∨ (s.liftCase st r e a = none ∧ e.type = .emboss ∧ d = .strike ∧ f = none)

theorem State.decide5_unfed {s : State} {st : Idx} {r : TrackRecord} {e : StationEntry} {a : Aim} {d : Decision} {f : Option FaultKind}
    (h : s.Unfed st r e a d f) : s.decide5 st r e a = { after := s, decision := d, feed := .all 0, fault := f } := by
  obtain ⟨lift, rfl⟩ | ⟨pass, type, rfl, rfl⟩ := h
  · simp [State.decide5, lift]
  · simp [State.decide5, pass, type, isFoil]

theorem State.Unfed.lift_of_fault {s : State} {st : Idx} {r : TrackRecord} {e : StationEntry} {a : Aim} {d : Decision} {k : FaultKind}
    (h : s.Unfed st r e a d (some k)) : d = .lift := by
  obtain ⟨-, rfl⟩ | ⟨-, -, -, none⟩ := h
  · rfl
  · cases none

theorem State.liftCase_unphase {s : State} (st : Idx) (r : TrackRecord) (e : StationEntry) {a : Aim} (h : a.phasing = true) :
    (s.unphase st).liftCase st r e a = s.liftCase st r e a := by simp [State.liftCase, h]

/-- Cases 6 to 10, for a commit that is no phasing one. -/
theorem State.liftCase_eq (s : State) (st : Idx) (r : TrackRecord) (e : StationEntry) {a : Aim} (h : a.phasing = false) :
    s.liftCase st r e a =
      if r.flagged = true ∨ r.origin = .lost ∨ r.locked = false ∨ (r.origin = .coasted ∧ (s.globals r.slot).coastPredict = false) then
        some none
      else if s.web.v < (s.globals r.slot).strikeMinSpeed then some none
      else if s.hot st = false then some (some .coldCommit)
      else if a.residual = .beyondTol then some (some .registerClamp)
      else if r.allReject = true ∧ e.liftOnReject = true then some none
      else none := by
  unfold State.liftCase
  dsimp only
  rw [if_neg (by simp [h])]

/-! ### The fault of a commit (R49, R67) -/

/-- The kind, the effect and the target with which a commit without a trip writes the latest-event record. -/
def commitFault (a : Aim) (d : Decision) : Option FaultKind → Option (FaultKind × Effect × Option Pos)
  | some k => some (k, .setSoft, if k = .registerClamp then some a.target else none)
  | none => if a.residual = .clamped ∧ (d = .strike ∨ d = .dry) then some (.clampInTol, .warning, some a.target) else none

/-- The record of such a fault, as it would be written now. -/
def State.commitRecordOf (s : State) (st : Idx) (q : SeqNo) (x : FaultKind × Effect × Option Pos) : FaultRecord :=
  s.faultRecord { kind := x.1, unit := .station st, seq := some q, target := x.2.2 } x.2.1

/-- A unit that takes a soft fault or a warning. -/
def FaultUnit.noting (u : FaultUnit) : Option FaultRecord → FaultUnit
  | none => u
  | some x => { u with soft := u.soft || decide (x.effect = .setSoft), latest := some x }

theorem FaultUnit.noting_tripped (u : FaultUnit) (x : Option FaultRecord) : (u.noting x).tripped = u.tripped := by cases x <;> rfl

theorem State.commitFaults_eq {s : State} {st : Idx} (q : SeqNo) (a : Aim) {d : Decision} {f : Option FaultKind}
    (soft : ∀ k, f = some k → k.cls = .soft ∧ d = .lift ∧ (s.units.get st).soft = false) :
    s.commitFaults st q a d f = { s with
      units := s.units.set st ((s.units.get st).noting ((commitFault a d f).map (s.commitRecordOf st q))),
      ports := (s.commitFaults st q a d f).ports } := by
  cases f with
  | some k =>
    obtain ⟨cls, rfl, clear⟩ := soft k rfl
    let target := if k = .registerClamp then some a.target else none
    have raised : s.commitFaults st q a .lift (some k) =
      s.raise { kind := k, unit := .station st, seq := some q, target := target } := if_neg (by simp)
    rw [raised, State.raise_soft_station cls rfl clear]
    simp [commitFault, FaultUnit.noting, State.commitRecordOf, State.faultRecord, target]
  | none =>
    unfold State.commitFaults commitFault
    dsimp only
    split
    · rw [Orders.warning_eq s st _ rfl rfl]
      simp [FaultUnit.noting, State.commitRecordOf, State.faultRecord]
    · simp [FaultUnit.noting]

/-! ### The order (R63, R67) -/

/-- The record is COMMITTED without a feed, the calculator notes the target, and the order goes on its way (R67 steps 2 to 6). -/
def State.orderUnfed (s : State) (st : Idx) (r : TrackRecord) (a : Aim) (d : Decision) : State :=
  ((s.updField r.seq st fun f =>
      { f with decision := d, status := .committed, target := some a.target, feed := some (.all 0) }).updCalc st fun c =>
    { c with phased := c.phased && !a.phasing, last := some { target := a.target, seq := r.seq, slot := r.slot }, missed := 0 }).launch
      st r.seq a.phasing

@[simp] theorem State.orderUnfed_frame (s : State) (st : Idx) (r : TrackRecord) (a : Aim) (d : Decision) :
    (s.orderUnfed st r a d).web = s.web ∧ (s.orderUnfed st r a d).reader = s.reader ∧
    (s.orderUnfed st r a d).nextSeq = s.nextSeq ∧ (s.orderUnfed st r a d).outcomes = s.outcomes ∧
    (s.orderUnfed st r a d).lanes = s.lanes ∧ (s.orderUnfed st r a d).heat = s.heat ∧
    (s.orderUnfed st r a d).splices = s.splices ∧ (s.orderUnfed st r a d).units = s.units ∧
    (s.orderUnfed st r a d).lineUnit = s.lineUnit ∧ (s.orderUnfed st r a d).stopReq = s.stopReq ∧
    (s.orderUnfed st r a d).watches = s.watches ∧ (s.orderUnfed st r a d).slots = s.slots ∧
    (s.orderUnfed st r a d).settings = s.settings ∧ (s.orderUnfed st r a d).line = s.line ∧
    (s.orderUnfed st r a d).estop = s.estop ∧ (s.orderUnfed st r a d).ports = s.ports ∧
    (s.orderUnfed st r a d).pending = s.pending := by simp [State.orderUnfed]

theorem State.orderUnfed_calcs (s : State) (st : Idx) (r : TrackRecord) (a : Aim) (d : Decision) :
    (s.orderUnfed st r a d).calcs = s.calcs.set st { s.calcs.get st with
      phased := (s.calcs.get st).phased && !a.phasing, last := some { target := a.target, seq := r.seq, slot := r.slot },
      missed := 0 } := by
  simp [State.orderUnfed, State.updCalc, Four.upd]

theorem State.orderUnfed_becomes (s : State) (st : Idx) (r : TrackRecord) (a : Aim) (d : Decision) :
    RecordBecomes s (s.orderUnfed st r a d) r.seq fun x => x.updStation st fun f =>
      { f with status := .committed, decision := d, target := some a.target, feed := some (.all 0) } :=
  (s.updField_becomes r.seq st _).marked (.of_track r.seq (by simp [State.orderUnfed])) fun _ => rfl

theorem State.orderUnfed_elsewhere (s : State) (st : Idx) (r : TrackRecord) (a : Aim) (d : Decision) :
    SameElsewhere s (s.orderUnfed st r a d) st :=
  ((SameElsewhere.of_same st rfl rfl rfl rfl rfl).trans (State.updCalc_elsewhere (s.updField r.seq st _) st _)).trans
    (State.launch_elsewhere _ st r.seq _ _)

theorem State.commitOrder_unfed {s : State} {st : Idx} {r : TrackRecord} {e : StationEntry} {a : Aim} {d : Decision}
    {f : Option FaultKind} (aim : (s.calcs.get st).aim r e (s.globals r.slot).p = a) (unfed : s.Unfed st r e a d f) :
    s.commitOrder st r e = ((s.orderUnfed st r a d).commitFaults st r.seq a d f).commitWatched st r.seq := by
  unfold State.commitOrder
  dsimp only
  rw [aim]
  cases phasing : a.phasing with
  | true =>
    have same : (s.unphase st).Unfed st r e a d f := by
      unfold State.Unfed
      rw [State.liftCase_unphase st r e phasing]
      exact unfed
    rw [if_pos rfl, State.decide5_unfed same]
    dsimp only
    rw [State.orderFoil_zero]
    simp [State.orderUnfed, State.unphase, State.updCalc, State.updField, State.updRecord, Four.upd_upd, phasing]
  | false =>
    rw [if_neg (by simp), State.decide5_unfed unfed]
    dsimp only
    rw [State.orderFoil_zero]
    simp [State.orderUnfed, phasing]

/-- What a commit without a feed does: one record, its calculator, its order, and a fault or a warning at its unit. -/
structure CommitOrders (s t : State) (st : Idx) (r : TrackRecord) (a : Aim) (d : Decision) (unit : FaultUnit) : Prop where
  record : RecordBecomes s t r.seq fun x => x.updStation st fun f =>
    { f with status := .committed, decision := d, target := some a.target, feed := some (.all 0) }
  calculator : t.calcs = s.calcs.set st { s.calcs.get st with
    phased := (s.calcs.get st).phased && !a.phasing, last := some { target := a.target, seq := r.seq, slot := r.slot }, missed := 0 }
  order : OrderIssued s t st r.seq a.phasing (.strikeOrder r.seq d a.phasing a.target (.all 0))
  elsewhere : SameElsewhere s t st
  unit : t.units = s.units.set st unit
  rest : t = { s with track := t.track, calcs := t.calcs, seqr := t.seqr, links := t.links, units := t.units, watches := t.watches,
                      stopReq := t.stopReq, ports := t.ports }

theorem State.orderUnfed_issued {s : State} {st : Idx} {r : TrackRecord} (a : Aim) (d : Decision) (found : s.record r.seq = some r)
    (new : ∀ x ∈ (s.seqr.get st).inFlight, x.seq ≠ r.seq) :
    OrderIssued s (s.orderUnfed st r a d) st r.seq a.phasing (.strikeOrder r.seq d a.phasing a.target (.all 0)) := by
  let u := (s.updField r.seq st fun f =>
      { f with decision := d, status := .committed, target := some a.target, feed := some (.all 0) }).updCalc st fun c =>
    { c with phased := c.phased && !a.phasing, last := some { target := a.target, seq := r.seq, slot := r.slot }, missed := 0 }
  have record : u.record r.seq = some (r.updStation st fun f =>
      { f with decision := d, status := .committed, target := some a.target, feed := some (.all 0) }) := by
    have updated := State.record_updField s r.seq r.seq st fun f =>
      { f with decision := d, status := .committed, target := some a.target, feed := some (.all 0) }
    rw [found, Option.map_some, if_pos rfl] at updated
    exact updated
  have issued := State.launch_issued (s := u) record new a.phasing
  have frame : (r.updStation st fun f =>
      { f with decision := d, status := .committed, target := some a.target, feed := some (.all 0) }).strikeOrder st a.phasing =
        .strikeOrder r.seq d a.phasing a.target (.all 0) := by
    simp [TrackRecord.strikeOrder, TrackRecord.updStation, StationField.issued, StationField.feeds]
  rw [frame] at issued
  exact issued.congr rfl rfl rfl rfl

theorem State.commitOrder_orders {s : State} {st : Idx} {r : TrackRecord} {e : StationEntry} {a : Aim} {d : Decision}
    {f : Option FaultKind} (found : s.record r.seq = some r) (new : ∀ x ∈ (s.seqr.get st).inFlight, x.seq ≠ r.seq)
    (aim : (s.calcs.get st).aim r e (s.globals r.slot).p = a) (unfed : s.Unfed st r e a d f)
    (soft : ∀ k, f = some k → k.cls = .soft ∧ (s.units.get st).soft = false) :
    CommitOrders s (s.commitOrder st r e) st r a d
      ((s.units.get st).noting ((commitFault a d f).map (s.commitRecordOf st r.seq))) := by
  rw [State.commitOrder_unfed aim unfed]
  have noted : (s.orderUnfed st r a d).commitRecordOf st r.seq = s.commitRecordOf st r.seq := by
    funext x
    simp [State.commitRecordOf, State.faultRecord, State.orderUnfed_calcs]
  have faults := State.commitFaults_eq (s := s.orderUnfed st r a d) (st := st) (f := f) r.seq a (d := d) fun k hk => by
    obtain ⟨cls, clear⟩ := soft k hk
    subst hk
    exact ⟨cls, unfed.lift_of_fault, by simpa using clear⟩
  rw [noted] at faults
  have units : ((s.orderUnfed st r a d).commitFaults st r.seq a d f).units =
      s.units.set st ((s.units.get st).noting ((commitFault a d f).map (s.commitRecordOf st r.seq))) := by
    rw [faults]
    simp
  have line : ((s.orderUnfed st r a d).commitFaults st r.seq a d f).lineUnit = s.lineUnit := by
    rw [faults]
    simp
  constructor
  case record =>
    have raised : RecordBecomes s ((s.orderUnfed st r a d).commitFaults st r.seq a d f) r.seq _ :=
      (s.orderUnfed_becomes st r a d).marked (.of_track r.seq (by simp)) fun _ => rfl
    exact raised.marked (State.commitWatched_becomes _ st r.seq) fun _ => rfl
  case calculator => simp [State.orderUnfed_calcs]
  case order => exact (State.orderUnfed_issued a d found new).congr rfl rfl (by simp) (by simp)
  case elsewhere =>
    refine ((s.orderUnfed_elsewhere st r a d).trans ?_).trans (State.commitWatched_elsewhere _ st r.seq)
    exact fun v hv => by simp [units, hv]
  case unit => simpa using units
  case rest =>
    refine State.ext_fields ?_ ?_ ?_ ?_ ?_ ?_ ?_ ?_ ?_ ?_ ?_ ?_ ?_ ?_ ?_ ?_ ?_ ?_ ?_ ?_ ?_
    all_goals simp [line]

end Sys2Proof.Machine

end

section
/-! SUPPORT. The command COMMIT, and the statements about commits without a feed (O44, O45; R44 to R49, R63 to R68). -/

namespace Sys2Proof.Machine

/-! ### The command (R62, R63) -/

theorem exec_commit_turn {s : State} {st : Idx} {r : TrackRecord} (turn : s.commitTurn st = some r) :
    exec (.commit st r.seq) s = (s.commitRecord st r).done := by
  have meaning : exec (.commit st r.seq) s = execCommit st r.seq s := rfl
  rw [meaning, execCommit, turn]
  exact if_pos rfl

/-- A commit at which no unit trips ends as it stands. -/
theorem State.commitRecord_done {s : State} (mirrored : TripsMirrored s) (st : Idx) (r : TrackRecord)
    (untripped : ∀ v, ((s.commitRecord st r).units.get v).tripped = (s.units.get v).tripped) :
    (s.commitRecord st r).done = .next (s.commitRecord st r) :=
  State.done_of mirrored untripped (s.commitRecord_within st r).trips

theorem State.commitRecord_idle {s : State} {st : Idx} {r : TrackRecord}
    (h : s.line ≠ .run ∨ (s.seqr.get st).tripped = true ∨ s.lineUnit.tripped = true) :
    s.commitRecord st r = s.commitMissed st r.seq false := by
  unfold State.commitRecord
  by_cases run : s.line = .run
  · rw [if_neg (by simp [run]), if_pos (h.resolve_left fun stopped => stopped run)]
  · rw [if_pos run]

theorem State.commitRecord_full {s : State} {st : Idx} {r : TrackRecord} (run : s.line = .run)
    (ready : (s.seqr.get st).tripped = false) (line : s.lineUnit.tripped = false) (full : 2 ≤ (s.seqr.get st).inFlight.length) :
    s.commitRecord st r = s.commitMissed st r.seq true := by
  unfold State.commitRecord
  rw [if_neg (by simp [run]), if_neg (by simp [ready, line])]
  exact if_pos full

theorem State.commitRecord_order {s : State} {st : Idx} {r : TrackRecord} {e : StationEntry} (run : s.line = .run)
    (ready : (s.seqr.get st).tripped = false) (line : s.lineUnit.tripped = false) (room : (s.seqr.get st).inFlight.length < 2)
    (entry : s.entry r.slot st = some e) : s.commitRecord st r = s.commitOrder st r e := by
  unfold State.commitRecord
  rw [if_neg (by simp [run]), if_neg (by simp [ready, line]), if_neg (show ¬ Config.inFlightLimit ≤ _ from Nat.not_le.2 room), entry]

/-- The order of a commit without a feed, as the command makes it. -/
theorem exec_commit_orders {s : State} {st : Idx} {r : TrackRecord} {e : StationEntry} (mirrored : TripsMirrored s)
    (turn : s.commitTurn st = some r) (found : s.record r.seq = some r) (run : s.line = .run)
    (ready : (s.units.get st).tripped = false) (line : s.lineUnit.tripped = false) (room : (s.seqr.get st).inFlight.length < 2)
    (new : ∀ x ∈ (s.seqr.get st).inFlight, x.seq ≠ r.seq) (entry : s.entry r.slot st = some e) {a : Aim} {d : Decision}
    {f : Option FaultKind} (aim : (s.calcs.get st).aim r e (s.globals r.slot).p = a) (unfed : s.Unfed st r e a d f)
    (soft : ∀ k, f = some k → k.cls = .soft ∧ (s.units.get st).soft = false) :
    ∃ t, exec (.commit st r.seq) s = .next t ∧ CommitOrders s t st r a d
      ((s.units.get st).noting ((commitFault a d f).map (s.commitRecordOf st r.seq))) := by
  have ordered := State.commitOrder_orders found new aim unfed soft
  have meaning := State.commitRecord_order run ((mirrored st).trans ready) line room entry
  rw [← meaning] at ordered
  refine ⟨_, ?_, ordered⟩
  rw [exec_commit_turn turn, State.commitRecord_done mirrored]
  intro v
  rw [ordered.unit, Four.get_set]
  split
  next same => rw [same, FaultUnit.noting_tripped]
  · rfl

theorem State.commitMissed_rest (s : State) (st : Idx) (q : SeqNo) : s.commitMissed st q false = { s with
    track := (s.commitMissed st q false).track, calcs := (s.commitMissed st q false).calcs,
    watches := (s.commitMissed st q false).watches, stopReq := (s.commitMissed st q false).stopReq,
    ports := (s.commitMissed st q false).ports } := by
  refine State.ext_fields ?_ ?_ ?_ ?_ ?_ ?_ ?_ ?_ ?_ ?_ ?_ ?_ ?_ ?_ ?_ ?_ ?_ ?_ ?_ ?_ ?_
  all_goals simp [State.commitMissed]

theorem State.commitMissed_overrun_rest (s : State) (st : Idx) (q : SeqNo) : s.commitMissed st q true = { s with
    track := (s.commitMissed st q true).track, calcs := (s.commitMissed st q true).calcs, units := (s.commitMissed st q true).units,
    watches := (s.commitMissed st q true).watches, stopReq := (s.commitMissed st q true).stopReq,
    ports := (s.commitMissed st q true).ports } := by
  have line : (s.commitMissed st q true).lineUnit = s.lineUnit := by
    simp only [State.commitMissed, if_true, State.commitWatched_frame]
    exact (State.raise_station_others _ _ st rfl).1
  refine State.ext_fields ?_ ?_ ?_ ?_ ?_ ?_ ?_ ?_ ?_ ?_ ?_ ?_ ?_ ?_ ?_ ?_ ?_ ?_ ?_ ?_ ?_
  case refine_12 => exact line
  all_goals simp [State.commitMissed]

end Sys2Proof.Machine

open Sys2Proof Sys2Proof.Machine

/-- Settles O44: a commit in no state to order is MISSED; a phasing LIFT and the STRIKE of an EMBOSS station are commits without a feed. -/
theorem commitsDecideAndOrder : Obligations.CommitsDecideAndOrder := by
  intro st r s mirrored turn found
  refine ⟨?_, ?_⟩
  · intro idle
    have missed := State.commitRecord_idle (r := r) (by rwa [mirrored st])
    refine ⟨s.commitMissed st r.seq false, ?_, s.commitMissed_becomes st _ false, s.commitMissed_calcs st _ false,
      s.commitMissed_rest st r.seq⟩
    rw [exec_commit_turn turn, State.commitRecord_done mirrored, missed]
    intro v
    rw [missed, State.commitMissed_units]
  · intro run ready line
    refine ⟨?_, ?_⟩
    · intro full clear
      have missed := State.commitRecord_full (r := r) run ((mirrored st).trans ready) line full
      obtain ⟨x, units⟩ := State.commitMissed_overrun r.seq clear
      refine ⟨s.commitMissed st r.seq true, ?_, s.commitMissed_becomes st _ true, s.commitMissed_elsewhere st _ true,
        s.commitMissed_calcs st _ true, by simp [units], by simp [units], s.commitMissed_overrun_rest st r.seq⟩
      rw [exec_commit_turn turn, State.commitRecord_done mirrored, missed]
      intro v
      rw [missed, units, Four.get_set]
      split
      next same => rw [same]
      · rfl
    · intro e room new entry c target ordered
      have issues : ∀ (a : Aim) (d : Decision), c.aim r e (s.globals r.slot).p = a → a.target = target →
          (c.phased && !a.phasing) = !a.phasing → commitFault a d none = none → s.Unfed st r e a d none → ordered d a.phasing := by
        intro a d aim onTarget phase quiet unfed
        obtain ⟨t, done, order⟩ := exec_commit_orders mirrored turn found run ready line room new entry aim unfed (by simp)
        have units : t.units = s.units := by
          rw [order.unit, quiet]
          exact Four.set_get _ _
        refine ⟨t, done, onTarget ▸ order.record, ?_, onTarget ▸ order.order, order.elsewhere, ?_⟩
        · rw [order.calculator, Four.get_set_same, phase, onTarget]
        · rw [order.rest, units]
      refine ⟨?_, ?_⟩
      · intro fresh
        have aim : c.aim r e (s.globals r.slot).p = phasingAim target := Calc.aim_of_phasing _ fun l phased last => by
          rcases fresh with unphased | none
          · rw [unphased] at phased; cases phased
          · rw [none] at last; cases last
        exact issues _ .lift aim rfl (by simp [phasingAim]) rfl (.inl ⟨rfl, rfl⟩)
      · intro l phased last gap few slot near unflagged real locked fast hot type lift
        have aim : c.aim r e (s.globals r.slot).p = { target := target, phasing := false, residual := .withinStep } := by
          rw [Calc.aim_of_phased _ phased last (gapTestFails_eq_false gap few slot)]
          exact phaseStep_within near
        refine issues _ .strike aim rfl (by simp [phased]) rfl (.inr ⟨?_, type, rfl, rfl⟩)
        rw [State.liftCase_eq _ _ _ _ rfl]
        simp [unflagged, real, locked, Nat.not_lt.2 fast, hot, lift]

/-- Settles O45: each case of the decision table is a commit without a feed. -/
theorem commitsLiftAndClamp : Obligations.CommitsLiftAndClamp := by
  intro st r s e l mirrored turn found run ready line room new entry phased last c g target expected step clamped aim beyond ordered
  have issues : ∀ (a : Aim) (d : Decision) (f : Option FaultKind), c.aim r e g.p = a → s.Unfed st r e a d f →
      (∀ k, f = some k → k.cls = .soft ∧ (s.units.get st).soft = false) → ordered d a.phasing a.target (commitFault a d f) := by
    intro a d f made unfed soft
    obtain ⟨t, done, order⟩ := exec_commit_orders mirrored turn found run ready line room new entry made unfed soft
    refine ⟨t, done, order.record, ?_, order.order, order.elsewhere, ?_, order.rest⟩
    · rw [order.calculator, show (s.calcs.get st).phased = true from phased, Bool.true_and]
    · rw [order.unit]
      cases commitFault a d f with
      | none => rfl
      | some x => simp only [Option.map_some, FaultUnit.noting, State.commitRecordOf, State.faultRecord, run]; rfl
  refine ⟨?_, ?_⟩
  · intro gap
    have made : c.aim r e g.p = phasingAim target := Calc.aim_of_phasing _ fun l' _ last' => by
      obtain rfl : l' = l := Option.some.inj (last'.symm.trans last)
      exact gapTestFails_eq_true.2 gap
    exact issues _ .lift none made (.inl ⟨rfl, rfl⟩) (by simp)
  · intro gap few slot
    have made := Calc.aim_of_phased (r := r) (e := e) g.p phased last (gapTestFails_eq_false gap few slot)
    obtain ⟨onAim, steady, isBeyond, isClamped⟩ := phaseStep_spec target expected e.stepMax e.tol
    let a := phaseStep target expected e.stepMax e.tol
    have lifts : ∀ f, s.liftCase st r e a = some f → (∀ k, f = some k → k.cls = .soft ∧ (s.units.get st).soft = false) →
        ordered .lift false aim (commitFault a .lift f) := by
      intro f case soft
      have issued := issues a .lift f made (.inl ⟨case, rfl⟩) soft
      rwa [steady, onAim] at issued
    have liftsQuietly : s.liftCase st r e a = some none → ordered .lift false aim none := fun case => by
      have issued := lifts none case (by simp)
      rwa [show commitFault a .lift none = none by simp [commitFault]] at issued
    have table := State.liftCase_eq s st r e steady
    by_cases bad : r.flagged = true ∨ r.origin = .lost ∨ r.locked = false ∨ (r.origin = .coasted ∧ g.coastPredict = false)
    · rw [if_pos bad]
      exact liftsQuietly (table.trans (if_pos bad))
    rw [if_neg bad] at table ⊢
    by_cases slow : s.web.v < g.strikeMinSpeed
    · rw [if_pos slow]
      exact liftsQuietly (table.trans (if_pos slow))
    rw [if_neg slow] at table ⊢
    by_cases cold : s.hot st = false
    · rw [if_pos cold]
      exact fun clear => lifts (some .coldCommit) (table.trans (if_pos cold)) fun k hk => by cases hk; exact ⟨rfl, clear⟩
    rw [if_neg cold] at table ⊢
    by_cases off : beyond
    · rw [if_pos off]
      intro clear
      have issued := lifts (some .registerClamp) (table.trans (if_pos (isBeyond.2 off))) fun k hk => by cases hk; exact ⟨rfl, clear⟩
      rwa [show commitFault a .lift (some .registerClamp) = some (.registerClamp, .setSoft, some aim) by
        simp only [commitFault, if_true]; rw [show a.target = aim from onAim]] at issued
    rw [if_neg fun h => off (isBeyond.1 h)] at table
    rw [if_neg off]
    by_cases rejected : e.liftOnReject = true ∧
        (Idx.all.all fun k => decide (r.verdict.get k = none ∨ r.verdict.get k = some .reject)) = true
    · rw [if_pos rejected]
      exact liftsQuietly (table.trans (if_pos rejected.symm))
    rw [if_neg fun h => rejected h.symm] at table
    rw [if_neg rejected]
    intro type
    have issued := issues a .strike none made (.inr ⟨table, type, rfl, rfl⟩) (by simp)
    have warns : a.residual = .clamped ↔ clamped := isClamped.trans (and_iff_left off)
    have warned : commitFault a .strike none = if clamped then some (.clampInTol, .warning, some aim) else none := by
      simp only [commitFault, true_or, and_true, warns, show a.target = aim from onAim]
    rwa [show a.phasing = false from steady, show a.target = aim from onAim, warned] at issued

end

section
/-! SUPPORT. What a report takes from the lanes of its station (O41; R93 to R96, R155, R171): the watch marks of the track, the faults a
unit takes one after the other, the lanes and the descriptors, column by column. -/

namespace Sys2Proof.Machine

/-! ### Watch marks (R171, R174) -/

/-- Of the track at most watch marks change. -/
def Marked (s t : State) : Prop :=
  ∃ mark : TrackRecord → Four Bool, t.track = s.track.map fun x => { x with watchMark := mark x }

theorem Marked.of_track {s t : State} (h : t.track = s.track) : Marked s t := ⟨fun x => x.watchMark, by simp [h]⟩

theorem Marked.trans {s t u : State} (a : Marked s t) (b : Marked t u) : Marked s u := by
  obtain ⟨m, hm⟩ := a
  obtain ⟨n, hn⟩ := b
  exact ⟨fun x => n { x with watchMark := m x }, by rw [hn, hm, List.map_map]; rfl⟩

theorem Marked.foldl {α : Type} (g : State → α → State) (h : ∀ s x, Marked s (g s x)) (l : List α) :
    ∀ s, Marked s (l.foldl g s) := by
  induction l with
  | nil => exact fun s => .of_track rfl
  | cons x xs ih => exact fun s => (h s x).trans (ih _)

theorem State.meetWatch_marked (s : State) (w : Idx) (q : Option SeqNo) : Marked s (s.meetWatch w q) := by
  obtain kept | ⟨x, -, marked⟩ := s.meetWatch_track w q
  · exact .of_track kept
  · refine ⟨fun r => if r.seq = x then r.watchMark.set w true else r.watchMark, marked.trans (List.map_congr_left fun r _ => ?_)⟩
    by_cases h : r.seq = x <;> simp [h]

theorem State.testLevel_marked (s : State) (w : Idx) (b : Bool) : Marked s (s.testLevel w b) := by
  unfold State.testLevel
  split
  · split
    · exact .of_track rfl
    · exact s.meetWatch_marked w _
  · exact .of_track rfl

theorem State.laneChanged_marked (s : State) (st c : Idx) : Marked s (s.laneChanged st c) := by
  refine Marked.foldl _ (fun s w => ?_) _ s
  split
  · split
    · exact s.testLevel_marked w _
    · exact .of_track rfl
  · exact .of_track rfl

theorem State.trimChanged_marked (s : State) (st : Idx) : Marked s (s.trimChanged st) := by
  refine Marked.foldl _ (fun s w => ?_) _ s
  split
  · split
    · exact s.testLevel_marked w _
    · exact .of_track rfl
  · exact .of_track rfl

theorem State.setTrim_marked (s : State) (st : Idx) (t : Int) : Marked s (s.setTrim st t) := by
  unfold State.setTrim
  split
  · exact .of_track rfl
  · exact (Marked.of_track rfl).trans (State.trimChanged_marked (s.updCalc st _) st)

theorem State.raise_marked (s : State) (ev : FaultEvent) : Marked s (s.raise ev) := .of_track (by simp)

theorem State.applyFoil_marked (s : State) (st : Idx) (r : FoilReport) (c : Idx) : Marked s (s.applyFoil st r c) := by
  have consumed : Marked s (s.consume st c (r.advanced.get c)) :=
    (Marked.of_track rfl).trans (State.laneChanged_marked (s.updLane st c _) st c)
  refine consumed.trans (.of_track ?_)
  unfold State.applyFoil
  dsimp only
  (repeat' split) <;> simp

theorem State.applyFoilAll_marked (s : State) (st : Idx) (r : FoilReport) : Marked s (s.applyFoilAll st r) :=
  Marked.foldl _ (fun s c => s.applyFoil_marked st r c) _ s

/-! ### The faults of one unit (R154, R155, R160) -/

/-- What of a fault the first-fault record tells it by. -/
abbrev FaultKey := FaultKind × Option SeqNo × Option Idx

def FaultRecord.key (x : FaultRecord) : FaultKey := (x.kind, x.seq, x.column)

def FaultEvent.key (x : FaultEvent) : FaultKey := (x.kind, x.seq, x.column)

/-- A station's unit has taken hard faults one after the other, soft ones handled as hard among them, and a soft fault where `soft` says so;
no other unit has taken any. Of the hard faults the first sets HARD where it was clear, and the next one trips (R155). -/
structure FaultsTaken (st : Idx) (hards : List FaultKey) (soft : Bool) (s t : State) : Prop where
  soft : (t.units.get st).soft = ((s.units.get st).soft || soft)
  hard : (t.units.get st).hard = ((s.units.get st).hard || decide (0 < hards.length))
  tripped : (t.units.get st).tripped =
    ((s.units.get st).tripped || decide (2 ≤ (s.units.get st).hard.toNat + hards.length))
  first : (t.units.get st).first.map FaultRecord.key = ((s.units.get st).first.map FaultRecord.key).or hards.head?
  stop : (s.units.get st).tripped = false → (t.units.get st).tripped = true → t.stopReq.asserted = true ∧ t.stopReq.trip = true
  stays : s.stopReq.asserted = true ∧ s.stopReq.trip = true → t.stopReq.asserted = true ∧ t.stopReq.trip = true
  elsewhere : ∀ v, v ≠ st → t.units.get v = s.units.get v
  line : t.lineUnit = s.lineUnit

/-- A change that reaches no unit takes no fault. -/
theorem FaultsTaken.of_units {s t : State} (st : Idx) (units : t.units = s.units) (line : t.lineUnit = s.lineUnit)
    (stays : s.stopReq.asserted = true ∧ s.stopReq.trip = true → t.stopReq.asserted = true ∧ t.stopReq.trip = true) :
    FaultsTaken st [] false s t where
  soft := by simp [units]
  hard := by simp [units]
  tripped := by
    have few : ¬ 2 ≤ (s.units.get st).hard.toNat := by cases (s.units.get st).hard <;> simp
    simp [units, few]
  first := by simp [units]
  stop clear trip := by
    rw [units, clear] at trip
    cases trip
  stays := stays
  elsewhere v _ := by rw [units]
  line := line

theorem FaultsTaken.refl (st : Idx) (s : State) : FaultsTaken st [] false s s := .of_units st rfl rfl id

theorem FaultsTaken.trans {st : Idx} {k l : List FaultKey} {a b : Bool} {s t u : State} (x : FaultsTaken st k a s t)
    (y : FaultsTaken st l b t u) : FaultsTaken st (k ++ l) (a || b) s u where
  soft := by rw [y.soft, x.soft, Bool.or_assoc]
  hard := by
    rw [y.hard, x.hard, Bool.or_assoc, ← Bool.decide_or]
    congr 2
    simp only [List.length_append, eq_iff_iff]
    omega
  tripped := by
    rw [y.tripped, x.tripped, x.hard, Bool.or_assoc, ← Bool.decide_or]
    congr 2
    rw [List.length_append, eq_iff_iff]
    cases (s.units.get st).hard
    · by_cases some : 0 < k.length <;> simp only [some, decide_true, decide_false, Bool.or_self, Bool.false_or, Bool.toNat_true,
        Bool.toNat_false] <;> omega
    · simp only [Bool.true_or, Bool.toNat_true]
      omega
  first := by rw [y.first, x.first, Option.or_assoc, List.head?_append]
  stop clear trip := by
    cases mid : (t.units.get st).tripped with
    | true => exact y.stays (x.stop clear mid)
    | false => exact y.stop mid trip
  stays h := y.stays (x.stays h)
  elsewhere v hv := (y.elsewhere v hv).trans (x.elsewhere v hv)
  line := y.line.trans x.line

theorem State.raiseHard_faults (s : State) {ev : FaultEvent} {st : Idx} (station : ev.unit = .station st) :
    FaultsTaken st [ev.key] false s (s.raiseHard ev) := by
  have first : ∀ x, ((s.units.get st).first.getD (s.faultRecord ev x)).key =
      ((s.units.get st).first.map FaultRecord.key).getD ev.key := fun x => by cases (s.units.get st).first <;> rfl
  cases hard : (s.units.get st).hard
  case false =>
    have meaning : s.raiseHard ev = (s.setUnit (.station st)
        (({ s.units.get st with hard := true } : FaultUnit).fillFirst (s.faultRecord ev .setHard))).offer (.unitHard (.station st)) := by
      simp [State.raiseHard, station, State.unit, FaultUnit.hardEffect, hard]
    constructor <;> simp +contextual [meaning, State.setUnit, FaultUnit.fillFirst, hard, first]
  case true =>
    cases tripped : (s.units.get st).tripped
    case false =>
      have meaning : s.raiseHard ev = ((s.setUnit (.station st)
          (({ s.units.get st with tripped := true } : FaultUnit).fillFirst (s.faultRecord ev .trip))).assertStop .trip).offer
            (.unitTrip (.station st)) := by
        simp [State.raiseHard, station, State.unit, FaultUnit.hardEffect, hard, tripped]
      constructor <;> simp +contextual [meaning, State.setUnit, FaultUnit.fillFirst, hard, first, State.assertStop, StopRequest.add]
    case true =>
      have meaning : s.raiseHard ev = s.setUnit (.station st) ((s.units.get st).fillFirst (s.faultRecord ev .noChange)) := by
        simp [State.raiseHard, station, State.unit, FaultUnit.hardEffect, hard, tripped]
      constructor <;> simp +contextual [meaning, State.setUnit, FaultUnit.fillFirst, hard, tripped, first]

theorem State.writeLatest_faults (s : State) {ev : FaultEvent} {st : Idx} (station : ev.unit = .station st) (x : Effect) :
    FaultsTaken st [] false s (s.writeLatest ev x) := by
  have few : ¬ 2 ≤ (s.units.get st).hard.toNat := by cases (s.units.get st).hard <;> simp
  constructor <;> simp +contextual [State.writeLatest, State.setUnit, station, State.unit, few]

theorem State.raise_hard_faults (s : State) {ev : FaultEvent} {st : Idx} (hard : ev.kind.cls = .hard)
    (station : ev.unit = .station st) : FaultsTaken st [ev.key] false s (s.raise ev) := by
  have meaning : s.raise ev = s.raiseHard ev := by unfold State.raise; rw [hard]
  rw [meaning]
  exact s.raiseHard_faults station

theorem State.raise_warning_faults (s : State) {ev : FaultEvent} {st : Idx} (warning : ev.kind.cls = .warning)
    (station : ev.unit = .station st) : FaultsTaken st [] false s (s.raise ev) := by
  rw [s.raise_warning ev warning]
  exact s.writeLatest_faults station _

/-- A soft fault is handled as hard where SOFT stands (R154). -/
theorem State.raise_soft_faults (s : State) {ev : FaultEvent} {st : Idx} (soft : ev.kind.cls = .soft)
    (station : ev.unit = .station st) :
    FaultsTaken st (if (s.units.get st).soft then [ev.key] else []) true s (s.raise ev) := by
  cases clear : (s.units.get st).soft
  case false =>
    have few : ¬ 2 ≤ (s.units.get st).hard.toNat := by cases (s.units.get st).hard <;> simp
    rw [State.raise_soft_station soft station clear]
    constructor <;> simp +contextual [few]
  case true =>
    have meaning : s.raise ev = (s.raiseHard ev).writeLatest ev (s.unit ev.unit).hardEffect := by
      unfold State.raise
      rw [soft]
      dsimp only
      rw [station]
      exact if_neg (by simp [State.unit, clear])
    have taken := (s.raiseHard_faults station).trans (State.writeLatest_faults (s.raiseHard ev) station (s.unit ev.unit).hardEffect)
    rw [← meaning] at taken
    exact { taken with soft := by simpa [clear] using taken.soft }

/-! ### The lanes (R93, R95, R96) -/

/-- A break flag breaks a lane in this state (R96). -/
def LaneState.breakable : LaneState → Bool
  | .ready | .low | .out => true
  | .broken | .noRoll => false

theorem LaneState.breakable_iff {x : LaneState} : x.breakable = true ↔ x = .ready ∨ x = .low ∨ x = .out := by
  cases x <;> simp [LaneState.breakable]

/-- The lane after the low test (R95). -/
def Lane.lowTested (l : Lane) (low : Nat) : Lane := if l.state = .ready ∧ l.remaining < low then { l with state := .low } else l

/-- The lane after a break flag (R96). -/
def Lane.flagged (l : Lane) : Lane := { l with state := if l.state.breakable then .broken else l.state }

/-- The lane after its foil has been pulled, the low test taken and the break flag judged (R93 steps 1, 4 and 5). -/
def Lane.reported (l : Lane) (advanced low : Nat) (breaks : Bool) : Lane :=
  let tested := ({ l with remaining := l.remaining - advanced } : Lane).lowTested low
  if breaks then tested.flagged else tested

theorem Lane.lowTested_breakable (l : Lane) (low : Nat) : (l.lowTested low).state.breakable = l.state.breakable := by
  unfold Lane.lowTested
  split
  next h => rw [h.1]; rfl
  · rfl

/-- The lane item by item. -/
theorem Lane.reported_eq (l : Lane) (advanced low : Nat) (breaks : Bool) : l.reported advanced low breaks =
    { l with
      remaining := l.remaining - advanced
      state := if breaks && l.state.breakable then .broken
        else if l.state = .ready ∧ l.remaining - advanced < low then .low else l.state } := by
  have unbroken : ({ l with remaining := l.remaining - advanced } : Lane).lowTested low =
      { l with
        remaining := l.remaining - advanced
        state := if l.state = .ready ∧ l.remaining - advanced < low then .low else l.state } := by
    unfold Lane.lowTested
    split <;> rfl
  have breakable := Lane.lowTested_breakable { l with remaining := l.remaining - advanced } low
  unfold Lane.reported Lane.flagged
  cases breaks
  · simp [unbroken]
  · simp only [if_true, breakable, Bool.true_and]
    rw [unbroken]

theorem State.lowTest_lane (s : State) (st c v k : Idx) : (s.lowTest st c).lane v k =
    if (v, k) = (st, c) then (s.lane st c).lowTested ((s.settings.low.get st).get c) else s.lane v k := by
  unfold State.lowTest Lane.lowTested
  dsimp only
  split
  · exact (State.lane_of_lanes (s := s.updLane st c fun l => { l with state := .low }) (by simp) v k).trans (s.lane_updLane ..)
  · split
    next same => cases same; rfl
    · rfl

theorem State.breakLane_eq (s : State) (st c : Idx) (q : SeqNo) : s.breakLane st c q =
    if (s.lane st c).state.breakable then
      (s.updLane st c fun l => { l with state := .broken }).raise
        { kind := .foilBreak, unit := .station st, seq := some q, column := some c }
    else s := by
  unfold State.breakLane
  cases (s.lane st c).state <;> rfl

theorem State.breakLane_lane (s : State) (st c : Idx) (q : SeqNo) (v k : Idx) : (s.breakLane st c q).lane v k =
    if (v, k) = (st, c) then (s.lane st c).flagged else s.lane v k := by
  rw [State.breakLane_eq]
  unfold Lane.flagged
  split
  · exact (State.lane_of_lanes (s := s.updLane st c fun l => { l with state := .broken }) (by simp) v k).trans (s.lane_updLane ..)
  · split
    next same => cases same; rfl
    · rfl

theorem State.updLane_faults (s : State) (st c : Idx) (f : Lane → Lane) : FaultsTaken st [] false s (s.updLane st c f) :=
  .of_units st rfl rfl id

theorem State.breakLane_faults (s : State) (st c : Idx) (q : SeqNo) :
    FaultsTaken st (if (s.lane st c).state.breakable then [(.foilBreak, some q, some c)] else []) false s (s.breakLane st c q) := by
  rw [State.breakLane_eq]
  split
  · have taken := State.raise_hard_faults (s.updLane st c fun l => { l with state := .broken })
      (ev := { kind := .foilBreak, unit := .station st, seq := some q, column := some c }) rfl rfl
    exact (s.updLane_faults st c _).trans taken
  · exact .refl st s

theorem State.lowTest_faults (s : State) (st c : Idx) : FaultsTaken st [] false s (s.lowTest st c) := by
  unfold State.lowTest
  dsimp only
  split
  · exact ((s.updLane_faults st c _).trans (State.raise_warning_faults _ rfl rfl)).trans (.of_units st rfl rfl id)
  · exact .refl st s

theorem FaultsTaken.foldl {α : Type} {st : Idx} (g : State → α → State) (h : ∀ s x, FaultsTaken st [] false s (g s x)) (l : List α) :
    ∀ s, FaultsTaken st [] false s (l.foldl g s) := by
  induction l with
  | nil => exact fun s => .refl st s
  | cons x xs ih => exact fun s => (h s x).trans (ih _)

/-- STOP REQUEST stays asserted for a trip where a watch unit is tested (R162, R171). -/
theorem State.testLevel_faults (s : State) (st w : Idx) (b : Bool) : FaultsTaken st [] false s (s.testLevel w b) := by
  refine .of_units st (by simp) (by simp) fun h => ?_
  unfold State.testLevel State.meetWatch State.assertStop
  dsimp only
  (repeat' split) <;> simp [h, StopRequest.add]

theorem State.laneChanged_faults (s : State) (st v c : Idx) : FaultsTaken st [] false s (s.laneChanged v c) := by
  refine FaultsTaken.foldl _ (fun s w => ?_) _ s
  split
  · split
    · exact s.testLevel_faults st w _
    · exact .refl st s
  · exact .refl st s

theorem State.trimChanged_faults (s : State) (st v : Idx) : FaultsTaken st [] false s (s.trimChanged v) := by
  refine FaultsTaken.foldl _ (fun s w => ?_) _ s
  split
  · split
    · exact s.testLevel_faults st w _
    · exact .refl st s
  · exact .refl st s

/-! ### One column of a report (R93) -/

/-- Steps 1 to 3 of R93 for a column of a report whose record stands in the track. -/
def State.foilPulled (s : State) (st : Idx) (r : FoilReport) (c : Idx) : State :=
  let s1 := s.consume st c (r.advanced.get c)
  match s1.descriptor r.slot st c with
  | some d => s1.setDescriptor r.slot st c (d.settle r.seq (r.fed.get c) (r.advanced.get c))
  | none => s1

theorem State.applyFoil_eq (s : State) (st : Idx) {r : FoilReport} (whole : r.whole = true) (c : Idx) : s.applyFoil st r c =
    if r.breaks.get c then ((s.foilPulled st r c).lowTest st c).breakLane st c r.seq else (s.foilPulled st r c).lowTest st c := by
  unfold State.applyFoil State.foilPulled
  dsimp only
  cases (s.consume st c (r.advanced.get c)).descriptor r.slot st c <;> simp only [whole, Bool.true_or, if_true]

@[simp] theorem State.foilPulled_settings (s : State) (st : Idx) (r : FoilReport) (c : Idx) :
    (s.foilPulled st r c).settings = s.settings := by
  unfold State.foilPulled
  dsimp only
  split <;> simp

theorem State.foilPulled_lane (s : State) (st : Idx) (r : FoilReport) (c v k : Idx) : (s.foilPulled st r c).lane v k =
    if (v, k) = (st, c) then { s.lane st c with remaining := (s.lane st c).remaining - r.advanced.get c } else s.lane v k := by
  rw [← s.lane_updLane st c v k fun l => { l with remaining := l.remaining - r.advanced.get c }]
  refine State.lane_of_lanes ?_ v k
  unfold State.foilPulled State.consume
  dsimp only
  split <;> simp

theorem State.foilPulled_faults (s : State) (st : Idx) (r : FoilReport) (c : Idx) : FaultsTaken st [] false s (s.foilPulled st r c) := by
  have consumed : FaultsTaken st [] false s (s.consume st c (r.advanced.get c)) :=
    (s.updLane_faults st c _).trans (State.laneChanged_faults _ st st c)
  unfold State.foilPulled
  dsimp only
  split
  · exact consumed.trans (.of_units st (by simp) (by simp) (by simp))
  · exact consumed

theorem State.applyFoil_lane (s : State) (st : Idx) {r : FoilReport} (whole : r.whole = true) (c v k : Idx) :
    (s.applyFoil st r c).lane v k =
      if (v, k) = (st, c) then (s.lane st c).reported (r.advanced.get c) ((s.settings.low.get st).get c) (r.breaks.get c)
      else s.lane v k := by
  rw [s.applyFoil_eq st whole c]
  have tested : ∀ v k, ((s.foilPulled st r c).lowTest st c).lane v k = if (v, k) = (st, c) then
      ({ s.lane st c with remaining := (s.lane st c).remaining - r.advanced.get c } : Lane).lowTested
        ((s.settings.low.get st).get c) else s.lane v k := fun v k => by
    rw [State.lowTest_lane, State.foilPulled_lane, State.foilPulled_lane, if_pos rfl, State.foilPulled_settings]
    split <;> rfl
  unfold Lane.reported
  cases r.breaks.get c
  · exact tested v k
  · rw [if_pos rfl, State.breakLane_lane, tested, tested, if_pos rfl]
    split <;> rfl

theorem State.applyFoil_faults (s : State) (st : Idx) {r : FoilReport} (whole : r.whole = true) (c : Idx) :
    FaultsTaken st (if r.breaks.get c && (s.lane st c).state.breakable then [(.foilBreak, some r.seq, some c)] else []) false s
      (s.applyFoil st r c) := by
  have tested := (s.foilPulled_faults st r c).trans (State.lowTest_faults (s.foilPulled st r c) st c)
  have breakable : (((s.foilPulled st r c).lowTest st c).lane st c).state.breakable = (s.lane st c).state.breakable := by
    rw [State.lowTest_lane, if_pos rfl, Lane.lowTested_breakable, State.foilPulled_lane, if_pos rfl]
  rw [s.applyFoil_eq st whole c]
  cases r.breaks.get c
  · exact tested
  · have broken := tested.trans (State.breakLane_faults _ st c r.seq)
    rw [breakable] at broken
    exact broken

/-! ### The four columns (R93) -/

theorem State.applyFoilAll_lane (s : State) (st : Idx) {r : FoilReport} (whole : r.whole = true) (v k : Idx) :
    (s.applyFoilAll st r).lane v k =
      if v = st then (s.lane st k).reported (r.advanced.get k) ((s.settings.low.get st).get k) (r.breaks.get k) else s.lane v k := by
  by_cases station : v = st
  · subst station
    cases k <;> simp [State.applyFoilAll, Idx.all, State.applyFoil_lane _ v whole]
  · simp [State.applyFoilAll, Idx.all, State.applyFoil_lane _ st whole, station]

/-- The columns whose break flag a report breaks (R96). -/
def State.breaksAt (s : State) (st : Idx) (breaks : Four Bool) (c : Idx) : Bool := breaks.get c && (s.lane st c).state.breakable

theorem State.applyFoilAll_faults (s : State) (st : Idx) {r : FoilReport} (whole : r.whole = true) :
    FaultsTaken st ((Idx.all.filter (s.breaksAt st r.breaks)).map fun c => (.foilBreak, some r.seq, some c)) false s
      (s.applyFoilAll st r) := by
  have columns : ∀ l : List Idx, l.Nodup → ∀ t : State, (∀ c ∈ l, t.lane st c = s.lane st c) →
      FaultsTaken st ((l.filter (s.breaksAt st r.breaks)).map fun c => (.foilBreak, some r.seq, some c)) false t
        (l.foldl (fun s c => s.applyFoil st r c) t) := by
    intro l
    induction l with
    | nil => exact fun _ t _ => .refl st t
    | cons c cs ih =>
      intro distinct t same
      obtain ⟨new, distinct⟩ := List.nodup_cons.1 distinct
      have first := t.applyFoil_faults st whole c
      have rest := ih distinct (t.applyFoil st r c) fun k hk => by
        have apart : k ≠ c := fun e => new (e ▸ hk)
        rw [State.applyFoil_lane t st whole, if_neg (by simp [apart])]
        exact same k (List.mem_cons_of_mem c hk)
      have both := first.trans rest
      rw [same c List.mem_cons_self] at both
      rw [List.foldl_cons, List.filter_cons, State.breaksAt]
      split
      next breaks => simpa only [breaks, if_true, List.map_cons, List.singleton_append, Bool.or_false] using both
      next breaks => simpa only [breaks, Bool.false_eq_true, if_false, List.nil_append, Bool.or_false] using both
  exact columns Idx.all (by decide) s fun _ _ => rfl

theorem State.applyFoilAll_elsewhere (s : State) (st : Idx) {r : FoilReport} (whole : r.whole = true) :
    SameElsewhere s (s.applyFoilAll st r) st := by
  intro v hv
  have lanes : (s.applyFoilAll st r).lanes.get v = s.lanes.get v := Four.ext_get fun k => by
    have lane := s.applyFoilAll_lane st whole v k
    rwa [if_neg hv] at lane
  simp [lanes, (s.applyFoilAll_faults st whole).elsewhere v hv]

/-! ### The descriptors (R93) -/

theorem State.setEntry_entry {s : State} {j : Slot} {st : Idx} {e₀ : StationEntry} (h : s.entry j st = some e₀) (e : StationEntry)
    (i : Slot) (v : Idx) : (s.setEntry j st e).entry i v = if i = j ∧ v = st then some e else s.entry i v := by
  simp only [State.entry_eq, State.setEntry, Two.get_upd] at h ⊢
  by_cases slot : i = j
  · subst slot
    cases stored : (s.slots.get i).job with
    | none => simp [stored] at h
    | some record => simp [Four.get_set]
  · simp [slot]

theorem State.setDescriptor_descriptor {s : State} {j : Slot} {st c : Idx} {d₀ : Descriptor} (h : s.descriptor j st c = some d₀)
    (d : Descriptor) (i : Slot) (v k : Idx) : (s.setDescriptor j st c d).descriptor i v k =
      if i = j ∧ v = st ∧ k = c then some d else s.descriptor i v k := by
  rw [State.descriptor_eq] at h
  cases entry : s.entry j st with
  | none => simp [entry] at h
  | some e =>
    cases lanes : e.lanes with
    | none => simp [entry, lanes] at h
    | some ls =>
      have meaning : s.setDescriptor j st c d = s.setEntry j st { e with lanes := some (ls.set c d) } := by
        simp [State.setDescriptor, entry, lanes]
      rw [meaning, State.descriptor_eq, State.descriptor_eq, State.setEntry_entry entry]
      by_cases here : i = j ∧ v = st
      · obtain ⟨rfl, rfl⟩ := here
        by_cases column : k = c <;> simp [entry, lanes, column]
      · rw [if_neg here, if_neg fun h => here ⟨h.1, h.2.1⟩]

theorem Descriptor.settle_eq (d : Descriptor) (q : SeqNo) (fed advanced : Nat) : d.settle q fed advanced =
    { d with
      struck := d.struck || (decide (0 < advanced) && decide (0 < fed))
      stage := if advanced = 0 ∧ d.stage = .awaiting q then .vacant else d.stage } := by
  unfold Descriptor.settle Descriptor.giveUp Descriptor.awaits
  by_cases none : advanced = 0
  · by_cases awaits : d.stage = .awaiting q <;> simp [none, awaits]
  · by_cases fed' : 0 < fed <;> simp [none, fed', Nat.pos_of_ne_zero none]

theorem State.descriptor_of_slots {s t : State} (h : t.slots = s.slots) (j : Slot) (st c : Idx) :
    t.descriptor j st c = s.descriptor j st c := by
  simp only [State.descriptor_eq, State.entry_eq, h]

theorem State.applyFoil_descriptor (s : State) (st : Idx) {r : FoilReport} (whole : r.whole = true) (c : Idx) (i : Slot) (v k : Idx) :
    (s.applyFoil st r c).descriptor i v k = if i = r.slot ∧ v = st ∧ k = c then
      (s.descriptor r.slot st c).map fun d => d.settle r.seq (r.fed.get c) (r.advanced.get c) else s.descriptor i v k := by
  have tested : (s.applyFoil st r c).slots = (s.foilPulled st r c).slots := by
    rw [s.applyFoil_eq st whole c]
    split <;> simp
  have consumed := State.descriptor_of_slots (s := s) (t := s.consume st c (r.advanced.get c)) (by simp)
  rw [State.descriptor_of_slots tested]
  unfold State.foilPulled
  simp only [consumed]
  cases there : s.descriptor r.slot st c with
  | none =>
    dsimp only
    rw [consumed]
    split
    next here =>
      obtain ⟨rfl, rfl, rfl⟩ := here
      exact there
    · rfl
  | some d =>
    dsimp only
    rw [State.setDescriptor_descriptor ((consumed _ _ _).trans there), consumed]
    rfl

theorem State.applyFoilAll_descriptor (s : State) (st : Idx) {r : FoilReport} (whole : r.whole = true) (i : Slot) (v k : Idx) :
    (s.applyFoilAll st r).descriptor i v k = (s.descriptor i v k).map fun d =>
      if i = r.slot ∧ v = st then d.settle r.seq (r.fed.get k) (r.advanced.get k) else d := by
  by_cases here : i = r.slot ∧ v = st
  · obtain ⟨rfl, rfl⟩ := here
    cases k <;> simp [State.applyFoilAll, Idx.all, State.applyFoil_descriptor _ v whole]
  · have apart : ∀ c, ¬ (i = r.slot ∧ v = st ∧ k = c) := fun c h => here ⟨h.1, h.2.1⟩
    simp [State.applyFoilAll, Idx.all, State.applyFoil_descriptor _ st whole, apart, here]

theorem State.setDescriptor_sameButEntries (s : State) (j : Slot) (st c : Idx) (d : Descriptor) :
    SameButEntries s (s.setDescriptor j st c d) := by
  unfold State.setDescriptor
  split
  · exact s.setEntry_sameButEntries j st _
  · exact .of_slots rfl

theorem State.applyFoilAll_sameButEntries (s : State) (st : Idx) {r : FoilReport} (whole : r.whole = true) :
    SameButEntries s (s.applyFoilAll st r) := by
  refine SameButEntries.foldl _ (fun s c => ?_) _ s
  have pulled : SameButEntries s (s.foilPulled st r c) := by
    unfold State.foilPulled
    dsimp only
    split
    · exact (SameButEntries.of_slots (by simp)).trans (State.setDescriptor_sameButEntries (s.consume st c _) _ st c _)
    · exact .of_slots (by simp)
  refine pulled.trans (.of_slots ?_)
  rw [s.applyFoil_eq st whole c]
  split <;> simp

end Sys2Proof.Machine

end

section
/-! SUPPORT. What a report in time says of its order (O41; R51, R53 to R55, R74): DONE or FAULTED, what the calculator learns, and the
faults of the unit. -/

namespace Sys2Proof.Machine

/-! ### What a report says (R55, R74) -/

/-- The contact that a report tells of is not what the order was for (R74). -/
def reportMismatch (d : Decision) (o : ReportOutcome) : Bool := decide (d = .lift ↔ o = .contact)

/-- A report in time is beyond TOL (R55). -/
def reportOff (d : Decision) (o : ReportOutcome) (e : Option Int) (tol : Nat) : Bool :=
  decide (d ≠ .lift) && decide (o = .contact) && e.any fun n => decide (tol < n.natAbs)

theorem reportStatus_eq (d : Decision) (o : ReportOutcome) : reportStatus d o = if reportMismatch d o then .faulted else .done := by
  rw [Orders.report_status_eq]
  simp only [reportMismatch, decide_eq_true_eq]

theorem reportOff_of_mismatch {d : Decision} {o : ReportOutcome} (h : reportMismatch d o = true) (e : Option Int) (tol : Nat) :
    reportOff d o e tol = false := by
  have agree : d = .lift ↔ o = .contact := of_decide_eq_true h
  by_cases contact : o = .contact <;> simp [reportOff, agree, contact]

/-- An order that ends DONE was a LIFT without contact or another one with it (R74). -/
theorem cases_of_agreement {d : Decision} {o : ReportOutcome} (h : reportMismatch d o = false) :
    (d = .lift ∧ o ≠ .contact) ∨ (d ≠ .lift ∧ o = .contact) := by
  have differ : ¬ (d = .lift ↔ o = .contact) := of_decide_eq_false h
  tauto

/-! ### What the calculator learns (R51, R53, R54) -/

theorem State.learn_lift (s : State) {st : Idx} {r : TrackRecord} (lift : (r.st.get st).decision = .lift) (phasing : Bool)
    (o : ReportOutcome) (e : Option Int) : s.learn st r phasing o e =
      if phasing = true ∧ (s.seqr.get st).tripped = false then s.updCalc st fun c => { c with phased := true } else s := by
  unfold State.learn
  dsimp only
  rw [lift]

/-- The trim moves by the measured error of a STRIKE whose record is not COASTED (R53). -/
def State.steered (s : State) (st : Idx) (r : TrackRecord) (p : StationEntry) (n : Int) : State :=
  if (r.st.get st).decision = .strike ∧ r.origin ≠ .coasted then
    s.setTrim st (learnedTrim (s.calcs.get st).trim n p.gain p.slew (s.trimLimit st))
  else s

/-- The fault of an error beyond TOL (R55). -/
def TrackRecord.offRegister (r : TrackRecord) (st : Idx) : FaultEvent :=
  { kind := .offRegister, unit := .station st, seq := some r.seq, target := (r.st.get st).target }

theorem State.learn_measured (s : State) {st : Idx} {r : TrackRecord} {p : StationEntry} (order : (r.st.get st).decision ≠ .lift)
    (entry : (s.entry r.slot st).map (·.numbers) = some p.numbers) (phasing : Bool) (o : ReportOutcome) (n : Int) :
    s.learn st r phasing o (some n) =
      if p.tol < n.natAbs then (s.steered st r p n).raise (r.offRegister st) else s.steered st r p n := by
  cases found : s.entry r.slot st with
  | none => simp [found] at entry
  | some p' =>
    rw [found, Option.map_some] at entry
    obtain ⟨gain, slew, tol⟩ := Orders.numbers_eq (Option.some.inj entry)
    unfold State.learn State.steered TrackRecord.offRegister
    rw [← gain, ← slew, ← tol]
    simp only [found]

theorem State.learn_unmeasured (s : State) {st : Idx} {r : TrackRecord} (order : (r.st.get st).decision ≠ .lift) (phasing : Bool)
    (o : ReportOutcome) : s.learn st r phasing o none = s := by
  unfold State.learn
  dsimp only
  generalize (r.st.get st).decision = d at order ⊢
  cases d
  case lift => exact absurd rfl order
  all_goals rfl

theorem State.steered_calcs (s : State) (st : Idx) (r : TrackRecord) (p : StationEntry) (n : Int) :
    (s.steered st r p n).calcs = s.calcs.set st { s.calcs.get st with
      trim := if (r.st.get st).decision = .strike ∧ r.origin ≠ .coasted then
        learnedTrim (s.calcs.get st).trim n p.gain p.slew (s.trimLimit st) else (s.calcs.get st).trim } := by
  unfold State.steered
  split
  · rw [State.setTrim_calcs]
    rfl
  · exact (Four.set_get _ _).symm

theorem State.steered_trim_moves (s : State) {st : Idx} {r : TrackRecord} (strike : (r.st.get st).decision = .strike)
    (steady : r.origin ≠ .coasted) (p : StationEntry) (n : Int) : ((s.steered st r p n).calcs.get st).trim =
      learnedTrim (s.calcs.get st).trim n p.gain p.slew (s.trimLimit st) := by
  simp [State.steered_calcs, strike, steady]

theorem State.steered_trim_stays (s : State) {st : Idx} {r : TrackRecord}
    (other : (r.st.get st).decision ≠ .strike ∨ r.origin = .coasted) (p : StationEntry) (n : Int) :
    ((s.steered st r p n).calcs.get st).trim = (s.calcs.get st).trim := by
  rw [State.steered_calcs, Four.get_set_same]
  exact if_neg fun h => other.elim (absurd h.1) h.2

theorem State.updCalc_faults (s : State) (st : Idx) (f : Calc → Calc) : FaultsTaken st [] false s (s.updCalc st f) :=
  .of_units st rfl rfl id

theorem State.setTrim_faults (s : State) (st : Idx) (t : Int) : FaultsTaken st [] false s (s.setTrim st t) := by
  unfold State.setTrim
  split
  · exact .refl st s
  · exact (s.updCalc_faults st _).trans (State.trimChanged_faults _ st st)

theorem State.steered_faults (s : State) (st : Idx) (r : TrackRecord) (p : StationEntry) (n : Int) :
    FaultsTaken st [] false s (s.steered st r p n) := by
  unfold State.steered
  split
  · exact s.setTrim_faults st _
  · exact .refl st s

theorem State.steered_marked (s : State) (st : Idx) (r : TrackRecord) (p : StationEntry) (n : Int) :
    Marked s (s.steered st r p n) := by
  unfold State.steered
  split
  · exact s.setTrim_marked st _
  · exact .of_track rfl

@[simp] theorem State.steered_frame (s : State) (st : Idx) (r : TrackRecord) (p : StationEntry) (n : Int) :
    (s.steered st r p n).seqr = s.seqr ∧ (s.steered st r p n).lanes = s.lanes ∧ (s.steered st r p n).units = s.units ∧
    (s.steered st r p n).links = s.links := by
  unfold State.steered
  split <;> simp

theorem State.steered_elsewhere (s : State) (st : Idx) (r : TrackRecord) (p : StationEntry) (n : Int) :
    SameElsewhere s (s.steered st r p n) st := fun v hv => by simp [State.steered_calcs, hv]

/-- The latest-event record takes a soft fault, whatever its effect is (R154, R161). -/
theorem State.raise_soft_latest (s : State) {ev : FaultEvent} {st : Idx} (soft : ev.kind.cls = .soft) (station : ev.unit = .station st) :
    ((s.raise ev).units.get st).latest.map (fun x => (x.kind, x.seq, x.target, x.trim)) =
      some (ev.kind, ev.seq, ev.target, some (s.calcs.get st).trim) := by
  unfold State.raise
  rw [soft]
  dsimp only
  split <;> simp [State.writeLatest, State.setUnit, station, State.unit, State.faultRecord]

/-! ### The judgement of a report (R74 step 3) -/

/-- The fault of an order that the drive has not carried out as ordered (R74). -/
def TrackRecord.driveMismatch (r : TrackRecord) (st : Idx) (o : ReportOutcome) : FaultEvent :=
  { kind := .driveMismatch, unit := .station st, detail := some (.reported o), seq := some r.seq, target := (r.st.get st).target }

/-- The order is DONE and the calculator learns, or it is FAULTED and the drive does not match. -/
def State.reportJudged (s : State) (st : Idx) (r : TrackRecord) (phasing : Bool) (o : ReportOutcome) (e : Option Int) : State :=
  if reportStatus (r.st.get st).decision o = .done then s.learn st r phasing o e
  else s.raise (r.driveMismatch st o)

@[simp] theorem State.reportJudged_frame (s : State) (st : Idx) (r : TrackRecord) (b : Bool) (o : ReportOutcome) (e : Option Int) :
    (s.reportJudged st r b o e).web = s.web ∧ (s.reportJudged st r b o e).reader = s.reader ∧
    (s.reportJudged st r b o e).nextSeq = s.nextSeq ∧ (s.reportJudged st r b o e).outcomes = s.outcomes ∧
    (s.reportJudged st r b o e).seqr = s.seqr ∧ (s.reportJudged st r b o e).lanes = s.lanes ∧
    (s.reportJudged st r b o e).heat = s.heat ∧ (s.reportJudged st r b o e).splices = s.splices ∧
    (s.reportJudged st r b o e).slots = s.slots ∧ (s.reportJudged st r b o e).settings = s.settings ∧
    (s.reportJudged st r b o e).line = s.line ∧ (s.reportJudged st r b o e).estop = s.estop ∧
    (s.reportJudged st r b o e).links = s.links ∧ (s.reportJudged st r b o e).pending = s.pending := by
  unfold State.reportJudged
  split <;> simp

/-- The hard faults of the judgement: DRIVE_MISMATCH, and OFF_REGISTER where SOFT stands (R55, R74, R154). -/
def judgedFaults (q : SeqNo) (mismatch off soft : Bool) : List FaultKey :=
  (if mismatch then [(.driveMismatch, some q, none)] else []) ++ if off && soft then [(.offRegister, some q, none)] else []

/-- What the judgement of a report changes. -/
structure Judged (st : Idx) (r : TrackRecord) (p : StationEntry) (phasing : Bool) (o : ReportOutcome) (e : Option Int)
    (s t : State) : Prop where
  marked : Marked s t
  elsewhere : SameElsewhere s t st
  last : (t.calcs.get st).last = (s.calcs.get st).last
  missed : (t.calcs.get st).missed = (s.calcs.get st).missed
  steered : (r.st.get st).decision = .strike → o = .contact → r.origin ≠ .coasted → ∀ n, e = some n →
    (t.calcs.get st).trim = learnedTrim (s.calcs.get st).trim n p.gain p.slew (s.trimLimit st)
  unsteered : (r.st.get st).decision ≠ .strike ∨ r.origin = .coasted ∨ o ≠ .contact ∨ e = none →
    (t.calcs.get st).trim = (s.calcs.get st).trim
  phased : (t.calcs.get st).phased = ((s.calcs.get st).phased ||
    (decide ((r.st.get st).decision = .lift) && decide (o ≠ .contact) && phasing && !(s.seqr.get st).tripped))
  faults : FaultsTaken st (judgedFaults r.seq (reportMismatch (r.st.get st).decision o)
    (reportOff (r.st.get st).decision o e p.tol) (s.units.get st).soft) (reportOff (r.st.get st).decision o e p.tol) s t
  latest : reportOff (r.st.get st).decision o e p.tol = true →
    (t.units.get st).latest.map (fun x => (x.kind, x.seq, x.target, x.trim)) =
      some (.offRegister, some r.seq, (r.st.get st).target, some (t.calcs.get st).trim)

section
variable {s : State} {st : Idx} {r : TrackRecord} (p : StationEntry) (phasing : Bool) {o : ReportOutcome} (e : Option Int)

theorem State.reportJudged_mismatch (mismatch : reportMismatch (r.st.get st).decision o = true) :
    Judged st r p phasing o e s (s.reportJudged st r phasing o e) := by
  have off := reportOff_of_mismatch mismatch e p.tol
  have agree : (r.st.get st).decision = .lift ↔ o = .contact := of_decide_eq_true mismatch
  have meaning : s.reportJudged st r phasing o e = s.raise (r.driveMismatch st o) := by
    unfold State.reportJudged
    rw [reportStatus_eq, mismatch]
    rfl
  have taken : FaultsTaken st [(.driveMismatch, some r.seq, none)] false s (s.raise (r.driveMismatch st o)) :=
    State.raise_hard_faults s (ev := r.driveMismatch st o) rfl rfl
  rw [meaning]
  constructor
  case marked => exact s.raise_marked _
  case elsewhere => exact s.raise_elsewhere rfl
  case last | missed | unsteered => simp
  case steered =>
    intro strike contact
    rw [agree.2 contact] at strike
    cases strike
  case phased =>
    by_cases lift : (r.st.get st).decision = .lift
    · simp [agree.1 lift]
    · simp [lift]
  case faults => simpa [judgedFaults, mismatch, off] using taken
  case latest => simp [off]

theorem State.reportJudged_lift (lift : (r.st.get st).decision = .lift) (contact : o ≠ .contact) :
    Judged st r p phasing o e s (s.reportJudged st r phasing o e) := by
  have mismatch : reportMismatch (r.st.get st).decision o = false := by simp [reportMismatch, lift, contact]
  have off : reportOff (r.st.get st).decision o e p.tol = false := by simp [reportOff, lift]
  have meaning : s.reportJudged st r phasing o e =
      if phasing = true ∧ (s.seqr.get st).tripped = false then s.updCalc st fun c => { c with phased := true } else s := by
    rw [← s.learn_lift lift phasing o e]
    unfold State.reportJudged
    rw [reportStatus_eq, mismatch]
    rfl
  rw [meaning]
  by_cases phases : phasing = true ∧ (s.seqr.get st).tripped = false
  · rw [if_pos phases]
    obtain ⟨rfl, ready⟩ := phases
    constructor
    case marked => exact .of_track rfl
    case elsewhere => exact s.updCalc_elsewhere st _
    case last | missed | unsteered => simp [State.updCalc]
    case steered => simp [lift]
    case phased => simp [State.updCalc, lift, contact, ready]
    case faults =>
      rw [mismatch, off]
      exact s.updCalc_faults st _
    case latest => simp [off]
  · rw [if_neg phases]
    constructor
    case marked => exact .of_track rfl
    case elsewhere => exact .of_same st rfl rfl rfl rfl rfl
    case last | missed | unsteered => simp
    case steered => simp [lift]
    case phased =>
      have kept : (phasing && !(s.seqr.get st).tripped) = false := by simpa using phases
      simp [lift, contact, kept]
    case faults =>
      rw [mismatch, off]
      exact .refl st s
    case latest => simp [off]

/-- What is learned where the order was carried out and an error was measured (R53 to R55). -/
theorem State.reportJudged_order (order : (r.st.get st).decision ≠ .lift) (contact : o = .contact)
    (entry : (s.entry r.slot st).map (·.numbers) = some p.numbers) :
    Judged st r p phasing o e s (s.reportJudged st r phasing o e) := by
  subst contact
  have mismatch : reportMismatch (r.st.get st).decision .contact = false := by simp [reportMismatch, order]
  have meaning : s.reportJudged st r phasing .contact e = s.learn st r phasing .contact e := by
    unfold State.reportJudged
    rw [reportStatus_eq, mismatch]
    rfl
  rw [meaning]
  cases e with
  | none =>
    have off : reportOff (r.st.get st).decision .contact none p.tol = false := by simp [reportOff]
    rw [s.learn_unmeasured order]
    constructor
    case marked => exact .of_track rfl
    case elsewhere => exact .of_same st rfl rfl rfl rfl rfl
    case last | missed | unsteered | steered => simp
    case phased => simp [order]
    case faults =>
      rw [mismatch, off]
      exact .refl st s
    case latest => simp [off]
  | some n =>
    have off : reportOff (r.st.get st).decision .contact (some n) p.tol = decide (p.tol < n.natAbs) := by
      simp [reportOff, order]
    have calcs := s.steered_calcs st r p n
    have unsteered (h : (r.st.get st).decision ≠ .strike ∨ r.origin = .coasted ∨ ReportOutcome.contact ≠ .contact ∨ some n = none) :
        ((s.steered st r p n).calcs.get st).trim = (s.calcs.get st).trim :=
      s.steered_trim_stays (h.imp_right fun h => h.resolve_right (by simp)) p n
    have before := s.steered_faults st r p n
    rw [s.learn_measured order entry]
    by_cases beyond : p.tol < n.natAbs
    · have same : ((s.steered st r p n).units.get st).soft = (s.units.get st).soft := by simp
      have raised := State.raise_soft_faults (s.steered st r p n) (ev := r.offRegister st) rfl rfl
      rw [if_pos beyond]
      constructor
      case marked => exact (s.steered_marked st r p n).trans (State.raise_marked _ _)
      case elsewhere => exact (s.steered_elsewhere st r p n).trans (State.raise_elsewhere _ rfl)
      case last | missed => simp [calcs]
      case steered =>
        rintro strike - steady m ⟨rfl⟩
        simpa using s.steered_trim_moves strike steady p n
      case unsteered => simpa using unsteered
      case phased => simp [calcs, order]
      case faults =>
        rw [same] at raised
        rw [mismatch, off, decide_eq_true beyond]
        exact before.trans raised
      case latest =>
        intro _
        rw [State.raise_soft_latest _ rfl rfl]
        simp [TrackRecord.offRegister]
    · rw [if_neg beyond]
      constructor
      case marked => exact s.steered_marked st r p n
      case elsewhere => exact s.steered_elsewhere st r p n
      case last | missed => simp [calcs]
      case steered =>
        rintro strike - steady m ⟨rfl⟩
        exact s.steered_trim_moves strike steady p n
      case unsteered => exact unsteered
      case phased => simp [calcs, order]
      case faults =>
        rw [mismatch, off, decide_eq_false beyond]
        exact before
      case latest => simp [off, beyond]

/-- What the judgement of a report changes (R51, R53 to R55, R74). -/
theorem State.reportJudged_spec (entry : (s.entry r.slot st).map (·.numbers) = some p.numbers) :
    Judged st r p phasing o e s (s.reportJudged st r phasing o e) := by
  cases mismatch : reportMismatch (r.st.get st).decision o with
  | true => exact State.reportJudged_mismatch p phasing e mismatch
  | false =>
    obtain ⟨lift, contact⟩ | ⟨order, contact⟩ := cases_of_agreement mismatch
    · exact State.reportJudged_lift p phasing e lift contact
    · exact State.reportJudged_order p phasing e order contact entry

end

end Sys2Proof.Machine

end

section
/-! SUPPORT. The STRIKE REPORT of an order in flight (O41; R72 to R74, R84): what is stored and released, what it completes, and the trip
that it can end in. -/

namespace Sys2Proof.Machine

/-! ### What a report stores and releases (R72 to R74, R91) -/

/-- The report is the ack too where that is awaited; it is stored, its order leaves the in-flight list and its feeds are released. -/
def State.reportStored (s : State) (st : Idx) (fr : StrikeReportFrame) (r : TrackRecord) : State :=
  (((s.reportAsAck st r.seq).updField r.seq st fun f =>
    { f with report := some { outcome := fr.outcome, e := decodeError fr.ePresent fr.e, advanced := counts fr.advanced },
             status := reportStatus (r.st.get st).decision fr.outcome }).leaveInFlight st r.seq).release st (r.st.get st).feeds

/-- A record with a report stored at a station. -/
def TrackRecord.reportedAs (x : TrackRecord) (st : Idx) (fr : StrikeReportFrame) (status : Status) : TrackRecord :=
  x.updStation st fun f =>
    { f with report := some { outcome := fr.outcome, e := decodeError fr.ePresent fr.e, advanced := counts fr.advanced },
             status := status }

/-- The foil that a report tells of. -/
def TrackRecord.foilOf (r : TrackRecord) (st : Idx) (fr : StrikeReportFrame) : FoilReport :=
  { slot := r.slot, seq := r.seq, fed := (r.st.get st).feeds, advanced := counts fr.advanced, breaks := fr.breakMask, whole := true }

section
variable (s : State) (st : Idx) (fr : StrikeReportFrame) (r : TrackRecord)

@[simp] theorem State.reportStored_frame :
    (s.reportStored st fr r).web = s.web ∧ (s.reportStored st fr r).reader = s.reader ∧
    (s.reportStored st fr r).nextSeq = s.nextSeq ∧ (s.reportStored st fr r).outcomes = s.outcomes ∧
    (s.reportStored st fr r).calcs = s.calcs ∧ (s.reportStored st fr r).heat = s.heat ∧
    (s.reportStored st fr r).splices = s.splices ∧ (s.reportStored st fr r).units = s.units ∧
    (s.reportStored st fr r).lineUnit = s.lineUnit ∧ (s.reportStored st fr r).stopReq = s.stopReq ∧
    (s.reportStored st fr r).watches = s.watches ∧ (s.reportStored st fr r).slots = s.slots ∧
    (s.reportStored st fr r).settings = s.settings ∧ (s.reportStored st fr r).line = s.line ∧
    (s.reportStored st fr r).estop = s.estop ∧ (s.reportStored st fr r).ports = s.ports ∧
    (s.reportStored st fr r).pending = s.pending ∧ (s.reportStored st fr r).links = (s.reportAsAck st r.seq).links := by
  unfold State.reportStored
  simp

theorem State.reportStored_track : (s.reportStored st fr r).track = s.track.map fun x =>
    if x.seq = r.seq then x.reportedAs st fr (reportStatus (r.st.get st).decision fr.outcome) else x := by
  unfold State.reportStored TrackRecord.reportedAs
  simp [State.updField, State.updRecord]

theorem State.reportStored_seqr : (s.reportStored st fr r).seqr =
    (s.reportAsAck st r.seq).seqr.upd st fun sq => { sq with inFlight := sq.inFlight.filter fun e => decide (e.seq ≠ r.seq) } := by
  unfold State.reportStored
  simp [State.leaveInFlight, State.updSeqr]

theorem State.reportStored_lane (v c : Idx) : (s.reportStored st fr r).lane v c =
    if v = st then { s.lane st c with reserved := (s.lane st c).reserved - (r.st.get st).feeds.get c } else s.lane v c := by
  unfold State.reportStored State.release
  by_cases station : v = st
  · subst station
    simp [State.lane, State.updLanes]
  · simp [State.lane, State.updLanes, station]

theorem State.reportAsAck_elsewhere (q : SeqNo) : SameElsewhere s (s.reportAsAck st q) st := by
  have same : SameElsewhere s s st := .of_same st rfl rfl rfl rfl rfl
  have cleared : SameElsewhere s (s.clearAwaited st) st := (s.updSeqr_elsewhere st _).trans (State.updLink_elsewhere _ st _)
  unfold State.reportAsAck State.releaseQueue
  split
  · split
    · exact cleared.trans (State.transmit_elsewhere _ st _)
    · exact cleared
  · exact same

theorem State.reportStored_elsewhere : SameElsewhere s (s.reportStored st fr r) st := by
  have left := (s.reportAsAck_elsewhere st r.seq).trans
    (State.updSeqr_elsewhere (s.reportAsAck st r.seq) st fun sq =>
      { sq with inFlight := sq.inFlight.filter fun e => decide (e.seq ≠ r.seq) })
  refine left.trans fun v hv => ⟨?_, by simp, ?_, by simp, by simp⟩
  · rw [State.reportStored_seqr]
    rfl
  · have released : ∀ c, ((s.reportStored st fr r).lanes.get v).get c = (s.lanes.get v).get c := fun c =>
      (s.reportStored_lane st fr r v c).trans (if_neg hv)
    exact (Four.ext_get released).trans (by simp)

theorem State.reportAsAck_abortSet (q : SeqNo) : ((s.reportAsAck st q).seqr.get st).abortSet = (s.seqr.get st).abortSet := by
  unfold State.reportAsAck
  split
  · rw [State.releaseQueue_abortSet]
    simp [State.clearAwaited, State.updSeqr, State.updLink]
  · rfl

/-- The foil of a report is applied (R93). -/
def State.reportFoil : State := (s.reportStored st fr r).applyFoilAll st (r.foilOf st fr)

@[simp] theorem State.reportFoil_frame :
    (s.reportFoil st fr r).web = s.web ∧ (s.reportFoil st fr r).reader = s.reader ∧
    (s.reportFoil st fr r).nextSeq = s.nextSeq ∧ (s.reportFoil st fr r).outcomes = s.outcomes ∧
    (s.reportFoil st fr r).calcs = s.calcs ∧ (s.reportFoil st fr r).heat = s.heat ∧
    (s.reportFoil st fr r).splices = s.splices ∧ (s.reportFoil st fr r).settings = s.settings ∧
    (s.reportFoil st fr r).line = s.line ∧ (s.reportFoil st fr r).estop = s.estop ∧
    (s.reportFoil st fr r).pending = s.pending ∧ (s.reportFoil st fr r).links = (s.reportAsAck st r.seq).links ∧
    (s.reportFoil st fr r).seqr = (s.reportStored st fr r).seqr := by
  unfold State.reportFoil
  simp

/-- The report of an order that no abort names. -/
theorem State.reportInTime_eq {s : State} {st : Idx} {fr : StrikeReportFrame} {r : TrackRecord}
    (unnamed : r.seq ∉ (s.seqr.get st).abortSet) : s.reportInTime st fr r =
      (s.reportFoil st fr r).reportJudged st r ((s.seqr.get st).phasing r.seq) fr.outcome (decodeError fr.ePresent fr.e) := by
  have outside : ((((s.reportFoil st fr r).reportJudged st r ((s.seqr.get st).phasing r.seq) fr.outcome
      (decodeError fr.ePresent fr.e)).seqr.get st).abortSet.contains r.seq) = false := by
    simpa [State.reportStored_seqr, State.reportAsAck_abortSet] using unnamed
  exact if_neg (by rw [Bool.eq_false_iff] at outside; exact outside)

end

/-! ### The queue behind a report (R68, R72) -/

theorem Sequencer.phasing_of_left (sq : Sequencer) {q x : SeqNo} (other : x ≠ q) :
    Sequencer.phasing { sq with inFlight := sq.inFlight.filter fun e => decide (e.seq ≠ q) } x = sq.phasing x := by
  simp only [Sequencer.phasing, List.any_filter]
  congr 1
  funext e
  by_cases same : e.seq = x <;> simp [same, other]

/-- The queued order goes out alike where another order leaves the in-flight list. -/
theorem QueuedGoesOut.leave {s t u : State} {st : Idx} {sq : Sequencer} {q : SeqNo} (out : QueuedGoesOut s t st sq)
    (unqueued : sq.queue ≠ some q)
    (left : u.seqr.get st = { t.seqr.get st with inFlight := (t.seqr.get st).inFlight.filter fun e => decide (e.seq ≠ q) })
    (links : u.links.get st = t.links.get st) :
    QueuedGoesOut s u st { sq with inFlight := sq.inFlight.filter fun e => decide (e.seq ≠ q) } := by
  unfold QueuedGoesOut at *
  dsimp only at *
  rw [left, links]
  cases queued : sq.queue.bind s.record with
  | none =>
    rw [queued] at out
    exact ⟨by rw [out.1], out.2⟩
  | some r =>
    rw [queued] at out
    obtain ⟨x, hx, record⟩ := Option.bind_eq_some_iff.1 queued
    have other : r.seq ≠ q := fun e => unqueued (by rw [hx, ← findRecord_seq record, e])
    exact ⟨by rw [out.1], by rw [out.2, Sequencer.phasing_of_left sq other]⟩

section
variable {s : State} {st : Idx} {r : TrackRecord} (fr : StrikeReportFrame)

theorem State.reportStored_unawaited (unawaited : (s.seqr.get st).awaited ≠ .order r.seq) :
    (s.reportStored st fr r).seqr.get st =
      { s.seqr.get st with inFlight := (s.seqr.get st).inFlight.filter fun e => decide (e.seq ≠ r.seq) } ∧
    (s.reportStored st fr r).links = s.links := by
  have unchanged : s.reportAsAck st r.seq = s := if_neg unawaited
  refine ⟨?_, ?_⟩
  · rw [State.reportStored_seqr, Four.get_upd_same, unchanged]
  · simp [unchanged]

theorem State.reportStored_awaited (awaited : (s.seqr.get st).awaited = .order r.seq) (unqueued : (s.seqr.get st).queue ≠ some r.seq) :
    QueuedGoesOut s (s.reportStored st fr r) st { s.seqr.get st with
      awaited := .none, timer := none, inFlight := (s.seqr.get st).inFlight.filter fun e => decide (e.seq ≠ r.seq) } := by
  have acked : s.reportAsAck st r.seq = (s.clearAwaited st).releaseQueue st := if_pos awaited
  refine (Aborts.queued_goes_out s st).leave (q := r.seq) unqueued ?_ ?_
  · rw [State.reportStored_seqr, Four.get_upd_same, acked]
  · simp [acked]

/-- What the sequencer is like where a trip follows: an abort can be requested, and no queued order is left to withdraw (R80). -/
theorem State.reportStored_abortable (unqueued : (s.seqr.get st).queue ≠ some r.seq) (unaborted : (s.seqr.get st).awaited ≠ .abort)
    (idle : (s.seqr.get st).inFlight.filter (fun e => decide (e.seq ≠ r.seq)) ≠ [] ∨ (s.seqr.get st).awaited = .none ∨
      (s.seqr.get st).awaited = .order r.seq)
    (empty : (s.seqr.get st).awaited ≠ .order r.seq → (s.seqr.get st).queue = none)
    (stands : ∀ x, (s.seqr.get st).queue = some x →
      (∃ y ∈ (s.seqr.get st).inFlight.filter (fun e => decide (e.seq ≠ r.seq)), y.seq = x) ∧ (s.record x).isSome = true) :
    let sq := (s.reportStored st fr r).seqr.get st
    sq.inFlight = (s.seqr.get st).inFlight.filter (fun e => decide (e.seq ≠ r.seq)) ∧ sq.queue = none ∧ sq.awaited ≠ .abort ∧
      (sq.inFlight = [] → sq.awaited = .none) := by
  dsimp only
  by_cases awaited : (s.seqr.get st).awaited = .order r.seq
  · have out := State.reportStored_awaited fr awaited unqueued
    unfold QueuedGoesOut at out
    dsimp only at out
    cases queue : (s.seqr.get st).queue with
    | none =>
      simp only [queue, Option.bind_none] at out
      rw [out.1]
      simp
    | some x =>
      obtain ⟨⟨y, hy, -⟩, record⟩ := stands x queue
      obtain ⟨r', found⟩ := Option.isSome_iff_exists.1 record
      simp only [queue, Option.bind_some, found] at out
      rw [out.1]
      exact ⟨rfl, rfl, by simp, fun none => absurd none (List.ne_nil_of_mem hy)⟩
  · rw [(State.reportStored_unawaited fr awaited).1]
    refine ⟨rfl, empty awaited, unaborted, fun none => ?_⟩
    exact (idle.resolve_left fun some => some none).resolve_right awaited

end

/-! ### What a report completes (R51, R53, R54, R73, R74, R93, R96) -/

/-- The columns that a report breaks, from its break mask and the lane states (R96). -/
def State.brokenBy (s : State) (st : Idx) (fr : StrikeReportFrame) (c : Idx) : Bool :=
  fr.breakMask.get c && decide ((s.lane st c).state = .ready ∨ (s.lane st c).state = .low ∨ (s.lane st c).state = .out)

theorem State.breaksAt_eq (s : State) (st : Idx) (fr : StrikeReportFrame) : s.breaksAt st fr.breakMask = s.brokenBy st fr := by
  funext c
  unfold State.breaksAt State.brokenBy
  congr 1
  rw [Bool.eq_iff_iff, decide_eq_true_eq]
  exact LaneState.breakable_iff

/-- What a report of an order in flight completes, whatever faults come of it. -/
def ReportCompletes (s t : State) (st : Idx) (fr : StrikeReportFrame) (r : TrackRecord) (p : StationEntry) : Prop :=
  let f := r.st.get st
  let e := decodeError fr.ePresent fr.e
  let advanced := counts fr.advanced
  (∃ mark : TrackRecord → Four Bool, t.track = s.track.map fun x =>
    { (if x.seq = r.seq then x.reportedAs st fr (if reportMismatch f.decision fr.outcome then .faulted else .done) else x) with
      watchMark := mark x }) ∧ SameElsewhere s t st ∧
  (∀ c, (t.lanes.get st).get c =
    { s.lane st c with
      remaining := (s.lane st c).remaining - advanced.get c, reserved := (s.lane st c).reserved - f.feeds.get c,
      state := if s.brokenBy st fr c then .broken
        else if (s.lane st c).state = .ready ∧ (s.lane st c).remaining - advanced.get c < (s.settings.low.get st).get c then .low
        else (s.lane st c).state }) ∧
  (f.decision = .strike → fr.outcome = .contact → r.origin ≠ .coasted → ∀ n, e = some n →
    (t.calcs.get st).trim = learnedTrim (s.calcs.get st).trim n p.gain p.slew (s.trimLimit st)) ∧
  (f.decision ≠ .strike ∨ r.origin = .coasted ∨ fr.outcome ≠ .contact ∨ e = none →
    (t.calcs.get st).trim = (s.calcs.get st).trim) ∧
  (t.calcs.get st).last = (s.calcs.get st).last ∧ (t.calcs.get st).missed = (s.calcs.get st).missed ∧
  (∀ j v c, t.descriptor j v c = (s.descriptor j v c).map fun x =>
    if j = r.slot ∧ v = st then
      { x with struck := x.struck || (decide (0 < advanced.get c) && decide (0 < f.feeds.get c)),
               stage := if advanced.get c = 0 ∧ x.stage = .awaiting r.seq then .vacant else x.stage }
    else x) ∧
  ∀ j, t.slots.get j = { s.slots.get j with job := (t.slots.get j).job }

/-- What is completed stays so where no more than the phase of a calculator and the sequencer change. -/
theorem ReportCompletes.congr {s t u : State} {st : Idx} {fr : StrikeReportFrame} {r : TrackRecord} {p : StationEntry}
    (h : ReportCompletes s t st fr r p) (track : u.track = t.track) (elsewhere : SameElsewhere t u st) (lanes : u.lanes = t.lanes)
    (trim : (u.calcs.get st).trim = (t.calcs.get st).trim) (last : (u.calcs.get st).last = (t.calcs.get st).last)
    (missed : (u.calcs.get st).missed = (t.calcs.get st).missed) (slots : u.slots = t.slots) : ReportCompletes s u st fr r p := by
  obtain ⟨marked, others, laneOf, moves, stays, last', missed', descriptors, slotOf⟩ := h
  unfold ReportCompletes
  simp only [track, lanes, trim, last, missed, slots, State.descriptor_of_slots slots]
  exact ⟨marked, others.trans elsewhere, laneOf, moves, stays, last', missed', descriptors, slotOf⟩

/-- The hard faults of a report, in their order: FOIL_BREAK column by column, then DRIVE_MISMATCH or OFF_REGISTER (R93, R96, R74, R55). -/
def State.reportFaults (s : State) (st : Idx) (fr : StrikeReportFrame) (r : TrackRecord) (p : StationEntry) : List FaultKey :=
  ((Idx.all.filter (s.brokenBy st fr)).map fun c => (.foilBreak, some r.seq, some c)) ++
    judgedFaults r.seq (reportMismatch (r.st.get st).decision fr.outcome)
      (reportOff (r.st.get st).decision fr.outcome (decodeError fr.ePresent fr.e) p.tol) (s.units.get st).soft

theorem State.reportFaults_length (s : State) (st : Idx) (fr : StrikeReportFrame) (r : TrackRecord) (p : StationEntry) :
    (s.reportFaults st fr r p).length = (Idx.all.filter (s.brokenBy st fr)).length +
      (reportMismatch (r.st.get st).decision fr.outcome).toNat +
      (reportOff (r.st.get st).decision fr.outcome (decodeError fr.ePresent fr.e) p.tol && (s.units.get st).soft).toNat := by
  unfold State.reportFaults judgedFaults
  cases reportMismatch (r.st.get st).decision fr.outcome <;>
    cases reportOff (r.st.get st).decision fr.outcome (decodeError fr.ePresent fr.e) p.tol && (s.units.get st).soft <;> simp

section
variable (s : State) (st : Idx) (fr : StrikeReportFrame) (r : TrackRecord)

theorem State.reportStored_brokenBy : (s.reportStored st fr r).brokenBy st fr = s.brokenBy st fr := by
  funext c
  unfold State.brokenBy
  rw [State.reportStored_lane, if_pos rfl]

theorem State.reportFoil_lane (c : Idx) : (s.reportFoil st fr r).lane st c =
    { s.lane st c with
      remaining := (s.lane st c).remaining - (counts fr.advanced).get c
      reserved := (s.lane st c).reserved - (r.st.get st).feeds.get c
      state := if s.brokenBy st fr c then .broken
        else if (s.lane st c).state = .ready ∧ (s.lane st c).remaining - (counts fr.advanced).get c < (s.settings.low.get st).get c
          then .low
        else (s.lane st c).state } := by
  have breaks := congrFun (State.breaksAt_eq s st fr) c
  unfold State.breaksAt at breaks
  unfold State.reportFoil
  rw [State.applyFoilAll_lane _ _ rfl, if_pos rfl, Lane.reported_eq, State.reportStored_lane, if_pos rfl, ← breaks]
  simp [TrackRecord.foilOf]

theorem State.reportFoil_elsewhere : SameElsewhere s (s.reportFoil st fr r) st :=
  (s.reportStored_elsewhere st fr r).trans (State.applyFoilAll_elsewhere _ st rfl)

theorem State.reportFoil_descriptor (j : Slot) (v c : Idx) : (s.reportFoil st fr r).descriptor j v c =
    (s.descriptor j v c).map fun x => if j = r.slot ∧ v = st then
      x.settle r.seq ((r.st.get st).feeds.get c) ((counts fr.advanced).get c) else x := by
  rw [← State.descriptor_of_slots (s := s) (t := s.reportStored st fr r) (by simp) j v c]
  exact State.applyFoilAll_descriptor (s.reportStored st fr r) st (r := r.foilOf st fr) rfl j v c

theorem State.reportFoil_sameButEntries : SameButEntries s (s.reportFoil st fr r) :=
  (SameButEntries.of_slots (by simp)).trans (State.applyFoilAll_sameButEntries (s.reportStored st fr r) st rfl)

theorem State.reportFoil_trimLimit : (s.reportFoil st fr r).trimLimit st = s.trimLimit st := by
  have slots := (State.applyFoilAll_within (s.reportStored st fr r) st (r.foilOf st fr)).slots
  simp only [State.reportStored_frame] at slots
  exact State.trimLimit_of_keys slots st

theorem State.reportFoil_faults : FaultsTaken st ((Idx.all.filter (s.brokenBy st fr)).map fun c => (.foilBreak, some r.seq, some c))
    false s (s.reportFoil st fr r) := by
  have stored : FaultsTaken st [] false s (s.reportStored st fr r) := .of_units st (by simp) (by simp) (by simp)
  have taken := State.applyFoilAll_faults (s.reportStored st fr r) st (r := r.foilOf st fr) rfl
  have breaks : (s.reportStored st fr r).breaksAt st (r.foilOf st fr).breaks = s.brokenBy st fr := by
    rw [← s.reportStored_brokenBy st fr r]
    exact State.breaksAt_eq _ st fr
  rw [breaks] at taken
  exact stored.trans taken

end

section
variable {s : State} {st : Idx} {fr : StrikeReportFrame} {r : TrackRecord} {p : StationEntry}

/-- The judgement of the report once its foil is applied (R93). -/
theorem State.reportInTime_judged (unnamed : r.seq ∉ (s.seqr.get st).abortSet) (entry : s.entry r.slot st = some p) :
    Judged st r p ((s.seqr.get st).phasing r.seq) fr.outcome (decodeError fr.ePresent fr.e) (s.reportFoil st fr r)
      (s.reportInTime st fr r) := by
  have stored : (s.reportStored st fr r).entry r.slot st = s.entry r.slot st := by simp only [State.entry_eq, State.reportStored_frame]
  rw [State.reportInTime_eq unnamed]
  refine State.reportJudged_spec p _ _ ?_
  unfold State.reportFoil
  rw [State.applyFoilAll_numbers _ _ _ r.slot st, stored, entry]
  rfl

theorem State.reportInTime_slots_lanes (unnamed : r.seq ∉ (s.seqr.get st).abortSet) :
    (s.reportInTime st fr r).slots = (s.reportFoil st fr r).slots ∧ (s.reportInTime st fr r).lanes = (s.reportFoil st fr r).lanes := by
  rw [State.reportInTime_eq unnamed]
  simp

theorem State.reportInTime_sequencer (unnamed : r.seq ∉ (s.seqr.get st).abortSet) :
    (s.reportInTime st fr r).seqr = (s.reportStored st fr r).seqr ∧ (s.reportInTime st fr r).links = (s.reportStored st fr r).links := by
  rw [State.reportInTime_eq unnamed]
  simp

theorem State.reportInTime_marked (unnamed : r.seq ∉ (s.seqr.get st).abortSet) (entry : s.entry r.slot st = some p) :
    Marked (s.reportStored st fr r) (s.reportInTime st fr r) :=
  (State.applyFoilAll_marked _ _ _).trans (State.reportInTime_judged unnamed entry).marked

theorem State.reportInTime_completes (unnamed : r.seq ∉ (s.seqr.get st).abortSet)
    (entry : s.entry r.slot st = some p) : ReportCompletes s (s.reportInTime st fr r) st fr r p := by
  have judged := State.reportInTime_judged (fr := fr) unnamed entry
  obtain ⟨mark, marked⟩ := State.reportInTime_marked (fr := fr) unnamed entry
  obtain ⟨slots, lanes⟩ := State.reportInTime_slots_lanes (fr := fr) unnamed
  have calcs : (s.reportFoil st fr r).calcs = s.calcs := by simp
  refine ⟨?_, ?_, fun c => ?_, ?_, ?_, ?_, ?_, fun j v c => ?_, fun j => ?_⟩
  · refine ⟨fun x => mark (if x.seq = r.seq then x.reportedAs st fr (if reportMismatch (r.st.get st).decision fr.outcome
      then .faulted else .done) else x), marked.trans ?_⟩
    rw [State.reportStored_track, List.map_map, reportStatus_eq]
    rfl
  · exact (s.reportFoil_elsewhere st fr r).trans judged.elsewhere
  · rw [lanes]
    exact s.reportFoil_lane st fr r c
  · rw [← calcs, ← s.reportFoil_trimLimit st fr r]
    exact judged.steered
  · rw [← calcs]
    exact judged.unsteered
  · rw [judged.last, calcs]
  · rw [judged.missed, calcs]
  · rw [State.descriptor_of_slots slots, State.reportFoil_descriptor]
    simp only [Descriptor.settle_eq]
  · rw [slots]
    exact (s.reportFoil_sameButEntries st fr r).but_job j

/-- The faults of a report (R55, R74, R96, R155). -/
theorem State.reportInTime_faults (unnamed : r.seq ∉ (s.seqr.get st).abortSet) (entry : s.entry r.slot st = some p) :
    FaultsTaken st (s.reportFaults st fr r p) (reportOff (r.st.get st).decision fr.outcome (decodeError fr.ePresent fr.e) p.tol)
      s (s.reportInTime st fr r) := by
  have foil := s.reportFoil_faults st fr r
  have judged := (State.reportInTime_judged (fr := fr) unnamed entry).faults
  have soft : ((s.reportFoil st fr r).units.get st).soft = (s.units.get st).soft := by simpa using foil.soft
  rw [soft] at judged
  have both := foil.trans judged
  rw [Bool.false_or] at both
  exact both

end

end Sys2Proof.Machine

end

section
/-! SUPPORT. A trip handed over at the end of an event (O41; R84, R153): the abort of the orders in flight, at a station whose link queue is
empty. -/

namespace Sys2Proof.Machine

/-- Where one station's trip has yet to be handed over, settling hands over that one (R153). -/
theorem State.settleTrips_of_trip {s : State} {st : Idx} (tripped : (s.units.get st).tripped = true)
    (untold : (s.seqr.get st).tripped = false) (others : ∀ v, v ≠ st → (s.units.get v).tripped = true → (s.seqr.get v).tripped = true) :
    s.settleTrips = s.tripEffects st := by
  obtain ⟨settled, told⟩ := s.tripEffects_settled st
  have all : ∀ v, ((s.tripEffects st).units.get v).tripped = true → ((s.tripEffects st).seqr.get v).tripped = true := fun v => by
    have unit : ((s.tripEffects st).units.get v).tripped = (s.units.get v).tripped := (settled.flags (.station v)).2.2
    rw [unit, told]
    by_cases station : v = st
    · simp [station]
    · simpa [station] using others v station
  have handed (l : List Idx) (member : st ∈ l) : l.foldl (fun s st =>
      if (s.units.get st).tripped ∧ (s.seqr.get st).tripped = false then s.tripEffects st else s) s = s.tripEffects st := by
    induction l with
    | nil => cases member
    | cons x xs ih =>
      rw [List.foldl_cons]
      by_cases first : x = st
      · rw [first, if_pos ⟨tripped, untold⟩]
        exact foldl_fixed_of_mem fun v _ => if_neg fun h => by simp [all v h.1] at h
      · rw [if_neg fun h => by simp [others x first h.1] at h]
        exact ih ((List.mem_cons.1 member).resolve_left (Ne.symm first))
  exact handed Idx.all (by cases st <;> decide)

section
variable {s : State} {st : Idx}

/-- A trip at a station whose link queue is empty and that has no abort outstanding (R80, R84). -/
theorem State.tripEffects_unqueued (queue : (s.seqr.get st).queue = none) (unaborted : (s.seqr.get st).awaited ≠ .abort) :
    s.tripEffects st =
      let u := (s.updSeqr st fun sq => { sq with tripped := true, beforeTrip := s.tripFinds st }).unphase st
      if (s.seqr.get st).inFlight = [] then u else u.sendAbort st := by
  unfold State.tripEffects State.requestAbort State.withdrawQueued
  dsimp only
  simp [State.updSeqr, State.unphase, State.updCalc, queue, unaborted]

theorem State.tripEffects_frame_unqueued (queue : (s.seqr.get st).queue = none) (unaborted : (s.seqr.get st).awaited ≠ .abort) :
    (s.tripEffects st).track = s.track ∧ (s.tripEffects st).lanes = s.lanes ∧ (s.tripEffects st).units = s.units ∧
    (s.tripEffects st).slots = s.slots ∧ (s.tripEffects st).stopReq = s.stopReq ∧
    (s.tripEffects st).calcs = s.calcs.set st { s.calcs.get st with phased := false } := by
  rw [State.tripEffects_unqueued queue unaborted]
  dsimp only
  split <;> simp [State.updSeqr, State.unphase, State.updCalc, Four.upd]

theorem State.sendAbort_elsewhere (s : State) (st : Idx) : SameElsewhere s (s.sendAbort st) st := by
  unfold State.sendAbort
  dsimp only
  split
  · exact .of_same st rfl rfl rfl rfl rfl
  · exact (s.updLink_elsewhere st _).trans (State.updSeqr_elsewhere _ st _)

theorem State.tripEffects_elsewhere (queue : (s.seqr.get st).queue = none) (unaborted : (s.seqr.get st).awaited ≠ .abort) :
    SameElsewhere s (s.tripEffects st) st := by
  have unphased : SameElsewhere s ((s.updSeqr st fun sq => { sq with tripped := true, beforeTrip := s.tripFinds st }).unphase st) st :=
    (s.updSeqr_elsewhere st _).trans (State.updCalc_elsewhere _ st _)
  rw [State.tripEffects_unqueued queue unaborted]
  dsimp only
  split
  · exact unphased
  · exact unphased.trans (State.sendAbort_elsewhere _ st)

/-- The orders in flight are named in an abort (R80, R84). -/
theorem State.tripEffects_aborts (queue : (s.seqr.get st).queue = none) (unaborted : (s.seqr.get st).awaited ≠ .abort)
    (idle : (s.seqr.get st).inFlight = [] → (s.seqr.get st).awaited = .none) :
    let sq := (s.tripEffects st).seqr.get st
    let left := (s.seqr.get st).inFlight
    sq.tripped = true ∧ sq.inFlight = left ∧ sq.queue = none ∧ sq.awaited = (if left = [] then .none else .abort) ∧
      (left ≠ [] → sq.abortSet = left.map (·.seq) ∧ sq.timer = some 500) := by
  rw [State.tripEffects_unqueued queue unaborted]
  dsimp only
  by_cases none : (s.seqr.get st).inFlight = []
  · simp [none, queue, idle none, State.updSeqr, State.unphase, State.updCalc]
  · simp [none, queue, State.sendAbort, State.updSeqr, State.updLink, State.unphase, State.updCalc, Config.ackTimeout]

end

end Sys2Proof.Machine

end

section
/-! CLAIM. The STRIKE REPORT (O41; R72 to R74, R78, R84). -/

namespace Sys2Proof.Machine

theorem State.reportsInTime_iff (s : State) (st : Idx) (q : SeqNo) : s.reportsInTime st q = true ↔
    (s.seqr.get st).holds q = true ∧ ((s.seqr.get st).awaited = .order q ∨ q ∈ (s.seqr.get st).abortSet ∨
      (s.record q).map (fun r => (r.st.get st).status) = some .acked) := by
  unfold State.reportsInTime
  cases s.record q <;> simp [or_assoc]

/-- A report for no order in flight and for no overdue one is discarded (R72, R78). -/
theorem State.strikeReport_discarded {s : State} {st : Idx} {fr : StrikeReportFrame} (late : s.reportsInTime st fr.seq = false)
    (unknown : ∀ x ∈ (s.seqr.get st).overdue, x.seq ≠ fr.seq) : s.strikeReport st fr = s := by
  have absent : (s.seqr.get st).overdue.find? (fun x => decide (x.seq = fr.seq)) = none := by simpa using unknown
  unfold State.strikeReport
  rw [late, absent]

section
variable {s : State} {st : Idx} {fr : StrikeReportFrame} {r : TrackRecord} {p : StationEntry}

theorem State.strikeReport_inTime (inTime : s.reportsInTime st fr.seq = true) (record : s.record fr.seq = some r) :
    s.strikeReport st fr = s.reportInTime st fr r := by
  unfold State.strikeReport
  rw [inTime, record]

/-- A report that takes no trip ends as it stands. -/
theorem State.reportInTime_done (mirrored : TripsMirrored s) (unnamed : r.seq ∉ (s.seqr.get st).abortSet)
    (entry : s.entry r.slot st = some p)
    (steady : (s.units.get st).tripped = true ∨ (s.reportFaults st fr r p).length = 0 ∨
      ((s.units.get st).hard = false ∧ (s.reportFaults st fr r p).length = 1)) :
    (∀ v, ((s.reportInTime st fr r).units.get v).tripped = (s.units.get v).tripped) ∧
      (s.reportInTime st fr r).done = .next (s.reportInTime st fr r) := by
  have faults := State.reportInTime_faults (fr := fr) unnamed entry
  have kept : ∀ v, ((s.reportInTime st fr r).units.get v).tripped = (s.units.get v).tripped := fun v => by
    by_cases station : v = st
    · subst station
      rw [faults.tripped]
      obtain tripped | none | ⟨clear, one⟩ := steady
      · simp [tripped]
      · cases (s.units.get v).hard <;> simp [none]
      · simp [clear, one]
    · rw [faults.elsewhere v station]
  exact ⟨kept, State.done_of mirrored kept (s.reportInTime_within st fr r).trips⟩

/-- A report that takes a trip hands it over (R84, R153). -/
theorem State.reportInTime_trips (mirrored : TripsMirrored s) (unnamed : r.seq ∉ (s.seqr.get st).abortSet)
    (entry : s.entry r.slot st = some p) (untripped : (s.units.get st).tripped = false)
    (many : 2 ≤ (s.units.get st).hard.toNat + (s.reportFaults st fr r p).length) :
    ((s.reportInTime st fr r).units.get st).tripped = true ∧
      (s.reportInTime st fr r).done = .next ((s.reportInTime st fr r).tripEffects st) := by
  have faults := State.reportInTime_faults (fr := fr) unnamed entry
  have trips := (s.reportInTime_within st fr r).trips
  have tripped : ((s.reportInTime st fr r).units.get st).tripped = true := by simp [faults.tripped, many]
  refine ⟨tripped, ?_⟩
  unfold State.done
  rw [State.settleTrips_of_trip tripped ?_ fun v other up => ?_]
  · rw [trips, mirrored st, untripped]
  · rw [faults.elsewhere v other] at up
    rw [trips, mirrored v, up]

/-- What a report of an order in flight leaves of the state, but for a trip. -/
theorem State.reportInTime_shape (unnamed : r.seq ∉ (s.seqr.get st).abortSet) (entry : s.entry r.slot st = some p) :
    let t := s.reportInTime st fr r
    t = { s with track := t.track, seqr := t.seqr, lanes := t.lanes, slots := t.slots, calcs := t.calcs, units := t.units,
                 ports := t.ports, watches := t.watches, stopReq := t.stopReq, links := t.links } := by
  have line := (State.reportInTime_faults (fr := fr) unnamed entry).line
  rw [State.reportInTime_eq unnamed] at line ⊢
  apply State.ext_fields <;> simp [line]

theorem State.reportInTime_phased (mirrored : TripsMirrored s) (unnamed : r.seq ∉ (s.seqr.get st).abortSet)
    (entry : s.entry r.slot st = some p) : ((s.reportInTime st fr r).calcs.get st).phased = ((s.calcs.get st).phased ||
      (decide ((r.st.get st).decision = .lift) && decide (fr.outcome ≠ .contact) && (s.seqr.get st).phasing r.seq &&
        !(s.units.get st).tripped)) := by
  have judged := (State.reportInTime_judged (fr := fr) unnamed entry).phased
  have tripped : ((s.reportFoil st fr r).seqr.get st).tripped = (s.units.get st).tripped := by
    rw [← mirrored st, ← (s.reportInTime_within st fr r).trips st, (State.reportInTime_sequencer unnamed).1]
    simp
  rw [tripped] at judged
  simpa using judged

/-- A report that takes a trip completes what any report does, and ends in the abort of the orders left (R84). -/
theorem State.reportInTime_tripTaken (unnamed : r.seq ∉ (s.seqr.get st).abortSet)
    (entry : s.entry r.slot st = some p) (tripped : ((s.reportInTime st fr r).units.get st).tripped = true)
    (untripped : (s.units.get st).tripped = false) {left : List InFlight} {s' : State}
    (soft : (s'.units.get st).soft = ((s.units.get st).soft ||
      reportOff (r.st.get st).decision fr.outcome (decodeError fr.ePresent fr.e) p.tol))
    (abortable : ((s.reportStored st fr r).seqr.get st).inFlight = left ∧ ((s.reportStored st fr r).seqr.get st).queue = none ∧
      ((s.reportStored st fr r).seqr.get st).awaited ≠ .abort ∧
      (((s.reportStored st fr r).seqr.get st).inFlight = [] → ((s.reportStored st fr r).seqr.get st).awaited = .none)) :
    ReportCompletes s ((s.reportInTime st fr r).tripEffects st) st fr r p ∧
      TripTaken s' ((s.reportInTime st fr r).tripEffects st) st left := by
  have completes := State.reportInTime_completes (fr := fr) unnamed entry
  have faults := State.reportInTime_faults (fr := fr) unnamed entry
  rw [← (State.reportInTime_sequencer (fr := fr) unnamed).1] at abortable
  generalize s.reportInTime st fr r = u at completes faults tripped abortable ⊢
  obtain ⟨inFlight, queue, unaborted, idle⟩ := abortable
  obtain ⟨track, lanes, units, slots, stopReq, calcs⟩ := State.tripEffects_frame_unqueued queue unaborted
  obtain ⟨told, inFlight', queue', awaited', named'⟩ := State.tripEffects_aborts queue unaborted idle
  obtain ⟨asserted, cause⟩ := faults.stop untripped tripped
  have many : 2 ≤ (s.units.get st).hard.toNat + (s.reportFaults st fr r p).length := by
    simpa [faults.tripped, untripped] using tripped
  have some : 0 < (s.reportFaults st fr r p).length := by
    have one := Bool.toNat_le (s.units.get st).hard
    omega
  have first : (u.units.get st).first.map FaultRecord.key ≠ none := by
    obtain ⟨k, ks, faulted⟩ := List.exists_cons_of_length_pos some
    rw [faults.first, faulted]
    cases (s.units.get st).first <;> simp
  rw [inFlight] at inFlight' awaited' named'
  refine ⟨completes.congr track (State.tripEffects_elsewhere queue unaborted) lanes ?_ ?_ ?_ slots, ⟨?_, ?_, ?_, ?_, ?_, ?_, told, ?_⟩,
    inFlight', queue', awaited', named'⟩
  · simp [calcs]
  · simp [calcs]
  · simp [calcs]
  · simp [units, faults.hard, some]
  · rw [units, tripped]
  · rw [units, faults.soft, soft]
  · rw [units]
    simpa using first
  · rw [stopReq, asserted]
  · rw [stopReq, cause]
  · simp [calcs]

/-- The only hard fault of a report is recorded as the first one where none was: here FOIL_BREAK (R96, R160). -/
theorem State.reportInTime_firstBreak (unnamed : r.seq ∉ (s.seqr.get st).abortSet) (entry : s.entry r.slot st = some p) {c : Idx}
    (broken : s.brokenBy st fr c = true) (empty : (s.units.get st).first = none) (one : (s.reportFaults st fr r p).length = 1) :
    ((s.reportInTime st fr r).units.get st).first.map FaultRecord.key = some (.foilBreak, some r.seq, some c) := by
  have member : (.foilBreak, some r.seq, some c) ∈ s.reportFaults st fr r p :=
    List.mem_append_left _ (List.mem_map_of_mem (List.mem_filter.2 ⟨by cases c <;> decide, broken⟩))
  obtain ⟨k, only⟩ := List.length_eq_one_iff.1 one
  rw [only, List.mem_singleton] at member
  rw [(State.reportInTime_faults (fr := fr) unnamed entry).first, only, empty, ← member]
  rfl

end

end Sys2Proof.Machine

open Sys2Proof Sys2Proof.Machine

/-- Settles O41: a report in time is stored and releases its order (`reportStored`), takes its foil column by column (`reportFoil`), and is
judged (`reportJudged`); the unit counts the hard faults of all three (`FaultsTaken`), and hands over a trip where they are too many. -/
theorem strikeReportsCompleteOrders : Obligations.StrikeReportsCompleteOrders := by
  unfold Obligations.StrikeReportsCompleteOrders
  intro st fr s mirrored
  refine ⟨fun unknown late => ?_, ?_⟩
  · have untimely : s.reportsInTime st fr.seq = false := by
      rw [Bool.eq_false_iff, Ne, State.reportsInTime_iff]
      rintro ⟨holds, inTime⟩
      obtain absent | ⟨unawaited, unnamed, unacked⟩ := late
      · rw [absent] at holds
        cases holds
      · exact inTime.elim unawaited fun h => h.elim unnamed unacked
    have same : exec (.strikeReport st fr) s = s.done := congrArg State.done (State.strikeReport_discarded untimely unknown)
    rw [same]
    exact State.done_of mirrored (fun _ => rfl) fun _ => rfl
  · intro r p record entry holds unnamed unqueued expected
    have named : r.seq = fr.seq := findRecord_seq record
    have inTime : s.reportsInTime st fr.seq = true := by
      refine (s.reportsInTime_iff st fr.seq).2 ⟨holds, ?_⟩
      obtain acked | awaited := expected
      · exact .inr (.inr (by rw [record, Option.map_some, acked]))
      · exact .inl awaited
    have meaning : exec (.strikeReport st fr) s = (s.reportInTime st fr r).done :=
      congrArg State.done (State.strikeReport_inTime inTime record)
    have length := s.reportFaults_length st fr r p
    rw [meaning]
    rw [← named] at unnamed unqueued ⊢
    dsimp only
    refine ⟨fun untripped hards unaborted idle empty stands => ?_, fun steady => ?_⟩
    · have many : 2 ≤ (s.units.get st).hard.toNat + (s.reportFaults st fr r p).length := by
        rw [length]
        obtain two | ⟨hard, one⟩ := hards
        · exact Nat.le_add_left_of_le two
        · rw [hard]
          exact Nat.add_le_add_left one 1
      obtain ⟨tripped, done⟩ := State.reportInTime_trips mirrored unnamed entry untripped many
      exact ⟨_, done, State.reportInTime_tripTaken unnamed entry tripped untripped
        (congrArg FaultUnit.soft (Four.get_set_same _ _ _))
        (State.reportStored_abortable fr unqueued unaborted idle empty stands)⟩
    · obtain ⟨kept, done⟩ := State.reportInTime_done (fr := fr) (p := p) mirrored unnamed entry (by rw [length]; exact steady)
      have faults := State.reportInTime_faults (fr := fr) unnamed entry
      obtain ⟨seqr, links⟩ := State.reportInTime_sequencer (fr := fr) unnamed
      refine ⟨_, done, State.reportInTime_completes unnamed entry, fun unawaited => ?_, fun awaited => ?_,
        State.reportInTime_phased mirrored unnamed entry, ?_, faults.soft, kept st, fun c broken empty one => ?_, ?_,
        State.reportInTime_shape unnamed entry⟩
      · rw [seqr, links]
        exact State.reportStored_unawaited fr unawaited
      · exact (State.reportStored_awaited fr awaited unqueued).congr rfl rfl (by rw [seqr]) (by rw [links])
      · rw [faults.hard, length]
        rfl
      · exact State.reportInTime_firstBreak unnamed entry broken empty (by rw [length]; exact one)
      · exact (State.reportInTime_judged unnamed entry).latest

end

section
/-! SUPPORT. The order book of a station: what the invariants on orders read of the state (R60, R68, R80, R91, R139, R141), what the
sequencer's operations are on it, and which of them keep it sound. -/

namespace Sys2Proof.Machine

/-! ### The book -/

/-- What the orders of a station are read off in a record: its seq, and its status and feeds there. -/
structure BookEntry where
  seq : SeqNo
  status : Status
  feeds : Four Nat

/-- The status is one of an order in flight (R60). -/
def BookEntry.Opened (x : BookEntry) : Prop := x.status = .committed ∨ x.status = .acked

/-- The order book of a station: the line state, the records of the track, and of the station's sequencer and lanes what is in flight,
awaited, queued, named in an abort and reserved, with the seqs that its hold context holds and the one that a trip withdrew. -/
structure OrderBook where
  line : LineState
  entries : List BookEntry
  flying : List SeqNo
  awaited : Awaited
  queue : Option SeqNo
  abortSet : List SeqNo
  tripped : Bool
  held : Option (List SeqNo)
  withdrawn : Option (Option SeqNo)
  reserved : Idx → Nat

namespace OrderBook

def find (b : OrderBook) (q : SeqNo) : Option BookEntry := b.entries.find? fun x => decide (x.seq = q)

/-- The feed that the order of a seq carried to a lane. -/
def feedOf (b : OrderBook) (c : Idx) (q : SeqNo) : Nat := ((b.find q).map fun x => x.feeds.get c).getD 0

/-- The order of a seq has been sent and is not acknowledged. -/
def Unacked (b : OrderBook) (q : SeqNo) : Prop := ∃ x ∈ b.entries, x.seq = q ∧ x.status = .committed

/-! ### Sound books -/

/-- At most two orders are in flight, each once, they are those of the records COMMITTED or ACKED, and the reserved foil is the sum of
their feeds (R60, R91). -/
structure Counted (b : OrderBook) : Prop where
  unique : (b.entries.map (·.seq)).Nodup
  few : b.flying.length ≤ 2
  once : b.flying.Nodup
  listed : ∀ q ∈ b.flying, ∃ x ∈ b.entries, x.seq = q
  opened : ∀ x ∈ b.entries, x.seq ∈ b.flying ↔ x.Opened
  foil : ∀ c, b.reserved c = (b.flying.map (b.feedOf c)).sum

/-- What is awaited, queued, named in an abort and held (R68, R80, R84, R138, R139, R141, R148). -/
structure Awaits (b : OrderBook) : Prop where
  order : ∀ q, b.awaited = .order q → b.Unacked q
  queued : ∀ q, b.queue = some q → b.Unacked q ∧ ∃ p, b.awaited = .order p ∧ p ≠ q
  abort : b.awaited = .abort → b.abortSet = b.flying ∧ b.line ≠ .stopped ∧ (b.line = .run → b.tripped = true)
  free : b.awaited ≠ .abort → b.abortSet = [] ∧ (b.line ≠ .run → b.flying = [])
  held : ∀ l, b.held = some l → l.length ≤ 2 ∧ l.Nodup
  withdrawn : ∀ w, b.withdrawn = some w → b.line = .run ∧
    (b.awaited = .abort → ∀ q, w = some q → b.flying.length < 2 ∧ q ∉ b.flying)

structure Sound (b : OrderBook) : Prop extends Counted b, Awaits b

/-! ### Entries -/

/-- The entry of a seq changed. -/
def change (b : OrderBook) (q : SeqNo) (f : BookEntry → BookEntry) : OrderBook :=
  { b with entries := b.entries.map fun x => if x.seq = q then f x else x }

theorem find_seq {b : OrderBook} {q : SeqNo} {x : BookEntry} (h : b.find q = some x) : x.seq = q ∧ x ∈ b.entries := by
  unfold find at h
  exact ⟨by simpa using List.find?_some h, List.mem_of_find?_eq_some h⟩

theorem find_isSome (b : OrderBook) (q : SeqNo) : (b.find q).isSome = true ↔ ∃ x ∈ b.entries, x.seq = q := by
  unfold find
  rw [List.find?_isSome]
  simp

theorem find_of_mem {b : OrderBook} (unique : (b.entries.map (·.seq)).Nodup) {x : BookEntry} (h : x ∈ b.entries) :
    b.find x.seq = some x := by
  unfold find
  generalize b.entries = l at unique h
  induction l with
  | nil => cases h
  | cons y ys ih =>
    rw [List.map_cons, List.nodup_cons] at unique
    obtain rfl | h := List.mem_cons.1 h
    · simp
    · have other : y.seq ≠ x.seq := fun e => unique.1 (e ▸ List.mem_map_of_mem h)
      rw [List.find?_cons_of_neg (by simpa using other)]
      exact ih unique.2 h

theorem find_change (b : OrderBook) (q p : SeqNo) {f : BookEntry → BookEntry} (hf : ∀ x, (f x).seq = x.seq) :
    (b.change q f).find p = (b.find p).map fun x => if p = q then f x else x := by
  unfold find change
  dsimp only
  induction b.entries with
  | nil => rfl
  | cons y ys ih =>
    have seq : (if y.seq = q then f y else y).seq = y.seq := by split <;> simp [hf]
    by_cases h : y.seq = p
    · subst h
      simp [seq]
    · rw [List.map_cons, List.find?_cons_of_neg (by simpa [seq] using h), List.find?_cons_of_neg (by simpa using h), ih]

theorem change_seqs (b : OrderBook) (q : SeqNo) {f : BookEntry → BookEntry} (hf : ∀ x, (f x).seq = x.seq) :
    (b.change q f).entries.map (·.seq) = b.entries.map (·.seq) := by
  simp only [change, List.map_map]
  refine List.map_congr_left fun x _ => ?_
  by_cases h : x.seq = q <;> simp [h, hf]

theorem mem_change {b : OrderBook} {q : SeqNo} {f : BookEntry → BookEntry} {x : BookEntry} :
    x ∈ (b.change q f).entries ↔ (∃ y ∈ b.entries, y.seq = q ∧ x = f y) ∨ (x ∈ b.entries ∧ x.seq ≠ q) := by
  simp only [change, List.mem_map]
  constructor
  · rintro ⟨y, hy, rfl⟩
    by_cases h : y.seq = q
    · exact .inl ⟨y, hy, h, if_pos h⟩
    · rw [if_neg h]
      exact .inr ⟨hy, h⟩
  · rintro (⟨y, hy, h, rfl⟩ | ⟨hx, h⟩)
    · exact ⟨y, hy, if_pos h⟩
    · exact ⟨x, hx, if_neg h⟩

theorem listed_change {b : OrderBook} {q p : SeqNo} {f : BookEntry → BookEntry} (hf : ∀ x, (f x).seq = x.seq)
    (h : ∃ x ∈ b.entries, x.seq = p) : ∃ x ∈ (b.change q f).entries, x.seq = p := by
  rw [← find_isSome, find_change b q p hf, Option.isSome_map, find_isSome]
  exact h

/-- An order sent and not acknowledged stays so where the entry of another seq changes. -/
theorem Unacked.change {b : OrderBook} {p : SeqNo} (h : b.Unacked p) {q : SeqNo} (f : BookEntry → BookEntry) (other : p ≠ q) :
    (b.change q f).Unacked p := by
  obtain ⟨x, hx, rfl, status⟩ := h
  exact ⟨x, mem_change.2 (.inr ⟨hx, other⟩), rfl, status⟩

theorem Counted.flying_of_unacked {b : OrderBook} (h : b.Counted) {q : SeqNo} (u : b.Unacked q) : q ∈ b.flying := by
  obtain ⟨x, hx, rfl, status⟩ := u
  exact (h.opened x hx).2 (.inl status)

/-! ### What changes the count -/

/-- A status taken at the entry of a seq. -/
def setStatus (b : OrderBook) (q : SeqNo) (x : Status) : OrderBook := b.change q fun e => { e with status := x }

/-- The order of a seq leaves the in-flight list (R60). -/
def leave (b : OrderBook) (q : SeqNo) : OrderBook := { b with flying := b.flying.filter fun p => decide (p ≠ q) }

/-- Feeds leave the reserved foil (R91). -/
def release (b : OrderBook) (feeds : Four Nat) : OrderBook := { b with reserved := fun c => b.reserved c - feeds.get c }

/-- Feeds join the reserved foil (R91). -/
def reserve (b : OrderBook) (feeds : Four Nat) : OrderBook := { b with reserved := fun c => b.reserved c + feeds.get c }

/-- The order of a seq is closed with a status: it is in flight no more and its feeds are released (R60, R91, R94). -/
def close (b : OrderBook) (q : SeqNo) (x : Status) : OrderBook :=
  match b.find q with
  | some e => ((b.setStatus q x).leave q).release e.feeds
  | none => b.leave q

theorem close_of_find {b : OrderBook} {q : SeqNo} {e : BookEntry} (h : b.find q = some e) (x : Status) :
    b.close q x = ((b.setStatus q x).leave q).release e.feeds := by
  unfold close
  rw [h]

theorem feedOf_change (b : OrderBook) (q : SeqNo) {f : BookEntry → BookEntry} (hf : ∀ x, (f x).seq = x.seq)
    (feeds : ∀ x, (f x).feeds = x.feeds) (c : Idx) (p : SeqNo) : (b.change q f).feedOf c p = b.feedOf c p := by
  unfold feedOf
  rw [find_change b q p hf, Option.map_map]
  congr 2
  funext x
  by_cases h : p = q <;> simp [h, feeds]

/-- What stays in a sum when one of its terms leaves. -/
theorem sum_filter_ne {l : List SeqNo} (once : l.Nodup) {q : SeqNo} (h : q ∈ l) (f : SeqNo → Nat) :
    ((l.filter fun p => decide (p ≠ q)).map f).sum = (l.map f).sum - f q := by
  have left : (l.filter fun p => decide (p ≠ q)) = l.erase q := by
    rw [once.erase_eq_filter q]
    exact List.filter_congr fun p _ => by by_cases e : p = q <;> simp [e]
  have := List.sum_map_erase f h
  rw [left]
  omega

theorem Counted.close {b : OrderBook} (h : b.Counted) {q : SeqNo} (flies : q ∈ b.flying) {x : Status}
    (ended : ¬ (x = .committed ∨ x = .acked)) : (b.close q x).Counted := by
  obtain ⟨e, he⟩ := Option.isSome_iff_exists.1 ((find_isSome b q).2 (h.listed q flies))
  rw [close_of_find he]
  have seq : ∀ y : BookEntry, ({ y with status := x } : BookEntry).seq = y.seq := fun _ => rfl
  refine ⟨?_, ?_, h.once.filter _, ?_, ?_, ?_⟩
  · exact (change_seqs b q seq).symm ▸ h.unique
  · exact (List.length_filter_le _ _).trans h.few
  · exact fun p hp => listed_change seq (h.listed p (List.mem_filter.1 hp).1)
  · intro y hy
    show y.seq ∈ b.flying.filter _ ↔ _
    rw [List.mem_filter]
    obtain ⟨z, hz, rfl, rfl⟩ | ⟨hy, other⟩ := mem_change.1 hy
    · simp [BookEntry.Opened, ended]
    · simp [other, h.opened y hy]
  · intro c
    show b.reserved c - e.feeds.get c = ((b.flying.filter fun p => decide (p ≠ q)).map ((b.setStatus q x).feedOf c)).sum
    have same : (b.setStatus q x).feedOf c = b.feedOf c := funext fun p => feedOf_change b q seq (fun _ => rfl) c p
    rw [same, sum_filter_ne h.once flies, h.foil c]
    congr 1
    simp [feedOf, he]

/-- A status that changes within those of an order in flight, or outside of them, changes no count. -/
theorem Counted.setStatus {b : OrderBook} (h : b.Counted) {q : SeqNo} {x : Status}
    (same : (x = .committed ∨ x = .acked) ↔ q ∈ b.flying) : (b.setStatus q x).Counted := by
  have seq : ∀ y : BookEntry, ({ y with status := x } : BookEntry).seq = y.seq := fun _ => rfl
  refine ⟨(change_seqs b q seq).symm ▸ h.unique, h.few, h.once, fun p hp => listed_change seq (h.listed p hp), ?_, fun c => ?_⟩
  · intro y hy
    show y.seq ∈ b.flying ↔ _
    obtain ⟨z, hz, rfl, rfl⟩ | ⟨hy, other⟩ := mem_change.1 hy
    · exact same.symm
    · exact h.opened y hy
  · show b.reserved c = (b.flying.map ((b.setStatus q x).feedOf c)).sum
    have same : (b.setStatus q x).feedOf c = b.feedOf c := funext fun p => feedOf_change b q seq (fun _ => rfl) c p
    rw [same, h.foil c]

/-- An order joins those in flight with its feeds reserved (R67, R91). -/
def join (b : OrderBook) (q : SeqNo) (feeds : Four Nat) : OrderBook :=
  { (b.change q fun e => { e with status := .committed, feeds := feeds }).reserve feeds with flying := b.flying ++ [q] }

theorem Counted.join {b : OrderBook} (h : b.Counted) {q : SeqNo} (listed : ∃ x ∈ b.entries, x.seq = q) (idle : q ∉ b.flying)
    (room : b.flying.length < 2) (feeds : Four Nat) : (b.join q feeds).Counted := by
  have seq : ∀ y : BookEntry, ({ y with status := .committed, feeds := feeds } : BookEntry).seq = y.seq := fun _ => rfl
  have found : ∀ c p, (b.join q feeds).feedOf c p = if p = q then feeds.get c else b.feedOf c p := by
    intro c p
    show OrderBook.feedOf (b.change q _) c p = _
    unfold feedOf
    rw [find_change b q p seq, Option.map_map]
    by_cases hp : p = q
    · obtain ⟨e, he⟩ := Option.isSome_iff_exists.1 ((find_isSome b q).2 listed)
      simp [hp, he]
    · simp [hp, Function.comp_def]
  refine ⟨(change_seqs b q seq).symm ▸ h.unique, ?_, ?_, ?_, ?_, fun c => ?_⟩
  · simp only [OrderBook.join, List.length_append, List.length_singleton]
    omega
  · exact List.nodup_append.2 ⟨h.once, List.nodup_singleton q, by rintro p hp y hy rfl; exact idle (List.mem_singleton.1 hy ▸ hp)⟩
  · intro p hp
    obtain hp | hp := List.mem_append.1 hp
    · exact listed_change seq (h.listed p hp)
    · exact listed_change seq (List.mem_singleton.1 hp ▸ listed)
  · intro y hy
    show y.seq ∈ b.flying ++ [q] ↔ _
    rw [List.mem_append, List.mem_singleton]
    obtain ⟨z, hz, rfl, rfl⟩ | ⟨hy, other⟩ := mem_change.1 hy
    · simp [BookEntry.Opened]
    · simp [other, h.opened y hy]
  · show b.reserved c + feeds.get c = ((b.flying ++ [q]).map ((b.join q feeds).feedOf c)).sum
    rw [List.map_append, List.sum_append, h.foil c]
    congr 1
    · refine congrArg List.sum (List.map_congr_left fun p hp => ?_)
      rw [found, if_neg (by rintro rfl; exact idle hp)]
    · simp [found]

end OrderBook

end Sys2Proof.Machine
end

section
/-! SUPPORT. The events of a sequencer on its order book, each of which leaves a sound book sound (R60, R68, R72, R76, R79 to R84). -/

namespace Sys2Proof.Machine.OrderBook

/-! ### What is awaited and queued (R68) -/

/-- Nothing is awaited any more. -/
def unawait (b : OrderBook) : OrderBook := { b with awaited := .none }

def unqueue (b : OrderBook) : OrderBook := { b with queue := none }

/-- The order of a seq goes out and is awaited, where its record stands in the track (R68). -/
def transmit (b : OrderBook) (q : SeqNo) : OrderBook :=
  match b.find q with
  | some _ => { b with awaited := .order q, queue := none }
  | none => b

/-- The queued order goes out once nothing is awaited (R68). -/
def releaseQueue (b : OrderBook) : OrderBook :=
  match b.awaited, b.queue with
  | .none, some q => b.transmit q
  | _, _ => b

/-- An issued order goes out, or waits behind what is awaited (R68). -/
def issue (b : OrderBook) (q : SeqNo) : OrderBook :=
  if b.awaited = .none then b.transmit q else { b with queue := some q }

def leaveAbort (b : OrderBook) (q : SeqNo) : OrderBook := { b with abortSet := b.abortSet.filter fun p => decide (p ≠ q) }

/-- An abort without orders left is complete (R81). -/
def completeAbort (b : OrderBook) : OrderBook :=
  if b.awaited = .abort ∧ b.abortSet = [] then b.unawait.releaseQueue else b

/-- The feeds leave a book that a close leaves; of the rest a close changes the entries and what is in flight alone. -/
theorem close_rest (b : OrderBook) (q : SeqNo) (x : Status) :
    (b.close q x).line = b.line ∧ (b.close q x).flying = b.flying.filter (fun p => decide (p ≠ q)) ∧
    (b.close q x).awaited = b.awaited ∧ (b.close q x).queue = b.queue ∧ (b.close q x).abortSet = b.abortSet ∧
    (b.close q x).tripped = b.tripped ∧ (b.close q x).held = b.held ∧ (b.close q x).withdrawn = b.withdrawn := by
  unfold close
  split <;> simp [setStatus, change, leave, release]

theorem Unacked.close {b : OrderBook} {p : SeqNo} (h : b.Unacked p) {q : SeqNo} (x : Status) (other : p ≠ q) :
    (b.close q x).Unacked p := by
  have kept : (b.setStatus q x).Unacked p := Unacked.change h _ other
  unfold OrderBook.close
  split
  · exact kept
  · exact h

/-! ### Nothing awaited, and the queued order still to go out -/

/-- A book on which nothing is awaited and the queued order has not gone out yet. -/
structure Loose (b : OrderBook) : Prop extends Counted b where
  idle : b.awaited = .none
  queued : ∀ q, b.queue = some q → b.Unacked q
  unaborted : b.abortSet = []
  stands : b.line ≠ .run → b.flying = []
  held : ∀ l, b.held = some l → l.length ≤ 2 ∧ l.Nodup
  withdrawn : ∀ w, b.withdrawn = some w → b.line = .run

theorem Sound.unawait {b : OrderBook} (h : b.Sound) (unaborted : b.awaited ≠ .abort) : b.unawait.Loose :=
  { h.toCounted with
    idle := rfl
    queued := fun q hq => (h.queued q hq).1
    unaborted := (h.free unaborted).1
    stands := (h.free unaborted).2
    held := h.held
    withdrawn := fun w hw => (h.withdrawn w hw).1 }

theorem Loose.close {b : OrderBook} (h : b.Loose) {q : SeqNo} (flies : q ∈ b.flying) (unqueued : b.queue ≠ some q) {x : Status}
    (ended : ¬ (x = .committed ∨ x = .acked)) : (b.close q x).Loose := by
  obtain ⟨line, flying, awaited, queue, abortSet, tripped, held, withdrawn⟩ := b.close_rest q x
  refine { h.toCounted.close flies ended with idle := ?_, queued := ?_, unaborted := ?_, stands := ?_, held := ?_, withdrawn := ?_ }
  · rw [awaited, h.idle]
  · rw [queue]
    exact fun p hp => (h.queued p hp).close x (by rintro rfl; exact unqueued hp)
  · rw [abortSet, h.unaborted]
  · rw [line, flying]
    exact fun off => by rw [h.stands off]; rfl
  · rw [held]
    exact h.held
  · rw [withdrawn, line]
    exact h.withdrawn

theorem Loose.acked {b : OrderBook} (h : b.Loose) {q : SeqNo} (flies : q ∈ b.flying) (unqueued : b.queue ≠ some q) :
    (b.setStatus q .acked).Loose :=
  { h.toCounted.setStatus (iff_of_true (.inr rfl) flies) with
    idle := h.idle
    queued := fun p hp => (h.queued p hp).change _ (by rintro rfl; exact unqueued hp)
    unaborted := h.unaborted
    stands := h.stands
    held := h.held
    withdrawn := h.withdrawn }

/-- A loose book without a queued order is sound. -/
theorem Loose.sound {b : OrderBook} (h : b.Loose) (empty : b.queue = none) : b.Sound :=
  { h.toCounted with
    order := fun q hq => by rw [h.idle] at hq; cases hq
    queued := fun q hq => by rw [empty] at hq; cases hq
    abort := fun ha => by rw [h.idle] at ha; cases ha
    free := fun _ => ⟨h.unaborted, h.stands⟩
    held := h.held
    withdrawn := fun w hw => ⟨h.withdrawn w hw, fun ha => by rw [h.idle] at ha; cases ha⟩ }

/-- The queued order goes out, and the book is sound (R68). -/
theorem Loose.releaseQueue {b : OrderBook} (h : b.Loose) : b.releaseQueue.Sound := by
  unfold OrderBook.releaseQueue
  rw [h.idle]
  cases queue : b.queue with
  | none => exact h.sound queue
  | some q =>
    have unacked := h.queued q queue
    obtain ⟨e, he⟩ := Option.isSome_iff_exists.1 ((find_isSome b q).2 (by obtain ⟨x, hx, seq, -⟩ := unacked; exact ⟨x, hx, seq⟩))
    dsimp only [transmit]
    rw [he]
    exact
      { h.toCounted with
        order := fun p hp => by cases hp; exact unacked
        queued := fun p hp => by cases hp
        abort := fun ha => by cases ha
        free := fun _ => ⟨h.unaborted, h.stands⟩
        held := h.held
        withdrawn := fun w hw => ⟨h.withdrawn w hw, fun ha => by cases ha⟩ }

/-! ### An order that is closed -/

/-- An order that is neither awaited nor queued, with no abort outstanding, is closed. -/
theorem Sound.close {b : OrderBook} (h : b.Sound) {q : SeqNo} (flies : q ∈ b.flying) (unaborted : b.awaited ≠ .abort)
    (unawaited : b.awaited ≠ .order q) (unqueued : b.queue ≠ some q) {x : Status} (ended : ¬ (x = .committed ∨ x = .acked)) :
    (b.close q x).Sound := by
  obtain ⟨line, flying, awaited, queue, abortSet, tripped, held, withdrawn⟩ := b.close_rest q x
  refine { h.toCounted.close flies ended with order := ?_, queued := ?_, abort := ?_, free := ?_, held := ?_, withdrawn := ?_ }
  · rw [awaited]
    exact fun p hp => (h.order p hp).close x (by rintro rfl; exact unawaited hp)
  · rw [queue, awaited]
    exact fun p hp => ⟨(h.queued p hp).1.close x (by rintro rfl; exact unqueued hp), (h.queued p hp).2⟩
  · rw [awaited]
    exact fun ha => absurd ha unaborted
  · rw [awaited, abortSet, line, flying]
    exact fun ha => ⟨(h.free ha).1, fun off => by rw [(h.free ha).2 off]; rfl⟩
  · rw [held]
    exact h.held
  · rw [withdrawn, line, awaited]
    exact fun w hw => ⟨(h.withdrawn w hw).1, fun ha => absurd ha unaborted⟩

/-- Nothing is queued while an abort is outstanding (R68, R80). -/
theorem Awaits.queue_of_abort {b : OrderBook} (h : b.Awaits) (aborted : b.awaited = .abort) : b.queue = none := by
  cases queue : b.queue with
  | none => rfl
  | some q =>
    obtain ⟨-, p, order, -⟩ := h.queued q queue
    rw [aborted] at order
    cases order

/-- The last order of an abort has been settled: nothing is in flight, awaited or queued. -/
theorem Loose.of_empty {b : OrderBook} (counted : b.Counted) (flying : b.flying = []) (queue : b.queue = none)
    (abortSet : b.abortSet = []) (held : ∀ l, b.held = some l → l.length ≤ 2 ∧ l.Nodup)
    (withdrawn : ∀ w, b.withdrawn = some w → b.line = .run) : b.unawait.Loose :=
  { counted with
    idle := rfl
    queued := fun q hq => by rw [show b.unawait.queue = none from queue] at hq; cases hq
    unaborted := abortSet
    stands := fun _ => flying
    held := held
    withdrawn := withdrawn }

/-- An order of the abort set is settled, and an abort without orders left is complete (R81, R83). -/
theorem Sound.settleAbort {b : OrderBook} (h : b.Sound) {q : SeqNo} (named : q ∈ b.abortSet) {x : Status}
    (ended : ¬ (x = .committed ∨ x = .acked)) : (((b.close q x).leaveAbort q).completeAbort).Sound := by
  have aborted : b.awaited = .abort := by
    by_contra other
    rw [(h.free other).1] at named
    cases named
  obtain ⟨set, stands, trip⟩ := h.abort aborted
  have flies : q ∈ b.flying := set ▸ named
  obtain ⟨line, flying, awaited, queue, abortSet, tripped, held, withdrawn⟩ := b.close_rest q x
  have counted : ((b.close q x).leaveAbort q).Counted :=
    { h.toCounted.close flies ended with }
  have left : ((b.close q x).leaveAbort q).abortSet = ((b.close q x).leaveAbort q).flying := by
    show (b.close q x).abortSet.filter _ = (b.close q x).flying
    rw [abortSet, flying, set]
  unfold OrderBook.completeAbort
  split
  · rename_i complete
    refine (Loose.of_empty counted (left ▸ complete.2) ?_ complete.2 ?_ ?_).releaseQueue
    · exact queue.trans (h.toAwaits.queue_of_abort aborted)
    · exact fun l hl => h.held l (held ▸ hl)
    · exact fun w hw => line.trans (h.withdrawn w (withdrawn ▸ hw)).1
  · have outstanding : ((b.close q x).leaveAbort q).awaited = .abort := awaited.trans aborted
    refine { counted with order := ?_, queued := ?_, abort := ?_, free := ?_, held := ?_, withdrawn := ?_ }
    · rw [outstanding]
      exact fun p hp => by cases hp
    · rw [show ((b.close q x).leaveAbort q).queue = none from queue.trans (h.toAwaits.queue_of_abort aborted)]
      exact fun p hp => by cases hp
    · exact fun _ => ⟨left, fun off => stands (line ▸ off), fun run => tripped.trans (trip (line ▸ run))⟩
    · exact fun ha => absurd outstanding ha
    · exact fun l hl => h.held l (held ▸ hl)
    · intro w hw
      obtain ⟨run, before⟩ := h.withdrawn w (withdrawn ▸ hw)
      refine ⟨line.trans run, fun _ p hp => ?_⟩
      obtain ⟨few, absent⟩ := before aborted p hp
      show (b.close q x).flying.length < 2 ∧ p ∉ (b.close q x).flying
      rw [flying]
      exact ⟨lt_of_le_of_lt (List.length_filter_le _ _) few, fun hm => absent (List.mem_filter.1 hm).1⟩

/-! ### Several orders closed -/

/-- The orders of some seqs closed one after the other. -/
def closeAll (b : OrderBook) (l : List SeqNo) (x : Status) : OrderBook := l.foldl (fun b q => b.close q x) b

theorem Counted.closeAll {b : OrderBook} (h : b.Counted) {l : List SeqNo} (once : l.Nodup) (flies : ∀ q ∈ l, q ∈ b.flying) {x : Status}
    (ended : ¬ (x = .committed ∨ x = .acked)) : (b.closeAll l x).Counted := by
  induction l generalizing b with
  | nil => exact h
  | cons q qs ih =>
    obtain ⟨fresh, once⟩ := List.nodup_cons.1 once
    refine ih (h.close (flies q (.head _)) ended) once fun p hp => ?_
    rw [(b.close_rest q x).2.1, List.mem_filter]
    exact ⟨flies p (.tail _ hp), decide_eq_true (by rintro rfl; exact fresh hp)⟩

theorem closeAll_rest (b : OrderBook) (l : List SeqNo) (x : Status) :
    (b.closeAll l x).line = b.line ∧ (b.closeAll l x).flying = b.flying.filter (fun p => decide (p ∉ l)) ∧
    (b.closeAll l x).awaited = b.awaited ∧ (b.closeAll l x).queue = b.queue ∧ (b.closeAll l x).abortSet = b.abortSet ∧
    (b.closeAll l x).tripped = b.tripped ∧ (b.closeAll l x).held = b.held ∧ (b.closeAll l x).withdrawn = b.withdrawn := by
  induction l generalizing b with
  | nil => simp [closeAll]
  | cons q qs ih =>
    obtain ⟨line, flying, awaited, queue, abortSet, tripped, held, withdrawn⟩ := b.close_rest q x
    obtain ⟨line', flying', awaited', queue', abortSet', tripped', held', withdrawn'⟩ := ih (b.close q x)
    refine ⟨line'.trans line, ?_, awaited'.trans awaited, queue'.trans queue, abortSet'.trans abortSet, tripped'.trans tripped,
      held'.trans held, withdrawn'.trans withdrawn⟩
    refine flying'.trans ?_
    rw [flying, List.filter_filter]
    exact List.filter_congr fun p _ => by simp [Bool.and_comm]

/-! ### Commits and restrikes (R67, R147) -/

/-- An order joins those in flight and goes out, or waits behind the one that is awaited (R67, R68). -/
theorem Sound.launch {b : OrderBook} (h : b.Sound) (run : b.line = .run) (unaborted : b.awaited ≠ .abort) {q : SeqNo}
    (listed : ∃ x ∈ b.entries, x.seq = q) (idle : q ∉ b.flying) (room : b.flying.length < 2) (feeds : Four Nat) :
    ((b.join q feeds).issue q).Sound := by
  have counted := h.toCounted.join listed idle room feeds
  have seq : ∀ y : BookEntry, ({ y with status := .committed, feeds := feeds } : BookEntry).seq = y.seq := fun _ => rfl
  have fresh : (b.join q feeds).Unacked q := by
    obtain ⟨x, hx, hq⟩ := listed
    exact ⟨_, mem_change.2 (.inl ⟨x, hx, hq, rfl⟩), hq, rfl⟩
  have stays : ∀ p, b.Unacked p → (b.join q feeds).Unacked p := fun p hp =>
    Unacked.change hp _ (by rintro rfl; exact idle (h.toCounted.flying_of_unacked hp))
  have set := (h.free unaborted).1
  have away : b.line ≠ .run → (b.join q feeds).flying = [] := fun off => absurd run off
  have before : ∀ w, b.withdrawn = some w → b.line = .run := fun w hw => (h.withdrawn w hw).1
  unfold OrderBook.issue
  split
  · rename_i none
    obtain ⟨e, he⟩ := Option.isSome_iff_exists.1 ((find_isSome (b.join q feeds) q).2 (by obtain ⟨x, hx, hq, -⟩ := fresh; exact ⟨x, hx, hq⟩))
    unfold transmit
    rw [he]
    exact
      { counted with
        order := fun p hp => by cases hp; exact fresh
        queued := fun p hp => by cases hp
        abort := fun ha => by cases ha
        free := fun _ => ⟨set, away⟩
        held := h.held
        withdrawn := fun w hw => ⟨before w hw, fun ha => by cases ha⟩ }
  · rename_i some
    have waits : ∃ p, b.awaited = .order p := by
      cases awaited : b.awaited with
      | none => exact absurd awaited some
      | order p => exact ⟨p, rfl⟩
      | abort => exact absurd awaited unaborted
    obtain ⟨p, order⟩ := waits
    exact
      { counted with
        order := fun p hp => stays p (h.order p hp)
        queued := fun x hx => by
          cases hx
          exact ⟨fresh, p, order, by rintro rfl; exact idle (h.toCounted.flying_of_unacked (h.order p order))⟩
        abort := fun ha => absurd ha unaborted
        free := fun _ => ⟨set, away⟩
        held := h.held
        withdrawn := fun w hw => ⟨before w hw, fun ha => absurd ha unaborted⟩ }

/-! ### Aborts requested (R80, R84, R138) -/

/-- The queued order is withdrawn and closed (R80). -/
def withdraw (b : OrderBook) : OrderBook :=
  match b.queue with
  | some q => b.unqueue.close q .missed
  | none => b

/-- The orders left in flight are named in an abort (R80). -/
def sendAbort (b : OrderBook) : OrderBook :=
  if b.flying = [] then b else { b with awaited := .abort, abortSet := b.flying }

def requestAbort (b : OrderBook) : OrderBook := if b.flying = [] ∨ b.awaited = .abort then b else b.withdraw.sendAbort

/-- A book whose orders are to be aborted: in HOLD, or at a TRIPPED station. What a trip found is the order about to be withdrawn, where
no abort is outstanding (R141). -/
structure Abortable (b : OrderBook) : Prop extends Counted b where
  order : ∀ q, b.awaited = .order q → b.Unacked q
  queued : ∀ q, b.queue = some q → b.Unacked q ∧ ∃ p, b.awaited = .order p ∧ p ≠ q
  abort : b.awaited = .abort → b.abortSet = b.flying
  free : b.awaited ≠ .abort → b.abortSet = []
  stands : b.flying ≠ [] → b.line ≠ .stopped ∧ (b.line = .run → b.tripped = true)
  outstanding : b.awaited = .abort → b.line ≠ .stopped ∧ (b.line = .run → b.tripped = true)
  held : ∀ l, b.held = some l → l.length ≤ 2 ∧ l.Nodup
  withdrawn : ∀ w, b.withdrawn = some w → b.line = .run ∧ ∀ q, w = some q →
    (b.awaited = .abort → b.flying.length < 2 ∧ q ∉ b.flying) ∧ (b.flying ≠ [] → b.awaited ≠ .abort → b.queue = some q)

/-- What is in flight once the queued order has been withdrawn. -/
theorem Abortable.withdraw {b : OrderBook} (h : b.Abortable) (some : b.flying ≠ []) :
    b.withdraw.Counted ∧ b.withdraw.flying ≠ [] ∧ b.withdraw.queue = none ∧ b.withdraw.line = b.line ∧
    b.withdraw.tripped = b.tripped ∧ b.withdraw.held = b.held ∧ b.withdraw.withdrawn = b.withdrawn ∧
    ∀ q, b.queue = Option.some q → b.withdraw.flying.length < 2 ∧ q ∉ b.withdraw.flying := by
  unfold OrderBook.withdraw
  cases queue : b.queue with
  | none => exact ⟨h.toCounted, some, queue, rfl, rfl, rfl, rfl, fun q hq => by cases hq⟩
  | some q =>
    obtain ⟨unacked, p, order, other⟩ := h.queued q queue
    have flies := h.toCounted.flying_of_unacked unacked
    have first := h.toCounted.flying_of_unacked (h.order p order)
    obtain ⟨line, flying, -, queue', -, tripped, held, withdrawn⟩ := b.unqueue.close_rest q .missed
    have counted : b.unqueue.Counted := { h.toCounted with }
    have stays : p ∈ (b.unqueue.close q .missed).flying := by
      rw [flying]
      exact List.mem_filter.2 ⟨first, by simpa using other⟩
    refine ⟨counted.close flies (by simp), List.ne_nil_of_mem stays, queue', line, tripped, held, withdrawn, fun x hx => ?_⟩
    cases hx
    have gone : q ∉ (b.unqueue.close q .missed).flying := by
      rw [flying]
      exact fun hm => by simpa using (List.mem_filter.1 hm).2
    refine ⟨?_, gone⟩
    have fewer : (b.unqueue.close q .missed).flying.length < b.flying.length := by
      rw [flying]
      exact List.length_filter_lt_length_iff_exists.2 ⟨q, flies, by simp⟩
    exact lt_of_lt_of_le fewer h.few

theorem Abortable.requestAbort {b : OrderBook} (h : b.Abortable) : b.requestAbort.Sound := by
  unfold OrderBook.requestAbort
  split
  · rename_i nothing
    exact
      { h.toCounted with
        order := h.order
        queued := h.queued
        abort := fun ha => ⟨h.abort ha, h.outstanding ha⟩
        free := fun ha => ⟨h.free ha, fun _ => nothing.resolve_right ha⟩
        held := h.held
        withdrawn := fun w hw => ⟨(h.withdrawn w hw).1, fun ha q hq => ((h.withdrawn w hw).2 q hq).1 ha⟩ }
  · rename_i something
    rw [not_or] at something
    obtain ⟨some, unaborted⟩ := something
    obtain ⟨counted, left, queue, line, tripped, held, withdrawn, gone⟩ := h.withdraw some
    unfold OrderBook.sendAbort
    rw [if_neg left]
    refine { counted with order := ?_, queued := ?_, abort := ?_, free := ?_, held := ?_, withdrawn := ?_ }
    · exact fun p hp => by cases hp
    · exact fun p hp => by rw [show b.withdraw.queue = none from queue] at hp; cases hp
    · exact fun _ => ⟨rfl, line ▸ (h.stands some).1, fun run => tripped.trans ((h.stands some).2 (line ▸ run))⟩
    · exact fun ha => absurd rfl ha
    · exact fun l hl => h.held l (held ▸ hl)
    · intro w hw
      obtain ⟨run, before⟩ := h.withdrawn w (withdrawn ▸ hw)
      exact ⟨line.trans run, fun _ q hq => gone q ((before q hq).2 some unaborted)⟩

/-- A trip marks the station, keeps the order that its abort withdraws for a hold entry (R141), and requests the abort (R84). -/
theorem Sound.trip {b : OrderBook} (h : b.Sound) {w : Option (Option SeqNo)}
    (found : ∀ x, w = some x → b.line = .run ∧ ∀ q, x = some q → b.flying ≠ [] ∧ b.awaited ≠ .abort ∧ b.queue = some q) :
    ({ b with tripped := true, withdrawn := w } : OrderBook).requestAbort.Sound := by
  refine Abortable.requestAbort
    { unique := h.unique, few := h.few, once := h.once, listed := h.listed, opened := h.opened, foil := h.foil, order := ?_,
      queued := ?_, abort := ?_, free := ?_, stands := ?_, outstanding := ?_, held := ?_, withdrawn := ?_ }
  · exact h.order
  · exact h.queued
  · exact fun ha => (h.abort ha).1
  · exact fun ha => (h.free ha).1
  · refine fun some => ⟨fun stopped => ?_, fun _ => rfl⟩
    by_cases ha : b.awaited = .abort
    · exact (h.abort ha).2.1 stopped
    · exact some ((h.free ha).2 (by rw [show b.line = .stopped from stopped]; decide))
  · exact fun ha => ⟨(h.abort ha).2.1, fun _ => rfl⟩
  · exact h.held
  · intro x hx
    obtain ⟨run, before⟩ := found x hx
    exact ⟨run, fun q hq => ⟨fun ha => absurd ha (before q hq).2.1, fun _ _ => (before q hq).2.2⟩⟩

/-- Entry into HOLD saves a context and requests the abort (R138). -/
theorem Sound.hold {b : OrderBook} (h : b.Sound) {l : List SeqNo} (few : l.length ≤ 2) (once : l.Nodup) :
    ({ b with line := .hold, held := some l, withdrawn := none } : OrderBook).requestAbort.Sound := by
  refine Abortable.requestAbort
    { unique := h.unique, few := h.few, once := h.once, listed := h.listed, opened := h.opened, foil := h.foil, order := ?_,
      queued := ?_, abort := ?_, free := ?_, stands := ?_, outstanding := ?_, held := ?_, withdrawn := ?_ }
  · exact h.order
  · exact h.queued
  · exact fun ha => (h.abort ha).1
  · exact fun ha => (h.free ha).1
  · exact fun _ => ⟨(by cases ·), (by cases ·)⟩
  · exact fun _ => ⟨(by cases ·), (by cases ·)⟩
  · exact fun x hx => by cases hx; exact ⟨few, once⟩
  · exact fun w hw => by cases hw

/-! ### Records that leave and join (R25, R31) -/

/-- The order of a record that leaves the track, its status being settled: it is in flight no more and its feeds are released, and it is
withdrawn from the link queue, or is awaited no more, or leaves an outstanding abort (R31, R76). -/
def depart (b : OrderBook) (q : SeqNo) (feeds : Four Nat) : OrderBook :=
  let closed := (b.leave q).release feeds
  let moved := if closed.queue = some q then closed.unqueue
    else if closed.awaited = .order q then closed.unawait.releaseQueue else closed
  if q ∈ moved.abortSet then (moved.leaveAbort q).completeAbort else moved

theorem releaseQueue_rest (b : OrderBook) : b.releaseQueue.line = b.line ∧ b.releaseQueue.entries = b.entries ∧
    b.releaseQueue.flying = b.flying ∧ b.releaseQueue.abortSet = b.abortSet ∧ b.releaseQueue.tripped = b.tripped ∧
    b.releaseQueue.held = b.held ∧ b.releaseQueue.withdrawn = b.withdrawn ∧ b.releaseQueue.reserved = b.reserved := by
  unfold releaseQueue transmit
  repeat' split
  all_goals simp

theorem Sound.depart {b : OrderBook} (h : b.Sound) {q : SeqNo} (flies : q ∈ b.flying) {e : BookEntry} (found : b.find q = some e)
    {x : Status} (ended : ¬ (x = .committed ∨ x = .acked)) :
    ((b.setStatus q x).depart q e.feeds).Sound ∧ q ∉ ((b.setStatus q x).depart q e.feeds).flying := by
  have gone : q ∉ (b.close q x).flying := by
    rw [(b.close_rest q x).2.1]
    exact fun hm => by simpa using (List.mem_filter.1 hm).2
  obtain ⟨-, -, awaited, queue, abortSet, -⟩ := b.close_rest q x
  unfold OrderBook.depart
  rw [← close_of_find found]
  dsimp only
  by_cases aborted : b.awaited = .abort
  · have named : q ∈ b.abortSet := (h.abort aborted).1 ▸ flies
    have unqueued : (b.close q x).queue ≠ some q := by rw [queue, h.toAwaits.queue_of_abort aborted]; simp
    have unawaited : (b.close q x).awaited ≠ .order q := by rw [awaited, aborted]; simp
    rw [if_neg unqueued, if_neg unawaited, if_pos (abortSet ▸ named)]
    refine ⟨h.settleAbort named ended, ?_⟩
    unfold OrderBook.completeAbort
    split
    · rw [(releaseQueue_rest _).2.2.1]
      exact gone
    · exact gone
  · have unnamed : q ∉ (b.close q x).abortSet := by rw [abortSet, (h.free aborted).1]; simp
    by_cases queued : b.queue = some q
    · have unaborted : (b.close q x).unqueue.abortSet = (b.close q x).abortSet := rfl
      rw [if_pos (queue.trans queued), if_neg (unaborted ▸ unnamed)]
      obtain ⟨-, p, order, other⟩ := h.queued q queued
      have empty : b.unqueue.Sound := { h with queued := fun p hp => by cases hp }
      have commute : (b.close q x).unqueue = b.unqueue.close q x := by
        unfold OrderBook.close
        rw [show b.unqueue.find q = b.find q from rfl]
        cases b.find q <;> rfl
      refine ⟨commute ▸ empty.close flies aborted ?_ (by simp [unqueue]) ended, gone⟩
      show b.awaited ≠ .order q
      rw [order]
      simpa using other
    · have unqueued : (b.close q x).queue ≠ some q := queue ▸ queued
      rw [if_neg unqueued]
      by_cases order : b.awaited = .order q
      · have unaborted : (b.close q x).unawait.releaseQueue.abortSet = (b.close q x).abortSet := (releaseQueue_rest _).2.2.2.1
        rw [if_pos (awaited.trans order), if_neg (unaborted ▸ unnamed)]
        have commute : (b.close q x).unawait = b.unawait.close q x := by
          unfold OrderBook.close
          rw [show b.unawait.find q = b.find q from rfl]
          cases b.find q <;> rfl
        refine ⟨?_, by rw [(releaseQueue_rest _).2.2.1]; exact gone⟩
        rw [commute]
        exact ((h.unawait aborted).close flies queued ended).releaseQueue
      · have unawaited : (b.close q x).awaited ≠ .order q := awaited ▸ order
        rw [if_neg unawaited, if_neg unnamed]
        exact ⟨h.close flies aborted order queued ended, gone⟩

/-- The head of the track leaves a book that has nothing in flight for it. -/
theorem Sound.tail {b : OrderBook} (h : b.Sound) {x : BookEntry} {l : List BookEntry} (head : b.entries = x :: l)
    (grounded : x.seq ∉ b.flying) : ({ b with entries := l } : OrderBook).Sound := by
  have unique := h.unique
  rw [head, List.map_cons, List.nodup_cons] at unique
  have stays : ∀ q ∈ b.flying, ∀ y ∈ b.entries, y.seq = q → y ∈ l := by
    intro q hq y hy seq
    rw [head] at hy
    obtain rfl | hy := List.mem_cons.1 hy
    · exact absurd (seq ▸ hq) grounded
    · exact hy
  have unacked : ∀ q, b.Unacked q → ({ b with entries := l } : OrderBook).Unacked q := by
    rintro q ⟨y, hy, seq, status⟩
    exact ⟨y, stays q (h.toCounted.flying_of_unacked ⟨y, hy, seq, status⟩) y hy seq, seq, status⟩
  refine { unique := unique.2, few := h.few, once := h.once, listed := ?_, opened := ?_, foil := ?_, order := ?_,
           queued := ?_, abort := h.abort, free := h.free, held := h.held, withdrawn := h.withdrawn }
  · intro q hq
    obtain ⟨y, hy, seq⟩ := h.listed q hq
    exact ⟨y, stays q hq y hy seq, seq⟩
  · exact fun y hy => h.opened y (head ▸ List.mem_cons_of_mem _ hy)
  · intro c
    show b.reserved c = _
    rw [h.foil c]
    refine congrArg List.sum (List.map_congr_left fun q hq => ?_)
    have other : x.seq ≠ q := by rintro rfl; exact grounded hq
    simp only [feedOf, find, head]
    rw [List.find?_cons_of_neg (by simpa using other)]
  · exact fun q hq => unacked q (h.order q hq)
  · exact fun q hq => ⟨unacked q (h.queued q hq).1, (h.queued q hq).2⟩

/-- A record of a new seq joins without an order. -/
theorem Sound.append {b : OrderBook} (h : b.Sound) {x : BookEntry} (fresh : x.seq ∉ b.entries.map (·.seq)) (unsent : ¬ x.Opened) :
    ({ b with entries := b.entries ++ [x] } : OrderBook).Sound := by
  have unacked : ∀ q, b.Unacked q → ({ b with entries := b.entries ++ [x] } : OrderBook).Unacked q := by
    rintro q ⟨y, hy, rest⟩
    exact ⟨y, List.mem_append_left _ hy, rest⟩
  have known : ∀ q ∈ b.flying, q ∈ b.entries.map (·.seq) := by
    intro q hq
    obtain ⟨y, hy, rfl⟩ := h.listed q hq
    exact List.mem_map_of_mem hy
  refine { unique := ?_, few := h.few, once := h.once, listed := ?_, opened := ?_, foil := ?_, order := ?_,
           queued := ?_, abort := h.abort, free := h.free, held := h.held, withdrawn := h.withdrawn }
  · rw [List.map_append]
    exact List.nodup_append.2 ⟨h.unique, List.nodup_singleton _, by
      rintro p hp y hy rfl
      obtain rfl := List.mem_singleton.1 hy
      exact fresh hp⟩
  · intro q hq
    obtain ⟨y, hy, seq⟩ := h.listed q hq
    exact ⟨y, List.mem_append_left _ hy, seq⟩
  · intro y hy
    obtain hy | hy := List.mem_append.1 hy
    · exact h.opened y hy
    · obtain rfl := List.mem_singleton.1 hy
      exact iff_of_false (fun hf => fresh (known _ hf)) unsent
  · intro c
    show b.reserved c = _
    rw [h.foil c]
    refine congrArg List.sum (List.map_congr_left fun q hq => ?_)
    obtain ⟨e, he⟩ := Option.isSome_iff_exists.1 ((find_isSome b q).2 (h.listed q hq))
    have found : ({ b with entries := b.entries ++ [x] } : OrderBook).find q = some e := by
      simp only [find, List.find?_append]
      rw [show b.entries.find? (fun x => decide (x.seq = q)) = some e from he]
      rfl
    simp only [feedOf, found, he]
  · exact fun q hq => unacked q (h.order q hq)
  · exact fun q hq => ⟨unacked q (h.queued q hq).1, (h.queued q hq).2⟩

/-- A record without an order in flight takes a status without one (R64). -/
theorem Sound.pass {b : OrderBook} (h : b.Sound) {q : SeqNo} (idle : q ∉ b.flying) {x : Status}
    (ended : ¬ (x = .committed ∨ x = .acked)) : (b.setStatus q x).Sound := by
  have unacked : ∀ p, b.Unacked p → (b.setStatus q x).Unacked p := fun p hp =>
    Unacked.change hp _ (by rintro rfl; exact idle (h.toCounted.flying_of_unacked hp))
  exact
    { h.toCounted.setStatus (iff_of_false ended idle) with
      order := fun p hp => unacked p (h.order p hp)
      queued := fun p hp => ⟨unacked p (h.queued p hp).1, (h.queued p hp).2⟩
      abort := h.abort
      free := h.free
      held := h.held
      withdrawn := h.withdrawn }

end Sys2Proof.Machine.OrderBook
end

section
/-! SUPPORT. The order book read off the state (R60, R68, R91), the changes that leave every book as it is, and the operations of a
sequencer as events on its station's book. -/

namespace Sys2Proof.Machine

/-! ### Reading the book -/

def TrackRecord.bookEntry (r : TrackRecord) (st : Idx) : BookEntry :=
  { seq := r.seq, status := (r.st.get st).status, feeds := (r.st.get st).feeds }

/-- The book of a station with this sequencer. -/
def Sequencer.book (sq : Sequencer) (line : LineState) (entries : List BookEntry) (reserved : Idx → Nat) : OrderBook :=
  { line, entries, reserved
    flying := sq.inFlight.map (·.seq)
    awaited := sq.awaited
    queue := sq.queue
    abortSet := sq.abortSet
    tripped := sq.tripped
    held := sq.context.map fun c => c.entries.map (·.seq)
    withdrawn := sq.beforeTrip.map fun b => b.withdrawn.map (·.seq) }

def State.book (s : State) (st : Idx) : OrderBook :=
  (s.seqr.get st).book s.line (s.track.map (·.bookEntry st)) fun c => (s.lane st c).reserved

theorem State.book_find (s : State) (st : Idx) (q : SeqNo) : (s.book st).find q = (s.record q).map (·.bookEntry st) := by
  unfold OrderBook.find State.record State.book Sequencer.book
  induction s.track with
  | nil => rfl
  | cons r rs ih =>
    by_cases h : r.seq = q
    · simp [findRecord, h, TrackRecord.bookEntry]
    · rw [List.map_cons, List.find?_cons_of_neg (by simp [TrackRecord.bookEntry, h]), findRecord, if_neg h]
      exact ih

theorem State.holds_iff (s : State) (st : Idx) (q : SeqNo) : (s.seqr.get st).holds q = true ↔ q ∈ (s.book st).flying := by
  simp [Sequencer.holds, State.book, Sequencer.book]

theorem State.mem_flying (s : State) (st : Idx) (e : InFlight) (h : e ∈ (s.seqr.get st).inFlight) : e.seq ∈ (s.book st).flying :=
  List.mem_map_of_mem h

theorem State.flying_nil (s : State) (st : Idx) : (s.book st).flying = [] ↔ (s.seqr.get st).inFlight = [] := List.map_eq_nil_iff

/-! ### Changes that leave the books -/

/-- Every station's book stays. -/
def SameBooks (s t : State) : Prop := ∀ v, t.book v = s.book v

theorem SameBooks.refl (s : State) : SameBooks s s := fun _ => rfl

theorem SameBooks.trans {s t u : State} (a : SameBooks s t) (b : SameBooks t u) : SameBooks s u := fun v => (b v).trans (a v)

theorem SameBooks.foldl {α : Type} (g : State → α → State) (h : ∀ s x, SameBooks s (g s x)) (l : List α) (s : State) :
    SameBooks s (l.foldl g s) := by
  induction l generalizing s with
  | nil => exact .refl s
  | cons x xs ih => exact (h s x).trans (ih _)

/-- What of a record the books are read off. -/
abbrev TrackRecord.sameOrders (r r' : TrackRecord) : Prop := ∀ v, r'.bookEntry v = r.bookEntry v

theorem SameBooks.of {s t : State} (line : t.line = s.line)
    (entries : ∀ v, t.track.map (·.bookEntry v) = s.track.map (·.bookEntry v)) (seqr : t.seqr = s.seqr)
    (lanes : ∀ v c, (t.lane v c).reserved = (s.lane v c).reserved) : SameBooks s t := by
  intro v
  simp only [State.book, line, entries, seqr, lanes]

theorem SameBooks.of_same {s t : State} (line : t.line = s.line) (track : t.track = s.track) (seqr : t.seqr = s.seqr)
    (lanes : t.lanes = s.lanes) : SameBooks s t :=
  .of line (fun _ => by rw [track]) seqr fun _ _ => by rw [State.lane_of_lanes lanes]

theorem SameBooks.of_track {s t : State} (line : t.line = s.line) {f : TrackRecord → TrackRecord} (track : t.track = s.track.map f)
    (h : ∀ r : TrackRecord, r.sameOrders (f r)) (seqr : t.seqr = s.seqr) (lanes : t.lanes = s.lanes) : SameBooks s t := by
  refine .of line (fun v => ?_) seqr fun _ _ => by rw [State.lane_of_lanes lanes]
  rw [track, List.map_map]
  exact List.map_congr_left fun r _ => h r v

theorem State.updRecord_books (s : State) (q : SeqNo) {f : TrackRecord → TrackRecord} (h : ∀ r : TrackRecord, r.sameOrders (f r)) :
    SameBooks s (s.updRecord q f) := by
  refine .of_track (f := fun r => if r.seq = q then f r else r) rfl rfl (fun r => ?_) rfl rfl
  split
  · exact h r
  · exact fun _ => rfl

theorem Marked.entries {s t : State} (m : Marked s t) (v : Idx) : t.track.map (·.bookEntry v) = s.track.map (·.bookEntry v) := by
  obtain ⟨mark, track⟩ := m
  rw [track, List.map_map]
  rfl

theorem Marked.books {s t : State} (m : Marked s t) (line : t.line = s.line) (seqr : t.seqr = s.seqr)
    (lanes : ∀ v c, (t.lane v c).foil.2 = (s.lane v c).foil.2) : SameBooks s t := .of line m.entries seqr lanes

theorem State.raise_books (s : State) (ev : FaultEvent) : SameBooks s (s.raise ev) := .of_same (by simp) (by simp) (by simp) (by simp)

theorem State.unphase_books (s : State) (st : Idx) : SameBooks s (s.unphase st) := .of_same rfl rfl rfl rfl

theorem State.updLink_books (s : State) (st : Idx) (f : Link → Link) : SameBooks s (s.updLink st f) := .of_same rfl rfl rfl rfl

theorem State.updCalc_books (s : State) (st : Idx) (f : Calc → Calc) : SameBooks s (s.updCalc st f) := .of_same rfl rfl rfl rfl

theorem State.setTrim_books (s : State) (st : Idx) (x : Int) : SameBooks s (s.setTrim st x) :=
  (s.setTrim_marked st x).books (by simp) (by simp) fun v c => by rw [State.lane_of_lanes (s := s) (by simp)]

theorem State.applyFoilAll_books (s : State) (st : Idx) (r : FoilReport) : SameBooks s (s.applyFoilAll st r) := by
  refine (s.applyFoilAll_marked st r).books (by simp) (by simp) fun v c => ?_
  rw [State.applyFoilAll_foil]
  split
  next h => rw [h]; rfl
  · rfl

theorem State.giveUpFirstOff_books (s : State) (j : Slot) (st : Idx) (q : SeqNo) : SameBooks s (s.giveUpFirstOff j st q) :=
  .of_same (by simp) (by simp) (by simp) (by simp)

theorem State.lowTest_books (s : State) (st c : Idx) : SameBooks s (s.lowTest st c) :=
  .of (by simp) (fun v => by simp) (by simp) fun v k => congrArg Prod.snd (s.lowTest_foil st c v k)

theorem State.runOut_books (s : State) (st c : Idx) (q : SeqNo) : SameBooks s (s.runOut st c q) := by
  refine .of (by simp) (fun v => by simp) (by simp) fun v k => ?_
  rw [State.lane_of_lanes (s := s.updLane st c fun l => { l with state := .out }) (by simp [State.runOut]), State.lane_updLane]
  split
  next h => cases h; rfl
  · rfl

theorem State.learn_books (s : State) (st : Idx) (r : TrackRecord) (p : Bool) (o : ReportOutcome) (e : Option Int) :
    SameBooks s (s.learn st r p o e) := by
  have taught : ∀ (d : Decision) (e : Int) (x : StationEntry), SameBooks s
      (if d = .strike ∧ r.origin ≠ .coasted then
        s.setTrim st (learnedTrim (s.calcs.get st).trim e x.gain x.slew (s.trimLimit st)) else s) := by
    intro d e x
    split
    · exact s.setTrim_books _ _
    · exact .refl s
  unfold State.learn
  dsimp only
  split
  · split
    · exact s.updCalc_books _ _
    · exact .refl s
  · split
    · split
      · exact (taught _ _ _).trans (State.raise_books _ _)
      · exact taught _ _ _
    · exact .refl s

/-- A change of the sequencer that the book does not read. -/
theorem State.updSeqr_books (s : State) (st : Idx) {f : Sequencer → Sequencer}
    (h : ∀ line e r, (f (s.seqr.get st)).book line e r = (s.seqr.get st).book line e r) : SameBooks s (s.updSeqr st f) := by
  intro v
  show ((s.seqr.upd st f).get v).book _ _ _ = _
  rw [Four.get_upd]
  split
  next same => subst same; exact h _ _ _
  · rfl

theorem State.settleContext_books (s : State) (st : Idx) (q : SeqNo) (o : AbortOutcome) : SameBooks s (s.settleContext st q o) := by
  refine s.updSeqr_books st fun _ _ _ => ?_
  unfold Sequencer.book
  dsimp only
  congr 1
  rw [Option.map_map]
  congr 1
  funext c
  simp only [Function.comp, List.map_map]
  refine List.map_congr_left fun e _ => ?_
  simp only [Function.comp]
  split <;> rfl

theorem State.pushOverdue_books (s : State) (st : Idx) (e : OverdueEntry) : SameBooks s (s.pushOverdue st e) := by
  unfold State.pushOverdue
  dsimp only
  refine SameBooks.trans ?_ (State.updSeqr_books _ _ fun _ _ _ => rfl)
  split
  · split
    · exact (s.updSeqr_books st fun _ _ _ => rfl).trans (State.giveUpFirstOff_books _ _ _ _)
    · exact .refl s
  · exact .refl s

theorem State.emptyOverdue_books (s : State) (st : Idx) : SameBooks s (s.emptyOverdue st) :=
  (SameBooks.foldl _ (fun s (x : OverdueEntry) => s.giveUpFirstOff_books x.slot st x.seq) _ s).trans (State.updSeqr_books _ _ fun _ _ _ => rfl)

theorem State.web_books (s : State) (w : Web) : SameBooks s { s with web := w } := .of_same rfl rfl rfl rfl

theorem State.reversalTest_books (s : State) : SameBooks s s.reversalTest := .of_same (by simp) (by simp) (by simp) (by simp)

/-! ### Events on one book -/

/-- A change turns the book of one station and leaves the others. -/
def Moves (s t : State) (st : Idx) (f : OrderBook → OrderBook) : Prop := ∀ v, t.book v = if v = st then f (s.book st) else s.book v

theorem Moves.book {s t : State} {st : Idx} {f : OrderBook → OrderBook} (m : Moves s t st f) : t.book st = f (s.book st) := by
  rw [m st, if_pos rfl]

theorem Moves.elsewhere {s t : State} {st : Idx} {f : OrderBook → OrderBook} (m : Moves s t st f) {v : Idx} (h : v ≠ st) :
    t.book v = s.book v := by
  rw [m v, if_neg h]

theorem SameBooks.moves {s t : State} (h : SameBooks s t) (st : Idx) : Moves s t st id := fun v => by
  rw [h v]
  split
  next same => rw [same]; rfl
  · rfl

theorem Moves.trans {s t u : State} {st : Idx} {f g : OrderBook → OrderBook} (a : Moves s t st f) (b : Moves t u st g) :
    Moves s u st (g ∘ f) := fun v => by
  rw [b v, a.book]
  split
  · rfl
  next h => exact a.elsewhere h

theorem Moves.then {s t u : State} {st : Idx} {f : OrderBook → OrderBook} (a : Moves s t st f) (b : SameBooks t u) : Moves s u st f :=
  fun v => (b v).trans (a v)

theorem SameBooks.moved {s t u : State} {st : Idx} {f : OrderBook → OrderBook} (a : SameBooks s t) (b : Moves t u st f) :
    Moves s u st f := fun v => by rw [b v, a v, a st]

/-- A change known of this book alone. -/
theorem Moves.congr {s t : State} {st : Idx} {f g : OrderBook → OrderBook} (a : Moves s t st f) (h : f (s.book st) = g (s.book st)) :
    Moves s t st g := fun v => by rw [a v, h]

/-- The books of all stations are sound. -/
def BooksSound (s : State) : Prop := ∀ v, (s.book v).Sound

theorem Moves.sound {s t : State} {st : Idx} {f : OrderBook → OrderBook} (m : Moves s t st f) (h : BooksSound s)
    (h' : (f (s.book st)).Sound) : BooksSound t := fun v => by
  rw [m v]
  split
  · exact h'
  · exact h v

theorem SameBooks.sound {s t : State} (b : SameBooks s t) (h : BooksSound s) : BooksSound t := fun v => b v ▸ h v

/-- Changes at each of some stations, each of its own book. -/
theorem Moves.foldl {g : State → Idx → State} {f : Idx → OrderBook → OrderBook} (h : ∀ s v, Moves s (g s v) v (f v)) (l : List Idx)
    (once : l.Nodup) (s : State) (v : Idx) : (l.foldl g s).book v = if v ∈ l then f v (s.book v) else s.book v := by
  induction l generalizing s with
  | nil => simp
  | cons x xs ih =>
    obtain ⟨fresh, once⟩ := List.nodup_cons.1 once
    rw [List.foldl_cons, ih once, h s x v]
    by_cases same : v = x
    · subst same
      simp [fresh]
    · simp [same]

theorem idx_mem_all (v : Idx) : v ∈ Idx.all := by cases v <;> decide

/-- Changes at all stations. -/
theorem Moves.all {g : State → Idx → State} {f : Idx → OrderBook → OrderBook} (h : ∀ s v, Moves s (g s v) v (f v)) (s : State) (v : Idx) :
    (Idx.all.foldl g s).book v = f v (s.book v) := by
  rw [Moves.foldl h Idx.all (by decide), if_pos (idx_mem_all v)]

theorem State.updSeqr_moves (s : State) (st : Idx) {f : Sequencer → Sequencer} {g : OrderBook → OrderBook}
    (h : ∀ line e r, (f (s.seqr.get st)).book line e r = g ((s.seqr.get st).book line e r)) : Moves s (s.updSeqr st f) st g := by
  intro v
  show ((s.seqr.upd st f).get v).book _ _ _ = _
  rw [Four.get_upd]
  split
  next same => subst same; exact h _ _ _
  · rfl

/-- The field of one station of one record changed. -/
theorem State.updField_moves (s : State) (q : SeqNo) (st : Idx) {f : StationField → StationField} {g : BookEntry → BookEntry}
    (h : ∀ r : TrackRecord, (r.updStation st f).bookEntry st = g (r.bookEntry st)) : Moves s (s.updField q st f) st (·.change q g) := by
  intro v
  show (s.seqr.get v).book _ ((s.track.map _).map _) _ = _
  rw [List.map_map]
  split
  next same =>
    subst same
    show Sequencer.book _ _ _ _ = OrderBook.change _ q g
    unfold OrderBook.change State.book Sequencer.book
    dsimp only
    rw [List.map_map]
    congr 1
    refine List.map_congr_left fun r _ => ?_
    by_cases seq : r.seq = q
    · simp only [Function.comp, seq, if_true]
      rw [h, if_pos (by simpa [TrackRecord.bookEntry] using seq)]
    · simp only [Function.comp, seq, if_false]
      rw [if_neg (by simpa [TrackRecord.bookEntry] using seq)]
  next other =>
    show _ = Sequencer.book _ _ _ _
    congr 1
    refine List.map_congr_left fun r _ => ?_
    simp only [Function.comp]
    split
    · simp [TrackRecord.bookEntry, TrackRecord.updStation, other]
    · rfl

theorem State.updField_status (s : State) (q : SeqNo) (st : Idx) {f : StationField → StationField} {x : Status}
    (status : ∀ y, (f y).status = x) (feeds : ∀ y, (f y).feeds = y.feeds) : Moves s (s.updField q st f) st (·.setStatus q x) := by
  refine s.updField_moves q st fun r => ?_
  simp [TrackRecord.bookEntry, TrackRecord.updStation, status, feeds]

theorem State.updField_books (s : State) (q : SeqNo) (st : Idx) {f : StationField → StationField}
    (status : ∀ y, (f y).status = y.status) (feeds : ∀ y, (f y).feeds = y.feeds) : SameBooks s (s.updField q st f) := by
  refine s.updRecord_books q fun r v => ?_
  simp only [TrackRecord.bookEntry, TrackRecord.updStation, Four.get_upd]
  split
  next same => subst same; simp [status, feeds]
  · rfl

theorem State.leaveInFlight_moves (s : State) (st : Idx) (q : SeqNo) : Moves s (s.leaveInFlight st q) st (·.leave q) := by
  refine s.updSeqr_moves st fun _ _ _ => ?_
  simp only [Sequencer.book, OrderBook.leave, List.filter_map]
  rfl

theorem State.release_moves (s : State) (st : Idx) (feeds : Four Nat) : Moves s (s.release st feeds) st (·.release feeds) := by
  intro v
  have lanes : ∀ c, ((s.release st feeds).lane v c).reserved =
      if v = st then (s.lane st c).reserved - feeds.get c else (s.lane v c).reserved := by
    intro c
    have foil := congrArg Prod.snd (s.release_foil st feeds v c)
    split at foil
    next h => rw [if_pos h]; exact foil
    next h => rw [if_neg h]; exact foil
  show Sequencer.book _ _ _ _ = _
  simp only [lanes]
  split
  next same => subst same; rfl
  · rfl

theorem State.reserve_moves (s : State) (st : Idx) (feeds : Four Nat) : Moves s (s.reserve st feeds) st (·.reserve feeds) := by
  intro v
  show Sequencer.book _ _ _ _ = _
  simp only [State.lane, State.reserve, State.updLanes, Four.get_upd]
  split
  next same => subst same; simp [State.book, Sequencer.book, OrderBook.reserve, State.lane]
  · rfl

theorem State.settleUnreported_moves (s : State) (st : Idx) (j : Slot) (q : SeqNo) (feeds : Four Nat) :
    Moves s (s.settleUnreported st j q feeds) st (·.release feeds) := (s.release_moves st feeds).then (State.giveUpFirstOff_books _ _ _ _)

theorem State.endUnreported_moves (s : State) (st : Idx) (j : Slot) (q : SeqNo) (feeds : Four Nat) :
    Moves s (s.endUnreported st j q feeds) st (·.release feeds) :=
  (s.settleUnreported_moves st j q feeds).then (SameBooks.foldl _ (fun s c => s.lowTest_books st c) _ _)

/-! ### An order that is closed -/

/-- The status of the record's order is settled, it leaves the in-flight list and its feeds are released. -/
theorem Moves.closed {s t u v : State} {st : Idx} {q : SeqNo} {r : TrackRecord} {x : Status}
    (a : Moves s t st (·.setStatus q x)) (record : s.record q = some r) (b : Moves t u st (·.leave q)) (c : Moves u v st (·.release (r.st.get st).feeds)) :
    Moves s v st (·.close q x) := by
  refine ((a.trans b).trans c).congr ?_
  have found : (s.book st).find q = some (r.bookEntry st) := by rw [State.book_find, record]; rfl
  rw [OrderBook.close_of_find found]
  rfl

/-- An order whose record has left the track leaves the in-flight list. -/
theorem Moves.closed_absent {s t : State} {st : Idx} {q : SeqNo} (x : Status) (record : s.record q = none) (a : Moves s t st (·.leave q)) :
    Moves s t st (·.close q x) := by
  refine a.congr ?_
  have found : (s.book st).find q = none := by rw [State.book_find, record]; rfl
  unfold OrderBook.close
  rw [found]

theorem State.closeUnreported_moves (s : State) (st : Idx) (q : SeqNo) (x : Status) :
    Moves s (s.closeUnreported st q x) st (·.close q x) := by
  unfold State.closeUnreported
  split
  next r record =>
    have settled := s.updField_status q st (f := fun f => { f with status := x }) (fun _ => rfl) fun _ => rfl
    exact settled.closed record (State.leaveInFlight_moves _ st q) (State.endUnreported_moves _ _ _ _ _)
  next record => exact .closed_absent x record (s.leaveInFlight_moves st q)

theorem State.closeAtReset_moves (s : State) (st : Idx) (q : SeqNo) : Moves s (s.closeAtReset st q) st (·.close q .missed) := by
  unfold State.closeAtReset
  split
  next r record =>
    have settled := s.updField_status q st (f := fun f => { f with status := .missed }) (fun _ => rfl) fun _ => rfl
    exact settled.closed record (State.leaveInFlight_moves _ st q) (State.settleUnreported_moves _ _ _ _ _)
  next record => exact .closed_absent _ record (s.leaveInFlight_moves st q)

/-- The status with which an abort report closes the order of a seq (R81). -/
def State.abortedStatus (s : State) (st : Idx) (q : SeqNo) (found : AbortFound) : Status :=
  abortStatus ((s.record q).elim .none fun r => (r.st.get st).decision) found

theorem abortStatus_ended (d : Decision) (x : AbortFound) : ¬ (abortStatus d x = .committed ∨ abortStatus d x = .acked) := by
  cases d <;> cases x <;> decide

theorem State.abortedStatus_notMade (s : State) (st : Idx) (q : SeqNo) : s.abortedStatus st q .notMade = .missed := by
  unfold State.abortedStatus
  cases (s.record q).elim Decision.none fun r => (r.st.get st).decision <;> rfl

theorem State.closeByAbort_moves (s : State) (st : Idx) (q : SeqNo) (x : AbortFound) (n : Four Nat) :
    Moves s (s.closeByAbort st q x n) st (·.close q (s.abortedStatus st q x)) := by
  unfold State.closeByAbort
  split
  next r record =>
    have status : s.abortedStatus st q x = abortStatus (r.st.get st).decision x := by rw [State.abortedStatus, record]; rfl
    rw [status]
    dsimp only
    have settled := s.updField_status q st (f := fun f =>
      { f with report := some { outcome := foundReported x, e := none, advanced := n }, status := abortStatus (r.st.get st).decision x })
      (fun _ => rfl) fun _ => rfl
    have left : ∀ t : State, Moves t ((t.leaveInFlight st q).settleContext st q (foundOutcome x)) st (·.leave q) := fun t =>
      (t.leaveInFlight_moves st q).then (State.settleContext_books _ st q _)
    have released : ∀ t : State, Moves t (t.release st (r.st.get st).feeds) st (·.release (r.st.get st).feeds) := fun t =>
      t.release_moves st _
    have closed := settled.closed record (left _) (released _)
    split
    · exact (closed.then (State.applyFoilAll_books _ _ _)).then (State.raise_books _ _)
    · exact closed.then (State.applyFoilAll_books _ _ _)
  next record => exact .closed_absent _ record (s.leaveInFlight_moves st q)

/-- Orders closed one after the other. -/
theorem Moves.closeAll {α : Type} {st : Idx} {x : Status} {g : State → α → State} {seq : α → SeqNo}
    (h : ∀ s a, Moves s (g s a) st (·.close (seq a) x)) (l : List α) (s : State) :
    Moves s (l.foldl g s) st (·.closeAll (l.map seq) x) := by
  induction l generalizing s with
  | nil => exact (SameBooks.refl s).moves st
  | cons a as ih => exact (h s a).trans (ih (g s a))

/-! ### What is awaited and queued -/

theorem State.clearAwaited_moves (s : State) (st : Idx) : Moves s (s.clearAwaited st) st (·.unawait) :=
  (s.updSeqr_moves st fun _ _ _ => rfl).then (State.updLink_books _ _ _)

theorem State.transmit_moves (s : State) (st : Idx) (q : SeqNo) : Moves s (s.transmit st q) st (·.transmit q) := by
  have found := s.book_find st q
  unfold State.transmit
  split
  next r record =>
    rw [record] at found
    refine Moves.congr (f := fun b => { b with awaited := .order q, queue := none }) ?_ ?_
    · exact (s.updLink_books st _).moved (State.updSeqr_moves _ st fun _ _ _ => rfl)
    · unfold OrderBook.transmit
      rw [found]
      rfl
  next record =>
    rw [record] at found
    refine ((SameBooks.refl s).moves st).congr ?_
    unfold OrderBook.transmit
    rw [found]
    rfl

theorem State.issue_moves (s : State) (st : Idx) (q : SeqNo) : Moves s (s.issue st q) st (·.issue q) := by
  have awaited : (s.book st).awaited = (s.seqr.get st).awaited := rfl
  unfold State.issue
  split
  next h => exact (s.transmit_moves st q).congr (by unfold OrderBook.issue; rw [awaited, if_pos h])
  next h =>
    refine Moves.congr (f := fun b => { b with queue := some q }) (s.updSeqr_moves st fun _ _ _ => rfl) ?_
    unfold OrderBook.issue
    rw [awaited, if_neg h]

theorem State.releaseQueue_moves (s : State) (st : Idx) : Moves s (s.releaseQueue st) st (·.releaseQueue) := by
  have awaited : (s.book st).awaited = (s.seqr.get st).awaited := rfl
  have queue : (s.book st).queue = (s.seqr.get st).queue := rfl
  unfold State.releaseQueue
  split
  next q h h' => exact (s.transmit_moves st q).congr (by unfold OrderBook.releaseQueue; rw [awaited, queue, h, h'])
  next h =>
    refine ((SameBooks.refl s).moves st).congr ?_
    unfold OrderBook.releaseQueue
    rw [awaited, queue]
    split
    next q h1 h2 => exact absurd h2 (h q h1)
    · rfl

theorem State.leaveAbortSet_moves (s : State) (st : Idx) (q : SeqNo) : Moves s (s.leaveAbortSet st q) st (·.leaveAbort q) :=
  s.updSeqr_moves st fun _ _ _ => rfl

theorem State.completeAbort_moves (s : State) (st : Idx) : Moves s (s.completeAbort st) st (·.completeAbort) := by
  have awaited : (s.book st).awaited = (s.seqr.get st).awaited := rfl
  have abortSet : (s.book st).abortSet = (s.seqr.get st).abortSet := rfl
  unfold State.completeAbort
  split
  next h =>
    refine ((s.clearAwaited_moves st).trans (State.releaseQueue_moves _ st)).congr ?_
    unfold OrderBook.completeAbort
    rw [awaited, abortSet, if_pos h]
    rfl
  next h =>
    refine ((SameBooks.refl s).moves st).congr ?_
    unfold OrderBook.completeAbort
    rw [awaited, abortSet, if_neg h]
    rfl

theorem State.withdrawQueued_moves (s : State) (st : Idx) : Moves s (s.withdrawQueued st) st (·.withdraw) := by
  have queue : (s.book st).queue = (s.seqr.get st).queue := rfl
  unfold State.withdrawQueued
  split
  next q h =>
    have closed := (s.updSeqr st fun sq => { sq with queue := none }).closeByAbort_moves st q .notMade (.all 0)
    rw [State.abortedStatus_notMade] at closed
    have unqueued : Moves s (s.updSeqr st fun sq => { sq with queue := none }) st (·.unqueue) := s.updSeqr_moves st fun _ _ _ => rfl
    refine (unqueued.trans closed).congr ?_
    unfold OrderBook.withdraw
    rw [queue, h]
    rfl
  next h =>
    refine ((SameBooks.refl s).moves st).congr ?_
    unfold OrderBook.withdraw
    rw [queue, h]
    rfl

theorem State.sendAbort_moves (s : State) (st : Idx) : Moves s (s.sendAbort st) st (·.sendAbort) := by
  have flying : (s.book st).flying = (s.seqr.get st).inFlight.map (·.seq) := rfl
  unfold State.sendAbort
  dsimp only
  split
  next h =>
    refine ((SameBooks.refl s).moves st).congr ?_
    unfold OrderBook.sendAbort
    rw [flying, if_pos h]
    rfl
  next h =>
    refine Moves.congr (f := fun b => { b with awaited := .abort, abortSet := (s.seqr.get st).inFlight.map (·.seq) }) ?_ ?_
    · exact (s.updLink_books st _).moved (State.updSeqr_moves _ st fun _ _ _ => rfl)
    · unfold OrderBook.sendAbort
      rw [flying, if_neg h]

theorem State.requestAbort_moves (s : State) (st : Idx) : Moves s (s.requestAbort st) st (·.requestAbort) := by
  have nothing : ((s.book st).flying = [] ∨ (s.book st).awaited = .abort) ↔
      ((s.seqr.get st).inFlight = [] ∨ (s.seqr.get st).awaited = .abort) := or_congr (s.flying_nil st) Iff.rfl
  unfold State.requestAbort
  split
  next h =>
    refine ((SameBooks.refl s).moves st).congr ?_
    unfold OrderBook.requestAbort
    rw [if_pos (nothing.2 h)]
    rfl
  next h =>
    refine ((s.withdrawQueued_moves st).trans (State.sendAbort_moves _ st)).congr ?_
    unfold OrderBook.requestAbort
    rw [if_neg (mt nothing.1 h)]
    rfl

end Sys2Proof.Machine
end

section
/-! SUPPORT. The answers and timers of a sequencer, link loss and trips keep every station's book sound (R69 to R84). -/

namespace Sys2Proof.Machine

/-! ### Acknowledgements (R69 to R71) -/

theorem State.aborts_iff (s : State) (st : Idx) (q : SeqNo) :
    (s.seqr.get st).abortSet.contains q = true ↔ q ∈ (s.book st).abortSet := List.contains_iff_mem

theorem OrderBook.Sound.unqueued {b : OrderBook} (h : b.Sound) {q : SeqNo} (awaited : b.awaited = .order q) : b.queue ≠ some q := by
  intro queue
  obtain ⟨-, p, order, other⟩ := h.queued q queue
  rw [awaited] at order
  cases order
  exact other rfl

theorem OrderBook.Sound.flies {b : OrderBook} (h : b.Sound) {q : SeqNo} (awaited : b.awaited = .order q) : q ∈ b.flying :=
  h.toCounted.flying_of_unacked (h.order q awaited)

/-- The queued order goes out at the station. -/
theorem Moves.released {s t : State} {st : Idx} {f : OrderBook → OrderBook} (m : Moves s t st f) (h : BooksSound s)
    (loose : (f (s.book st)).Loose) : BooksSound (t.releaseQueue st) :=
  (m.trans (State.releaseQueue_moves t st)).sound h loose.releaseQueue

theorem State.takeDeadline_moves {s : State} {st : Idx} {r : TrackRecord} (record : s.record r.seq = some r) :
    Moves s (s.takeDeadline st r) st (·.close r.seq .unconfirmed) := by
  have settled := s.updField_status r.seq st (f := fun f => { f with status := .unconfirmed }) (fun _ => rfl) fun _ => rfl
  have closed := settled.closed record (State.leaveInFlight_moves _ st r.seq) (State.release_moves _ st (r.st.get st).feeds)
  exact (closed.then (State.pushOverdue_books _ _ _)).then (State.raise_books _ _)

theorem State.ackAccepted_sound {s : State} {st : Idx} {q : SeqNo} (h : BooksSound s) (awaited : (s.seqr.get st).awaited = .order q) :
    BooksSound (s.ackAccepted st q) := by
  have order : (s.book st).awaited = .order q := awaited
  have flies := (h st).flies order
  have unqueued := (h st).unqueued order
  have loose : ((s.book st).unawait.setStatus q .acked).Loose :=
    ((h st).unawait (by rw [order]; simp)).acked flies unqueued
  have acked := (s.clearAwaited_moves st).trans
    (State.updField_status _ q st (f := fun f => { f with status := .acked }) (fun _ => rfl) fun _ => rfl)
  unfold State.ackAccepted
  dsimp only
  split
  next r record =>
    obtain rfl := State.record_seq record
    split
    · exact (acked.trans (State.takeDeadline_moves record)).released h (loose.close flies unqueued (by simp))
    · exact acked.released h loose
  · exact acked.released h loose

theorem State.ackRefused_sound {s : State} {st : Idx} {q : SeqNo} (h : BooksSound s) (awaited : (s.seqr.get st).awaited = .order q)
    (x : AckResult) : BooksSound (s.ackRefused st q x) := by
  have order : (s.book st).awaited = .order q := awaited
  have loose := ((h st).unawait (by rw [order]; simp)).close ((h st).flies order) ((h st).unqueued order) (x := .faulted) (by simp)
  exact (State.raise_books _ _).sound (((s.clearAwaited_moves st).trans (State.closeUnreported_moves _ st q _)).released h loose)

theorem State.orderAck_sound {s : State} (h : BooksSound s) (st : Idx) (q : SeqNo) (x : AckResult) : BooksSound (s.orderAck st q x) := by
  unfold State.orderAck
  split
  next awaited =>
    split
    · exact State.ackAccepted_sound h awaited
    · exact State.ackRefused_sound h awaited x
  · exact h

theorem OrderBook.close_unawait (b : OrderBook) (q : SeqNo) (x : Status) : (b.close q x).unawait = b.unawait.close q x := by
  unfold OrderBook.close
  rw [show b.unawait.find q = b.find q from rfl]
  cases b.find q <;> rfl

theorem State.ackTimeout_sound {s : State} (h : BooksSound s) (st : Idx) : BooksSound (s.ackTimeout st) := by
  unfold State.ackTimeout
  split
  next q awaited =>
    have order : (s.book st).awaited = .order q := awaited
    have loose := ((h st).unawait (by rw [order]; simp)).close ((h st).flies order) ((h st).unqueued order) (x := .faulted) (by simp)
    rw [← OrderBook.close_unawait] at loose
    have closed := (s.closeUnreported_moves st q .faulted).then (State.unphase_books _ st)
    have cleared := (closed.trans (State.clearAwaited_moves _ st)).then
      (State.updSeqr_books _ st (f := fun sq => { sq with lastTimedOut := some q }) fun _ _ _ => rfl)
    exact (State.raise_books _ _).sound (cleared.released h loose)
  · exact h

/-! ### Reports and deadlines (R73 to R77, R83) -/

/-- An order that is acknowledged is neither awaited nor queued. -/
theorem OrderBook.Sound.acked {b : OrderBook} (h : b.Sound) {q : SeqNo} {x : BookEntry} (found : b.find q = some x)
    (status : x.status = .acked) : q ∈ b.flying ∧ b.awaited ≠ .order q ∧ b.queue ≠ some q := by
  obtain ⟨rfl, mem⟩ := OrderBook.find_seq found
  have unacked : ¬ b.Unacked x.seq := by
    rintro ⟨y, hy, seq, committed⟩
    have same := OrderBook.find_of_mem h.unique hy
    rw [seq, found] at same
    cases same
    rw [status] at committed
    cases committed
  exact ⟨(h.opened x mem).2 (.inr status), fun e => unacked (h.order _ e), fun e => unacked (h.queued _ e).1⟩

/-- An order in flight that no abort names is at no station whose abort is outstanding. -/
theorem OrderBook.Sound.unaborted {b : OrderBook} (h : b.Sound) {q : SeqNo} (flies : q ∈ b.flying) (unnamed : q ∉ b.abortSet) :
    b.awaited ≠ .abort := fun aborted => unnamed ((h.abort aborted).1 ▸ flies)

theorem State.takeDeadline_sound {s : State} {st : Idx} {r : TrackRecord} (h : BooksSound s) (record : s.record r.seq = some r)
    (due : s.deadlineScheduled st r = true) : BooksSound (s.takeDeadline st r) := by
  simp only [State.deadlineScheduled, Bool.and_eq_true, decide_eq_true_eq, Bool.not_eq_true', List.contains_eq_mem,
    decide_eq_false_iff_not] at due
  obtain ⟨⟨-, status⟩, unnamed⟩ := due
  have found : (s.book st).find r.seq = some (r.bookEntry st) := by rw [State.book_find, record]; rfl
  obtain ⟨flies, unawaited, unqueued⟩ := (h st).acked found status
  exact (State.takeDeadline_moves record).sound h
    ((h st).close flies ((h st).unaborted flies unnamed) unawaited unqueued (by simp))

/-- What the queued order finds as it goes out. -/
theorem OrderBook.releaseQueue_idle {b : OrderBook} (idle : b.awaited = .none) {q : SeqNo} (unqueued : b.queue ≠ some q) :
    b.releaseQueue.awaited ≠ .abort ∧ b.releaseQueue.awaited ≠ .order q ∧ b.releaseQueue.queue ≠ some q := by
  unfold OrderBook.releaseQueue OrderBook.transmit
  rw [idle]
  cases queue : b.queue with
  | none => simp [idle, queue]
  | some p =>
    have other : p ≠ q := fun e => unqueued (e ▸ queue)
    dsimp only
    split
    · simp [other]
    · simp [idle, queue, other]

/-- An awaited order whose report has come before its ack: the queued order goes out and the order is closed (R72). -/
theorem OrderBook.Sound.reportedUnacked {b : OrderBook} (h : b.Sound) {q : SeqNo} (awaited : b.awaited = .order q) {x : Status}
    (ended : ¬ (x = .committed ∨ x = .acked)) : (b.unawait.releaseQueue.close q x).Sound := by
  obtain ⟨unaborted, unawaited, unqueued⟩ := OrderBook.releaseQueue_idle (b := b.unawait) rfl (h.unqueued awaited)
  refine ((h.unawait (by rw [awaited]; simp)).releaseQueue).close ?_ unaborted unawaited unqueued ended
  rw [(OrderBook.releaseQueue_rest _).2.2.1]
  exact h.flies awaited

theorem reportStatus_ended (d : Decision) (o : ReportOutcome) : ¬ (reportStatus d o = .committed ∨ reportStatus d o = .acked) := by
  cases d <;> cases o <;> decide

theorem State.reportAsAck_moves (s : State) (st : Idx) (q : SeqNo) :
    Moves s (s.reportAsAck st q) st fun b => if b.awaited = .order q then b.unawait.releaseQueue else b := by
  have awaited : (s.book st).awaited = (s.seqr.get st).awaited := rfl
  unfold State.reportAsAck
  split
  next h => exact ((s.clearAwaited_moves st).trans (State.releaseQueue_moves _ st)).congr (by rw [awaited, if_pos h]; rfl)
  next h => exact ((SameBooks.refl s).moves st).congr (by rw [awaited, if_neg h]; rfl)

theorem State.reportSettlesAbort_moves (s : State) (st : Idx) (q : SeqNo) (o : ReportOutcome) :
    Moves s (s.reportSettlesAbort st q o) st fun b => if q ∈ b.abortSet then (b.leaveAbort q).completeAbort else b := by
  have abortSet : (s.book st).abortSet = (s.seqr.get st).abortSet := rfl
  unfold State.reportSettlesAbort
  split
  next h =>
    have named := (s.aborts_iff st q).1 h
    refine (((s.leaveAbortSet_moves st q).then (State.settleContext_books _ st q _)).trans (State.completeAbort_moves _ st)).congr ?_
    rw [if_pos named]
    rfl
  next h =>
    have unnamed := mt (s.aborts_iff st q).2 h
    exact ((SameBooks.refl s).moves st).congr (by rw [if_neg unnamed]; rfl)

/-- A record of the same seq and feeds closes the same order. -/
theorem State.reportInTime_moves {s : State} {st : Idx} {fr : StrikeReportFrame} {r : TrackRecord} (record : s.record r.seq = some r) :
    Moves s (s.reportInTime st fr r) st fun b =>
      let acked := if b.awaited = .order r.seq then b.unawait.releaseQueue else b
      let closed := acked.close r.seq (reportStatus (r.st.get st).decision fr.outcome)
      if r.seq ∈ closed.abortSet then (closed.leaveAbort r.seq).completeAbort else closed := by
  have record' : (s.reportAsAck st r.seq).record r.seq = some r := by
    rw [← record]
    unfold State.record
    rw [show (s.reportAsAck st r.seq).track = s.track by simp]
  have settled := (s.reportAsAck st r.seq).updField_status r.seq st (f := fun f =>
    { f with report := some { outcome := fr.outcome, e := decodeError fr.ePresent fr.e, advanced := counts fr.advanced },
             status := reportStatus (r.st.get st).decision fr.outcome }) (fun _ => rfl) fun _ => rfl
  have closed := (settled.closed record' (State.leaveInFlight_moves _ st r.seq) (State.release_moves _ st (r.st.get st).feeds)).then
    (State.applyFoilAll_books _ st { slot := r.slot, seq := r.seq, fed := (r.st.get st).feeds, advanced := counts fr.advanced,
                                     breaks := fr.breakMask, whole := true })
  have acked := (s.reportAsAck_moves st r.seq).trans closed
  unfold State.reportInTime
  dsimp only
  split
  · exact (acked.then (State.learn_books _ _ _ _ _ _)).trans (State.reportSettlesAbort_moves _ _ _ _)
  · exact (acked.then (State.raise_books _ _)).trans (State.reportSettlesAbort_moves _ _ _ _)

theorem State.reportLate_books (s : State) (st : Idx) (fr : StrikeReportFrame) (x : OverdueEntry) :
    SameBooks s (s.reportLate st fr x) := by
  have erased := s.updSeqr_books st (f := fun sq => { sq with overdue := sq.overdue.erase x }) fun _ _ _ => rfl
  unfold State.reportLate
  dsimp only
  refine SameBooks.trans ?_ (State.raise_books _ _)
  refine SameBooks.trans ?_ (State.updField_books _ _ _ (fun _ => rfl) fun _ => rfl)
  exact erased.trans (State.applyFoilAll_books _ _ _)

theorem State.strikeReport_sound {s : State} (h : BooksSound s) (st : Idx) (fr : StrikeReportFrame) :
    BooksSound (s.strikeReport st fr) := by
  unfold State.strikeReport
  split
  next r inTime record =>
    have seq := State.record_seq record
    rw [← seq] at record inTime
    have found : (s.book st).find r.seq = some (r.bookEntry st) := by rw [State.book_find, record]; rfl
    have ended := reportStatus_ended (r.st.get st).decision fr.outcome
    refine (State.reportInTime_moves record).sound h ?_
    by_cases awaited : (s.book st).awaited = .order r.seq
    · dsimp only
      have set : ((s.book st).unawait.releaseQueue.close r.seq (reportStatus (r.st.get st).decision fr.outcome)).abortSet = [] := by
        rw [((OrderBook.close_rest _ _ _).2.2.2.2.1), (OrderBook.releaseQueue_rest _).2.2.2.1]
        exact ((h st).free (by rw [awaited]; simp)).1
      rw [if_pos awaited, if_neg (by rw [set]; simp)]
      exact (h st).reportedUnacked awaited ended
    · dsimp only
      rw [if_neg awaited, (OrderBook.close_rest _ _ _).2.2.2.2.1]
      split
      next named => exact (h st).settleAbort named ended
      next unnamed =>
        have acked : (r.st.get st).status = .acked := by
          have unawaited : ¬ (s.seqr.get st).awaited = .order r.seq := awaited
          have unnamed' : r.seq ∉ (s.seqr.get st).abortSet := unnamed
          simpa [State.reportsInTime, unawaited, unnamed', record] using (Bool.and_eq_true_iff.1 inTime).2
        obtain ⟨flies, -, unqueued⟩ := (h st).acked found acked
        exact (h st).close flies ((h st).unaborted flies unnamed) awaited unqueued ended
  · exact (s.reportLate_books st fr _).sound h
  · exact h

/-! ### Aborts (R80 to R83) -/

theorem OrderBook.close_leaveAbort (b : OrderBook) (q p : SeqNo) (x : Status) : (b.leaveAbort p).close q x = (b.close q x).leaveAbort p := by
  unfold OrderBook.close
  rw [show (b.leaveAbort p).find q = b.find q from rfl]
  cases b.find q <;> rfl

theorem State.abortReport_sound {s : State} (h : BooksSound s) (st : Idx) (q : SeqNo) (x : AbortFound) (n : Four Nat) :
    BooksSound (s.abortReport st q x n) := by
  unfold State.abortReport
  split
  next named =>
    have named := (s.aborts_iff st q).1 named
    refine (((s.leaveAbortSet_moves st q).trans (State.closeByAbort_moves _ st q x n)).trans (State.completeAbort_moves _ st)).sound h ?_
    simp only [Function.comp, OrderBook.close_leaveAbort]
    exact (h st).settleAbort named (abortStatus_ended _ _)
  · exact h

theorem State.closeAbortSet_moves (s : State) (st : Idx) :
    Moves s (s.closeAbortSet st) st fun b => { b.closeAll b.abortSet .missed with abortSet := [] } := by
  have step : ∀ (t : State) (q : SeqNo), Moves t ((t.closeUnreported st q .missed).settleContext st q .unknown) st (·.close (id q) .missed) :=
    fun t q => (t.closeUnreported_moves st q .missed).then (State.settleContext_books _ st q _)
  have closed := Moves.closeAll step (s.seqr.get st).abortSet s
  rw [List.map_id] at closed
  exact (closed.trans (State.updSeqr_moves _ st (g := fun b => { b with abortSet := [] }) fun _ _ _ => rfl)).congr rfl

/-- The orders of the abort set closed, nothing is in flight (R82). -/
theorem OrderBook.Sound.closeAborted {b : OrderBook} (h : b.Sound) (aborted : b.awaited = .abort) :
    ({ b.closeAll b.abortSet .missed with abortSet := [] } : OrderBook).unawait.Loose := by
  have set := (h.abort aborted).1
  obtain ⟨line, flying, -, queue, -, -, held, withdrawn⟩ := b.closeAll_rest b.abortSet .missed
  have counted := h.toCounted.closeAll (set ▸ h.once) (fun q hq => set ▸ hq) (x := .missed) (by simp)
  refine OrderBook.Loose.of_empty { counted with } ?_ (queue.trans (h.toAwaits.queue_of_abort aborted)) rfl
    (fun l hl => h.held l (held ▸ hl)) fun w hw => line.trans (h.withdrawn w (withdrawn ▸ hw)).1
  refine flying.trans (List.filter_eq_nil_iff.2 fun q hq => ?_)
  simpa [set] using hq

theorem State.abortTimeout_sound {s : State} (h : BooksSound s) (st : Idx) : BooksSound (s.abortTimeout st) := by
  unfold State.abortTimeout
  split
  next aborted =>
    have closed := ((s.closeAbortSet_moves st).then
      (State.raise_books _ { kind := .noAck, unit := .station st, detail := some .abort })).then (State.unphase_books _ st)
    exact (closed.trans (State.clearAwaited_moves _ st)).released h ((h st).closeAborted aborted)
  · exact h

/-! ### Link loss (R79) -/

theorem State.faultInFlight_moves (s : State) (st : Idx) :
    Moves s (s.faultInFlight st) st fun b => b.closeAll (b.flying.filter fun q => !b.abortSet.contains q) .faulted := by
  have closed := Moves.closeAll (seq := InFlight.seq) (fun t e => State.closeUnreported_moves t st e.seq .faulted)
    ((s.seqr.get st).inFlight.filter fun e => !(s.seqr.get st).abortSet.contains e.seq) s
  refine closed.congr (congrArg (fun l => OrderBook.closeAll _ l .faulted) ?_)
  simp only [State.book, Sequencer.book, List.filter_map]
  rfl

theorem OrderBook.unawait_of_idle {b : OrderBook} (h : b.awaited = .none) : b.unawait = b := by
  obtain ⟨⟩ := b
  cases h
  rfl

/-- After the loss of a carrier nothing is in flight, awaited or queued. -/
theorem OrderBook.Sound.lost {b : OrderBook} (h : b.Sound) {c d : OrderBook}
    (hc : c = b.closeAll (b.flying.filter fun q => !b.abortSet.contains q) .faulted)
    (hd : d = ({ c with awaited := .none, queue := none } : OrderBook).closeAll b.abortSet .missed) :
    ({ d with abortSet := [] } : OrderBook).Sound := by
  have named : ∀ q ∈ b.abortSet, q ∈ b.flying := by
    intro q hq
    by_cases aborted : b.awaited = .abort
    · exact (h.abort aborted).1 ▸ hq
    · rw [(h.free aborted).1] at hq; cases hq
  have once : b.abortSet.Nodup := by
    by_cases aborted : b.awaited = .abort
    · rw [(h.abort aborted).1]; exact h.once
    · rw [(h.free aborted).1]; exact .nil
  obtain ⟨line, flying, -, -, -, -, held, withdrawn⟩ := b.closeAll_rest (b.flying.filter fun q => !b.abortSet.contains q) .faulted
  have counted := h.toCounted.closeAll (l := b.flying.filter fun q => !b.abortSet.contains q) (h.once.filter _) (fun q hq => (List.mem_filter.1 hq).1) (x := .faulted) (by simp)
  rw [← hc] at line flying held withdrawn counted
  have left : c.flying = b.flying.filter fun q => b.abortSet.contains q := by
    rw [flying]
    exact List.filter_congr fun q hq => by by_cases e : q ∈ b.abortSet <;> simp [e, hq]
  have counted' : ({ c with awaited := .none, queue := none } : OrderBook).Counted := { counted with }
  obtain ⟨line', flying', awaited', queue', -, -, held', withdrawn'⟩ :=
    OrderBook.closeAll_rest { c with awaited := .none, queue := none } b.abortSet .missed
  have closed := counted'.closeAll once (fun q hq => left ▸ List.mem_filter.2 ⟨named q hq, by simpa using hq⟩) (x := .missed) (by simp)
  rw [← hd] at line' flying' awaited' queue' held' withdrawn' closed
  have none : d.flying = [] := by
    rw [flying', left]
    refine List.filter_eq_nil_iff.2 fun q hq => ?_
    simpa using (List.mem_filter.1 hq).2
  have loose : ({ d with abortSet := [] } : OrderBook).unawait.Loose := by
    refine OrderBook.Loose.of_empty { closed with } none queue' rfl (fun l hl => h.held l ?_) fun w hw => ?_
    · exact held ▸ held' ▸ hl
    · exact line'.trans (line.trans (h.withdrawn w (withdrawn ▸ withdrawn' ▸ hw)).1)
  rw [OrderBook.unawait_of_idle (b := { d with abortSet := [] }) awaited'] at loose
  exact loose.sound queue'

theorem State.stationLinkLoss_sound {s : State} (h : BooksSound s) (st : Idx) : BooksSound (s.stationLinkLoss st) := by
  unfold State.stationLinkLoss State.loseStationLink
  split
  · dsimp only
    refine (State.raise_books _ _).sound ((State.unphase_books _ _).sound ((State.emptyOverdue_books _ _).sound ?_))
    have faulted := (s.updLink_books st fun _ =>
      { carrier := false, sending := none, waiting := s.framesAfterLoss st Config.linkLossSendsQueued }).moved (State.faultInFlight_moves _ st)
    have idle := faulted.trans (State.updSeqr_moves _ st (f := fun sq => { sq with awaited := .none, queue := none, timer := none })
      (g := fun b => { b with awaited := .none, queue := none }) fun _ _ _ => rfl)
    refine (idle.trans (State.closeAbortSet_moves _ st)).sound h ?_
    refine (h st).lost rfl ?_
    simp only [Function.comp, (OrderBook.closeAll_rest _ _ _).2.2.2.2.1]
  · exact h

/-! ### Trips (R84) -/

theorem State.tripEffects_sound {s : State} (h : BooksSound s) (st : Idx) : BooksSound (s.tripEffects st) := by
  have marked : Moves s (s.updSeqr st fun sq => { sq with tripped := true, beforeTrip := s.tripFinds st }) st fun b =>
      { b with tripped := true, withdrawn := (s.tripFinds st).map fun x => x.withdrawn.map (·.seq) } :=
    s.updSeqr_moves st fun _ _ _ => rfl
  refine ((marked.then (State.unphase_books _ st)).trans (State.requestAbort_moves _ st)).sound h ((h st).trip fun x hx => ?_)
  obtain ⟨found, trip, rfl⟩ := Option.map_eq_some_iff.1 hx
  unfold State.tripFinds at trip
  dsimp only at trip
  split at trip
  next run =>
    cases trip
    refine ⟨run, fun q hq => ?_⟩
    obtain ⟨e, he, rfl⟩ := Option.map_eq_some_iff.1 hq
    obtain ⟨r, hr, rfl⟩ := Option.map_eq_some_iff.1 he
    obtain ⟨p, hp, record⟩ := Option.bind_eq_some_iff.1 hr
    obtain rfl := State.record_seq record
    unfold Sequencer.toWithdraw at hp
    split at hp
    · cases hp
    next something =>
      rw [not_or] at something
      exact ⟨fun e => something.1 ((s.flying_nil st).1 e), something.2, hp⟩
  · cases trip

theorem State.settleTrips_sound {s : State} (h : BooksSound s) : BooksSound s.settleTrips := by
  have all : ∀ (l : List Idx) (s : State), BooksSound s → BooksSound (l.foldl (fun s st =>
      if (s.units.get st).tripped ∧ (s.seqr.get st).tripped = false then s.tripEffects st else s) s) := by
    intro l
    induction l with
    | nil => exact fun _ h => h
    | cons x xs ih =>
      intro s h
      refine ih _ ?_
      dsimp only
      split
      · exact State.tripEffects_sound h x
      · exact h
  exact all Idx.all s h

end Sys2Proof.Machine
end

section
/-! SUPPORT. Commits, restrikes, records that join and leave, and the line's transitions keep every station's book sound (R25 to R31, R63,
R85, R137 to R150). -/

namespace Sys2Proof.Machine

/-! ### Records found in the track -/

theorem BooksSound.distinct {s : State} (h : BooksSound s) : (s.track.map (·.seq)).Nodup := by
  have unique := (h .i0).unique
  rw [show (s.book .i0).entries = s.track.map (·.bookEntry .i0) from rfl, List.map_map] at unique
  exact unique

theorem State.record_of_mem {s : State} (distinct : (s.track.map (·.seq)).Nodup) {r : TrackRecord} (h : r ∈ s.track) :
    s.record r.seq = some r := by
  unfold State.record
  generalize s.track = l at distinct h
  induction l with
  | nil => cases h
  | cons x xs ih =>
    rw [List.map_cons, List.nodup_cons] at distinct
    obtain rfl | h := List.mem_cons.1 h
    · simp [findRecord]
    · have other : x.seq ≠ r.seq := fun e => distinct.1 (e ▸ List.mem_map_of_mem h)
      rw [findRecord, if_neg other]
      exact ih distinct.2 h

/-- A record whose order is not in flight. -/
theorem BooksSound.grounded {s : State} (h : BooksSound s) {r : TrackRecord} (record : s.record r.seq = some r) {st : Idx}
    (unsent : r.ordered st = false) : r.seq ∉ (s.book st).flying := by
  have found : (s.book st).find r.seq = some (r.bookEntry st) := by rw [State.book_find, record]; rfl
  intro flies
  have opened := ((h st).opened _ (OrderBook.find_seq found).2).1 flies
  simp only [TrackRecord.ordered, decide_eq_false_iff_not] at unsent
  exact unsent opened

theorem State.book_listed (s : State) (st : Idx) (q : SeqNo) : (∃ x ∈ (s.book st).entries, x.seq = q) ↔ (s.record q).isSome = true := by
  rw [← OrderBook.find_isSome, State.book_find, Option.isSome_map]

/-! ### Orders that go out (R67, R147) -/

theorem State.laneFeeds_books (s : State) (st : Idx) (r : TrackRecord) : SameBooks s (s.laneFeeds st r).1 := by
  have lane : ∀ (s : State) (c : Idx), SameBooks s (s.laneFeed st r c).1 := by
    intro s c
    unfold State.laneFeed
    split
    · dsimp only
      split
      · split
        · exact .refl s
        · exact s.runOut_books _ _ _
      · exact .refl s
    · exact .refl s
  exact (((lane s .i0).trans (lane _ .i1)).trans (lane _ .i2)).trans (lane _ .i3)

theorem State.feedEffect_books (s : State) (st : Idx) (j : Slot) (q : SeqNo) (c : Idx) : SameBooks s (s.feedEffect st j q c) := by
  have descriptor : ∀ d, SameBooks s (s.setDescriptor j st c d) := fun d => .of_same (by simp) (by simp) (by simp) (by simp)
  have struck : ∀ t : State, SameBooks t (t.updRecord q fun r => { r with firstOff := r.firstOff.upd st fun row => row.set c true }) :=
    fun t => t.updRecord_books q fun _ _ => rfl
  have offer : ∀ (t : State) n, SameBooks t (t.offer n) := fun t n => .of_same rfl rfl rfl rfl
  unfold State.feedEffect
  split
  · split
    · exact ((descriptor _).trans (struck _)).trans (offer _ _)
    · exact (descriptor _).trans (offer _ _)
    · exact .refl s
  · exact .refl s

theorem State.orderFoil_moves (s : State) (st : Idx) (j : Slot) (q : SeqNo) (feed : Four Nat) :
    Moves s (s.orderFoil st j q feed) st (·.reserve feed) := by
  refine (s.reserve_moves st feed).then (SameBooks.foldl _ (fun s c => ?_) _ _)
  split
  · exact s.feedEffect_books st j q c
  · exact .refl s

theorem State.launch_moves (s : State) (st : Idx) (q : SeqNo) (phasing restrike : Bool) :
    Moves s (s.launch st q phasing restrike) st fun b => ({ b with flying := b.flying ++ [q] } : OrderBook).issue q := by
  have listed : Moves s (s.updSeqr st fun sq => { sq with inFlight := sq.inFlight ++ [{ seq := q, phasing, restrike }] }) st
      fun b => { b with flying := b.flying ++ [q] } := by
    refine s.updSeqr_moves st fun _ _ _ => ?_
    simp [Sequencer.book]
  exact listed.trans (State.issue_moves _ st q)

/-- The record's field with its new order. -/
theorem State.updField_ordered (s : State) (q : SeqNo) (st : Idx) {f : StationField → StationField} {feeds : Four Nat}
    (status : ∀ y, (f y).status = .committed) (fed : ∀ y, (f y).feeds = feeds) :
    Moves s (s.updField q st f) st (·.change q fun e => { e with status := .committed, feeds := feeds }) := by
  refine s.updField_moves q st fun r => ?_
  simp [TrackRecord.bookEntry, TrackRecord.updStation, status, fed]

theorem State.commitWatched_books (s : State) (st : Idx) (q : SeqNo) : SameBooks s (s.commitWatched st q) := by
  refine Marked.books (Marked.foldl _ (fun s w => ?_) _ s) (by simp) (by simp) fun v c => by rw [State.lane_of_lanes (s := s) (by simp)]
  dsimp only
  split
  · exact s.meetWatch_marked w _
  · exact .of_track rfl

theorem State.commitFaults_books (s : State) (st : Idx) (q : SeqNo) (a : Aim) (d : Decision) (f : Option FaultKind) :
    SameBooks s (s.commitFaults st q a d f) := by
  have warned : ∀ t : State, SameBooks t (if a.residual = .clamped ∧ (d = .strike ∨ d = .dry) then
      t.raise { kind := .clampInTol, unit := .station st, seq := some q, target := some a.target } else t) := by
    intro t
    split
    · exact t.raise_books _
    · exact .refl t
  unfold State.commitFaults
  cases f with
  | none => exact warned s
  | some k => exact (s.raise_books _).trans (warned _)

theorem State.decide5_books (s : State) (st : Idx) (r : TrackRecord) (e : StationEntry) (a : Aim) :
    SameBooks s (s.decide5 st r e a).after := by
  unfold State.decide5
  split
  · exact .refl s
  · split
    · exact s.laneFeeds_books st r
    · exact .refl s

theorem State.commitOrder_moves (s : State) (st : Idx) (r : TrackRecord) (e : StationEntry) :
    ∃ feed, Moves s (s.commitOrder st r e) st fun b => (b.join r.seq feed).issue r.seq := by
  unfold State.commitOrder
  dsimp only
  generalize (s.calcs.get st).aim r e (s.globals r.slot).p = a
  have unphased : SameBooks s (if a.phasing then s.unphase st else s) := by
    split
    · exact s.unphase_books st
    · exact .refl s
  generalize (if a.phasing then s.unphase st else s) = s0 at unphased
  have decided := unphased.trans (s0.decide5_books st r e a)
  generalize s0.decide5 st r e a = x at decided
  have ordered := x.after.updField_ordered r.seq st (f := fun f =>
    { f with decision := x.decision, status := .committed, target := some a.target, feed := some x.feed })
    (feeds := x.feed) (fun _ => rfl) fun _ => rfl
  have reserved := ((decided.moved ordered).trans (State.orderFoil_moves _ st r.slot r.seq x.feed)).then
    (State.updCalc_books _ st fun c =>
      { c with last := some { target := a.target, seq := r.seq, slot := r.slot }, missed := 0 })
  refine ⟨x.feed, ?_⟩
  have launched := (reserved.trans (State.launch_moves _ st r.seq a.phasing false)).then
    (State.commitFaults_books _ st r.seq a x.decision x.fault)
  exact (launched.then (State.commitWatched_books _ st r.seq)).congr rfl

theorem State.commitMissed_moves (s : State) (st : Idx) (q : SeqNo) (overrun : Bool) :
    Moves s (s.commitMissed st q overrun) st (·.setStatus q .missed) := by
  have missed := (s.updField_status q st (f := fun f => { f with status := .missed }) (fun _ => rfl) fun _ => rfl).then
    (State.updCalc_books _ st fun c => { c with missed := min (c.missed + 1) Config.gapLimit })
  unfold State.commitMissed
  dsimp only
  split
  · exact (missed.then (State.raise_books _ _)).then (State.commitWatched_books _ _ _)
  · exact missed.then (State.commitWatched_books _ _ _)

theorem State.commitRecord_sound {s : State} (h : BooksSound s) {st : Idx} {r : TrackRecord} (record : s.record r.seq = some r)
    (pending : (r.st.get st).status = .pending) : BooksSound (s.commitRecord st r) := by
  have idle := h.grounded record (st := st) (by simp [TrackRecord.ordered, pending])
  have missed : ∀ b, BooksSound (s.commitMissed st r.seq b) := fun b =>
    (s.commitMissed_moves st r.seq b).sound h ((h st).pass idle (by simp))
  have listed := (s.book_listed st r.seq).2 (by rw [record]; rfl)
  unfold State.commitRecord
  split
  · exact missed false
  next run =>
    split
    · exact missed false
    next standing =>
      split
      · exact missed true
      next room =>
        split
        next e _ =>
          obtain ⟨feed, moves⟩ := s.commitOrder_moves st r e
          have run : (s.book st).line = .run := of_not_not run
          have unaborted : (s.book st).awaited ≠ .abort := fun aborted => standing (.inl (((h st).abort aborted).2.2 run))
          have flying : (s.book st).flying.length = (s.seqr.get st).inFlight.length := List.length_map _
          refine moves.sound h ((h st).launch run unaborted listed idle ?_ feed)
          rw [flying]
          exact Nat.not_le.1 room
        · exact h

theorem State.commitDue_pending {s : State} {st : Idx} {r : TrackRecord} (due : s.commitDue st r = true) :
    (r.st.get st).status = .pending := by
  unfold State.commitDue at due
  split at due
  · assumption
  · cases due

theorem State.commitIfReached_sound {s : State} (h : BooksSound s) (st : Idx) (q : SeqNo) : BooksSound (s.commitIfReached st q) := by
  unfold State.commitIfReached
  split
  next r record =>
    obtain rfl := State.record_seq record
    split
    next due => exact State.settleTrips_sound (State.commitRecord_sound h record (State.commitDue_pending due))
    · exact h
  · exact h

theorem State.commitTurn_due {s : State} {st : Idx} {r : TrackRecord} (turn : s.commitTurn st = some r) :
    r ∈ s.track ∧ s.commitDue st r = true := by
  unfold State.commitTurn at turn
  split at turn
  · cases turn
  · exact ⟨List.mem_of_find?_eq_some turn, by simpa using List.find?_some turn⟩

theorem State.deadlineTurn_due {s : State} {st : Idx} {r : TrackRecord} (turn : s.deadlineTurn st = some r) :
    r ∈ s.track ∧ s.deadlineScheduled st r = true := by
  have due : s.deadlineDue st r = true := by simpa using List.find?_some turn
  exact ⟨List.mem_of_find?_eq_some turn, (Bool.and_eq_true_iff.1 due).1⟩

/-! ### Restrikes (R100, R146, R147) -/

theorem State.recheckFeeds_books (s : State) (st : Idx) (e : ContextEntry) : SameBooks s (s.recheckFeeds st e).1 := by
  have lane : ∀ (s : State) (c : Idx), SameBooks s (s.recheckFeed st e c).1 := by
    intro s c
    unfold State.recheckFeed
    dsimp only
    split
    · exact .refl s
    · split
      · exact s.runOut_books _ _ _
      · split
        · split
          · split
            · exact .refl s
            · exact .refl s
          · exact .refl s
        · exact .refl s
  exact (((lane s .i0).trans (lane _ .i1)).trans (lane _ .i2)).trans (lane _ .i3)

theorem State.restrike_moves (s : State) (st : Idx) (e : ContextEntry) :
    ∃ feed, Moves s (s.restrike st e) st fun b => (b.join e.seq feed).issue e.seq := by
  have rechecked := s.recheckFeeds_books st e
  unfold State.restrike
  dsimp only
  generalize s.recheckFeeds st e = x at rechecked
  have ordered := (rechecked.moved (State.orderFoil_moves x.1 st e.slot e.seq x.2)).trans
    (State.updField_ordered _ e.seq st (f := fun f =>
      { f with decision := s.restrikeDecision st e x.2, status := .committed, target := some e.target, feed := some x.2, report := none })
      (feeds := x.2) (fun _ => rfl) fun _ => rfl)
  exact ⟨x.2, (ordered.trans (State.launch_moves _ st e.seq false true)).congr rfl⟩

namespace OrderBook

theorem transmit_rest (b : OrderBook) (q : SeqNo) : (b.transmit q).line = b.line ∧ (b.transmit q).flying = b.flying ∧
    (b.awaited ≠ .abort → (b.transmit q).awaited ≠ .abort) := by
  unfold transmit
  split <;> simp

theorem issue_rest (b : OrderBook) (q : SeqNo) : (b.issue q).line = b.line ∧ (b.issue q).flying = b.flying ∧
    (b.awaited ≠ .abort → (b.issue q).awaited ≠ .abort) := by
  unfold issue
  split
  · exact b.transmit_rest q
  · exact ⟨rfl, rfl, id⟩

end OrderBook

/-- Entries of a hold context are re-ordered one after the other. -/
theorem restrikeFold_sound (st : Idx) (l : List ContextEntry) : ∀ {s : State}, BooksSound s → (s.book st).line = .run →
    (s.book st).awaited ≠ .abort → (s.book st).flying.length + l.length ≤ 2 → (∀ e ∈ l, e.seq ∉ (s.book st).flying) →
    (l.map (·.seq)).Nodup → BooksSound (l.foldl (fun s e => if s.restrikes e then s.restrike st e else s) s) ∧
      ∀ v, v ≠ st → (l.foldl (fun s e => if s.restrikes e then s.restrike st e else s) s).book v = s.book v := by
  induction l with
  | nil => exact fun h _ _ _ _ _ => ⟨h, fun _ _ => rfl⟩
  | cons e es ih =>
    intro s h run unaborted room idle once
    rw [List.length_cons] at room
    obtain ⟨fresh, once⟩ := List.nodup_cons.1 once
    rw [List.foldl_cons]
    split
    next struck =>
      obtain ⟨feed, moves⟩ := s.restrike_moves st e
      have listed : (s.record e.seq).isSome = true := by
        unfold State.restrikes at struck
        exact (Bool.and_eq_true_iff.1 (Bool.and_eq_true_iff.1 struck).1).2
      have sound := moves.sound h ((h st).launch run unaborted ((s.book_listed st e.seq).2 listed) (idle e (.head _)) (by omega) feed)
      obtain ⟨line, flying, awaited⟩ := ((s.book st).join e.seq feed).issue_rest e.seq
      have joined : (((s.book st).join e.seq feed).issue e.seq).flying = (s.book st).flying ++ [e.seq] := flying
      obtain ⟨done, others⟩ := ih (s := s.restrike st e) sound (by rw [moves.book]; exact line.trans run)
        (by rw [moves.book]; exact awaited unaborted) (by rw [moves.book, joined, List.length_append, List.length_singleton]; omega)
        (fun x hx => by
          rw [moves.book, joined, List.mem_append, List.mem_singleton, not_or]
          exact ⟨idle x (.tail _ hx), fun same => fresh (List.mem_map.2 ⟨x, hx, same⟩)⟩) once
      exact ⟨done, fun v hv => (others v hv).trans (moves.elsewhere hv)⟩
    · exact ih h run unaborted (by omega) (fun x hx => idle x (.tail _ hx)) once

theorem State.restrikeStation_sound {s : State} {st : Idx} (h : BooksSound s) (run : (s.book st).line = .run)
    (unaborted : (s.book st).awaited ≠ .abort) (landed : (s.book st).flying = []) :
    BooksSound (s.restrikeStation st) ∧ ∀ v, v ≠ st → (s.restrikeStation st).book v = s.book v := by
  have held : (s.entries st).length ≤ 2 ∧ ((s.entries st).map (·.seq)).Nodup := by
    unfold State.entries
    split
    next c context =>
      have known : (s.book st).held = some (c.entries.map (·.seq)) := by
        show (s.seqr.get st).context.map _ = _
        rw [context]
        rfl
      have := (h st).held _ known
      rwa [List.length_map] at this
    · exact ⟨by simp, .nil⟩
  refine restrikeFold_sound st _ h run unaborted (by rw [landed]; simpa using held.1) (fun e _ => ?_) held.2
  rw [landed]
  exact List.not_mem_nil

/-! ### The line's transitions -/

/-- The line takes a state, nothing being in flight. -/
theorem OrderBook.Sound.relined {b : OrderBook} (h : b.Sound) (off : b.line ≠ .run) (unaborted : b.awaited ≠ .abort) (l : LineState) :
    ({ b with line := l } : OrderBook).Sound :=
  { h.toCounted with
    order := h.order
    queued := h.queued
    abort := fun aborted => absurd aborted unaborted
    free := fun _ => ⟨(h.free unaborted).1, fun _ => (h.free unaborted).2 off⟩
    held := h.held
    withdrawn := fun w hw => absurd (h.withdrawn w hw).1 off }

theorem State.setLine_sound {s : State} (h : BooksSound s) (off : s.line ≠ .run) (unaborted : ∀ v, (s.seqr.get v).awaited ≠ .abort)
    (l : LineState) : BooksSound { s with line := l } := fun v => (h v).relined off (unaborted v) l

/-- The hold contexts are dropped. -/
theorem OrderBook.Sound.unheld {b : OrderBook} (h : b.Sound) : ({ b with held := none } : OrderBook).Sound :=
  { h with held := fun _ hl => by cases hl }

theorem State.dropContexts_sound {s : State} (h : BooksSound s) : BooksSound s.dropContexts := fun v => by
  have dropped : s.dropContexts.book v = { s.book v with held := none } := by
    simp [State.dropContexts, State.book, Sequencer.book, State.lane]
  rw [dropped]
  exact (h v).unheld

theorem State.abortOutstanding_false {s : State} (h : s.abortOutstanding = false) (v : Idx) : (s.seqr.get v).awaited ≠ .abort := by
  unfold State.abortOutstanding at h
  rw [List.any_eq_false] at h
  simpa using h v (idx_mem_all v)

theorem State.loadTrim_books (s : State) (st : Idx) : SameBooks s (s.loadTrim st) := by
  unfold State.loadTrim
  split
  · exact s.setTrim_books _ _
  · exact .refl s

theorem State.resumeLine_sound {s : State} (h : BooksSound s) (hold : s.line = .hold) (unaborted : ∀ v, (s.seqr.get v).awaited ≠ .abort) :
    BooksSound s.resumeLine := by
  have off : s.line ≠ .run := by rw [hold]; decide
  have stations : ∀ (l : List Idx), l.Nodup → ∀ t : State, BooksSound t →
      (∀ v ∈ l, (t.book v).line = .run ∧ (t.book v).awaited ≠ .abort ∧ (t.book v).flying = []) →
      BooksSound (l.foldl (fun s st => s.restrikeStation st) t) := by
    intro l
    induction l with
    | nil => exact fun _ _ h _ => h
    | cons x xs ih =>
      intro once t ht before
      obtain ⟨fresh, once⟩ := List.nodup_cons.1 once
      obtain ⟨run, idle, landed⟩ := before x (.head _)
      obtain ⟨done, others⟩ := State.restrikeStation_sound ht run idle landed
      refine ih once _ done fun v hv => ?_
      rw [others v (by rintro rfl; exact fresh hv)]
      exact before v (.tail _ hv)
  have loaded : SameBooks { s with line := .run } (Idx.all.foldl (fun s st => s.loadTrim st) { s with line := .run }) :=
    SameBooks.foldl _ (fun s st => s.loadTrim_books st) _ _
  unfold State.resumeLine
  dsimp only
  refine (State.reversalTest_books _).sound (State.dropContexts_sound (stations Idx.all (by decide) _ ?_ fun v _ => ?_))
  · exact loaded.sound (State.setLine_sound h off unaborted .run)
  · rw [loaded v]
    exact ⟨rfl, unaborted v, ((h v).free (unaborted v)).2 off⟩

theorem State.contextOf_seqs {s : State} (h : BooksSound s) (st : Idx) :
    ((s.contextOf st).entries.map (·.seq)).length ≤ 2 ∧ ((s.contextOf st).entries.map (·.seq)).Nodup := by
  have flying : (((s.seqr.get st).inFlight.filterMap fun e => (s.record e.seq).map (·.contextEntry st)).map (·.seq)) = (s.book st).flying := by
    have known : ∀ e ∈ (s.seqr.get st).inFlight, (s.record e.seq).isSome = true := fun e he =>
      (s.book_listed st e.seq).1 ((h st).listed _ (s.mem_flying st e he))
    show _ = (s.seqr.get st).inFlight.map (·.seq)
    generalize (s.seqr.get st).inFlight = l at known
    induction l with
    | nil => rfl
    | cons e es ih =>
      obtain ⟨r, hr⟩ := Option.isSome_iff_exists.1 (known e (.head _))
      rw [List.filterMap_cons, hr]
      simp only [Option.map_some, List.map_cons, ih fun x hx => known x (.tail _ hx)]
      exact congrArg (· :: _) (State.record_seq hr)
  unfold State.contextOf
  dsimp only
  rw [List.map_append, flying]
  cases trip : (s.tripWithHold st).bind (·.withdrawn) with
  | none => simpa using ⟨(h st).few, (h st).once⟩
  | some x =>
    obtain ⟨b, hb, withdrawn⟩ := Option.bind_eq_some_iff.1 trip
    obtain ⟨before, together⟩ := Option.filter_eq_some_iff.1 hb
    have found : (s.book st).withdrawn = some (some x.seq) := by
      show (s.seqr.get st).beforeTrip.map _ = _
      rw [before, Option.map_some, withdrawn]
      rfl
    have room : (s.book st).flying.length < 2 ∧ x.seq ∉ (s.book st).flying := by
      obtain aborted | ⟨nothing, -⟩ := of_decide_eq_true together
      · exact ((h st).withdrawn _ found).2 aborted _ rfl
      · rw [(s.flying_nil st).2 nothing]
        simp
    simp only [Option.toList_some, List.map_cons, List.map_nil, List.length_append, List.length_singleton]
    exact ⟨by omega, List.nodup_append.2 ⟨(h st).once, List.nodup_singleton _, by
      rintro p hp y hy rfl
      exact room.2 (List.mem_singleton.1 hy ▸ hp)⟩⟩

theorem State.enterHold_sound {s : State} (h : BooksSound s) : BooksSound s.enterHold := by
  have saved : ∀ v, (({ s with line := .hold } : State).saveContexts).book v =
      { s.book v with line := .hold, held := some ((s.contextOf v).entries.map (·.seq)), withdrawn := none } := by
    intro v
    simp only [State.saveContexts, State.book, Sequencer.book, Four.get_tab, State.lane]
    rfl
  have requested : ∀ v, (Idx.all.foldl (fun s st => s.requestAbort st) ({ s with line := .hold } : State).saveContexts).book v =
      ((({ s with line := .hold } : State).saveContexts).book v).requestAbort :=
    Moves.all (f := fun _ b => b.requestAbort) State.requestAbort_moves _
  have offered : ∀ t : State, SameBooks t (t.deassertStop.offer .holdEntered) := fun t => .of_same rfl rfl rfl rfl
  refine (offered _).sound fun v => ?_
  rw [requested, saved]
  obtain ⟨few, once⟩ := State.contextOf_seqs h v
  exact (h v).hold few once

/-! ### Records that join and leave (R25, R30) -/

theorem State.appendRecord_sound {s : State} {r : TrackRecord} (h : BooksSound s) (fresh : r.seq ∉ s.track.map (·.seq))
    (unsent : ∀ v, r.ordered v = false) : BooksSound (s.appendRecord r) := fun v => by
  have joined : (s.appendRecord r).book v = { s.book v with entries := (s.book v).entries ++ [r.bookEntry v] } := by
    simp only [State.appendRecord, State.book, Sequencer.book, List.map_append, List.map_cons, List.map_nil, State.lane]
  have seqs : (s.book v).entries.map (·.seq) = s.track.map (·.seq) := by
    show (s.track.map _).map _ = _
    rw [List.map_map]
    rfl
  rw [joined]
  refine (h v).append (by rw [seqs]; exact fresh) fun opened => ?_
  have := unsent v
  simp only [TrackRecord.ordered, decide_eq_false_iff_not] at this
  exact this opened

theorem State.leaveStation_moves (s : State) (r : TrackRecord) (st : Idx) :
    Moves s (s.leaveStation r st) st fun b => if r.ordered st then b.depart r.seq (r.st.get st).feeds else b := by
  have departs : r.ordered st = true → Moves s
      (let s1 := ((s.leaveInFlight st r.seq).release st (r.st.get st).feeds).pushOverdue st (r.overdueCopy st)
       let s2 := if (s1.seqr.get st).queue = some r.seq then s1.updSeqr st fun sq => { sq with queue := none }
        else if (s1.seqr.get st).awaited = .order r.seq then (s1.clearAwaited st).releaseQueue st else s1
       if (s2.seqr.get st).abortSet.contains r.seq then
        ((s2.leaveAbortSet st r.seq).settleContext st r.seq .unknown).completeAbort st else s2) st
      fun b => if r.ordered st then b.depart r.seq (r.st.get st).feeds else b := by
    intro sent
    have left := ((s.leaveInFlight_moves st r.seq).trans (State.release_moves _ st (r.st.get st).feeds)).then
      (State.pushOverdue_books _ st (r.overdueCopy st))
    dsimp only
    generalize ((s.leaveInFlight st r.seq).release st (r.st.get st).feeds).pushOverdue st (r.overdueCopy st) = s1 at left ⊢
    have queue : (s1.seqr.get st).queue = (s1.book st).queue := rfl
    have awaited : (s1.seqr.get st).awaited = (s1.book st).awaited := rfl
    have moved : Moves s1 (if (s1.seqr.get st).queue = some r.seq then s1.updSeqr st fun sq => { sq with queue := none }
        else if (s1.seqr.get st).awaited = .order r.seq then (s1.clearAwaited st).releaseQueue st else s1) st
        fun b => if b.queue = some r.seq then b.unqueue else if b.awaited = .order r.seq then b.unawait.releaseQueue else b := by
      split
      next h =>
        refine Moves.congr (f := OrderBook.unqueue) (s1.updSeqr_moves st fun _ _ _ => rfl) ?_
        rw [if_pos (queue ▸ h)]
      next h =>
        split
        next h' =>
          refine ((s1.clearAwaited_moves st).trans (State.releaseQueue_moves _ st)).congr ?_
          rw [if_neg (queue ▸ h), if_pos (awaited ▸ h')]
          rfl
        next h' =>
          refine ((SameBooks.refl s1).moves st).congr ?_
          rw [if_neg (queue ▸ h), if_neg (awaited ▸ h')]
          rfl
    generalize (if (s1.seqr.get st).queue = some r.seq then s1.updSeqr st fun sq => { sq with queue := none }
        else if (s1.seqr.get st).awaited = .order r.seq then (s1.clearAwaited st).releaseQueue st else s1) = s2 at moved ⊢
    have settled : Moves s2 (if (s2.seqr.get st).abortSet.contains r.seq then
        ((s2.leaveAbortSet st r.seq).settleContext st r.seq .unknown).completeAbort st else s2) st
        fun b => if r.seq ∈ b.abortSet then (b.leaveAbort r.seq).completeAbort else b := by
      split
      next h =>
        refine (((s2.leaveAbortSet_moves st r.seq).then (State.settleContext_books _ st r.seq _)).trans
          (State.completeAbort_moves _ st)).congr ?_
        rw [if_pos ((s2.aborts_iff st r.seq).1 h)]
        rfl
      next h =>
        refine ((SameBooks.refl s2).moves st).congr ?_
        rw [if_neg (mt (s2.aborts_iff st r.seq).2 h)]
        rfl
    refine ((left.trans moved).trans settled).congr ?_
    rw [if_pos sent]
    rfl
  unfold State.leaveStation
  dsimp only
  split
  next status => exact departs (by simp [TrackRecord.ordered, status])
  next status => exact departs (by simp [TrackRecord.ordered, status])
  next committed acked =>
    refine ((SameBooks.refl s).moves st).congr ?_
    rw [if_neg (by simpa [TrackRecord.ordered] using ⟨committed, acked⟩)]
    rfl

theorem TrackRecord.finalize_field (r : TrackRecord) (final : Status) (v : Idx) :
    (r.finalize final).bookEntry v =
      { r.bookEntry v with status := if (r.st.get v).status.final then (r.st.get v).status else final } := by
  simp only [TrackRecord.finalize, TrackRecord.bookEntry, Four.get_tab]
  split <;> rfl

theorem State.leaveHead_sound {s : State} (h : BooksSound s) {final : Status} (ended : ¬ (final = .committed ∨ final = .acked)) :
    BooksSound (s.leaveHead final) := by
  cases track : s.track with
  | nil => rw [State.leaveHead_nil track]; exact h
  | cons r rs =>
    have record : s.record r.seq = some r := by simp [State.record, track, findRecord]
    have distinct := h.distinct
    rw [track, List.map_cons, List.nodup_cons] at distinct
    -- every book with the head's status settled
    have settled : ∀ v, ({ s with track := r.finalize final :: rs } : State).book v =
        (s.book v).setStatus r.seq (if (r.st.get v).status.final then (r.st.get v).status else final) := by
      intro v
      simp only [State.book, Sequencer.book, OrderBook.setStatus, OrderBook.change, track, List.map_cons, TrackRecord.finalize_field,
        List.map_map]
      refine congrArg₂ (fun (e : BookEntry) (l : List BookEntry) => ({ (s.book v) with entries := e :: l } : OrderBook)) ?_ ?_
      · exact (if_pos rfl).symm
      · refine List.map_congr_left fun x hx => ?_
        simp only [Function.comp]
        rw [if_neg]
        exact fun same => distinct.1 (same ▸ List.mem_map_of_mem hx)
    have left : ∀ v, (s.headSettled r rs final).book v = _ := Moves.all (f := fun v b => if r.ordered v then _ else b)
      (fun t v => t.leaveStation_moves r v) _
    have tail : ∀ v, ({ s.headSettled r rs final with track := rs } : State).book v =
        { (s.headSettled r rs final).book v with entries := rs.map (·.bookEntry v) } := fun _ => rfl
    have still : (s.headSettled r rs final).track = r.finalize final :: rs := by
      unfold State.headSettled
      exact foldl_same State.track _ (fun s st => by simp) _ _
    have goes : BooksSound { s.headSettled r rs final with track := rs } := by
      intro v
      have found : (s.book v).find r.seq = some (r.bookEntry v) := by rw [State.book_find, record]; rfl
      have sound : ((s.headSettled r rs final).book v).Sound ∧ r.seq ∉ ((s.headSettled r rs final).book v).flying := by
        rw [left v, settled v]
        split
        next sent =>
          have open_ : ¬ (r.st.get v).status.final = true := by
            obtain status | status := of_decide_eq_true sent <;> simp [status, Status.final]
          rw [if_neg open_]
          have opened : (r.st.get v).status = .committed ∨ (r.st.get v).status = .acked := by simpa [TrackRecord.ordered] using sent
          have flies := ((h v).opened _ (OrderBook.find_seq found).2).2 opened
          exact (h v).depart flies found ended
        next unsent =>
          have idle := h.grounded record (Bool.eq_false_iff.2 unsent)
          refine ⟨(h v).pass idle ?_, idle⟩
          split
          · simpa [TrackRecord.ordered] using unsent
          · exact ended
      rw [tail v]
      refine sound.1.tail (x := (r.finalize final).bookEntry v) ?_ sound.2
      show (s.headSettled r rs final).track.map _ = _
      rw [still, List.map_cons]
    rw [State.leaveHead_cons track]
    exact (SameBooks.of_same (by simp) (by simp) (by simp) (by simp)).sound goes

theorem retireLoop_sound (n : Nat) {s : State} (h : BooksSound s) : BooksSound (retireLoop n s) := by
  induction n generalizing s with
  | zero => exact h
  | succ n ih =>
    unfold retireLoop
    split
    · exact ih (State.leaveHead_sound h (by simp))
    · exact h

theorem State.emptyTrack_sound {s : State} (h : BooksSound s) : BooksSound s.emptyTrack := by
  have loop : ∀ (n : Nat) {s : State}, BooksSound s → BooksSound (emptyLoop n s) := by
    intro n
    induction n with
    | zero => exact fun h => h
    | succ n ih => exact fun h => ih (State.leaveHead_sound h (by simp))
  exact loop _ h

/-! ### Resets (R85, R101, R149, R150) -/

/-- A station's book once its orders are closed at a reset. -/
def OrderBook.cleared (b : OrderBook) : OrderBook :=
  { b.closeAll b.flying .missed with
    flying := [], awaited := .none, queue := none, abortSet := [], tripped := false, withdrawn := none, reserved := fun _ => 0 }

theorem OrderBook.Sound.cleared {b : OrderBook} (h : b.Sound) : b.cleared.Sound := by
  obtain ⟨line, flying, -, -, -, -, held, -⟩ := b.closeAll_rest b.flying .missed
  have counted := h.toCounted.closeAll h.once (fun _ hq => hq) (x := .missed) (by simp)
  have none : (b.closeAll b.flying .missed).flying = [] := by
    rw [flying]
    exact List.filter_eq_nil_iff.2 fun q hq => by simpa using hq
  refine
    { unique := counted.unique, few := Nat.zero_le _, once := .nil, listed := fun q hq => (by cases hq), opened := ?_,
      foil := fun c => rfl, order := fun q hq => (by cases hq), queued := fun q hq => (by cases hq),
      abort := fun ha => (by cases ha), free := fun _ => ⟨rfl, fun _ => rfl⟩, held := fun l hl => h.held l (held ▸ hl),
      withdrawn := fun w hw => (by cases hw) }
  intro x hx
  have := counted.opened x hx
  rwa [none] at this

theorem State.missInFlight_moves (s : State) (st : Idx) : Moves s (s.missInFlight st) st fun b => b.closeAll b.flying .missed := by
  have step : ∀ (t : State) (e : InFlight), Moves t ((t.closeAtReset st e.seq).settleContext st e.seq .unknown) st (·.close e.seq .missed) :=
    fun t e => (t.closeAtReset_moves st e.seq).then (State.settleContext_books _ st e.seq _)
  exact (Moves.closeAll step (s.seqr.get st).inFlight s).congr rfl

theorem State.unreserve_moves (s : State) (st : Idx) : Moves s (s.unreserve st) st fun b => { b with reserved := fun _ => 0 } := by
  intro v
  show Sequencer.book _ _ _ _ = _
  simp only [State.lane, State.unreserve, State.updLanes, Four.get_upd]
  split
  next same => subst same; simp [State.book, Sequencer.book]
  · rfl

theorem State.resetStation_moves (s : State) (st : Idx) : Moves s (s.resetStation st) st (·.cleared) := by
  have missed := (s.missInFlight_moves st).then (State.emptyOverdue_books _ st)
  have cleared := (missed.trans (State.updSeqr_moves _ st (f := Sequencer.cleared) (g := fun b =>
    { b with flying := [], awaited := .none, queue := none, abortSet := [], tripped := false, withdrawn := none }) fun _ _ _ => rfl)).then
    (State.updLink_books _ st Link.withdraw)
  exact ((cleared.trans (State.unreserve_moves _ st)).then (State.unphase_books _ st)).congr rfl

theorem State.resetOne_sound {s : State} (h : BooksSound s) (st : Idx) : BooksSound (s.resetOne st) := by
  have unit : SameBooks s (s.setUnit (.station st) (s.units.get st).stationReset) := .of_same rfl rfl rfl rfl
  have emptied : ∀ t : State, Moves t (t.updContext st fun c => { c with entries := [] }) st
      fun b => { b with held := b.held.map fun _ => [] } := fun t => t.updSeqr_moves st fun _ _ _ => by
    simp only [Sequencer.book, Option.map_map]
    rfl
  refine ((unit.moved (State.resetStation_moves _ st)).trans (emptied _)).sound h { (h st).cleared with held := fun l hl => ?_ }
  obtain ⟨_, _, rfl⟩ := Option.map_eq_some_iff.1 hl
  simp

theorem State.resetLine_sound {s : State} (h : BooksSound s) : BooksSound s.resetLine := by
  have rest : ∀ t : State, SameBooks t (({ t with units := .all .reset, lineUnit := .reset } : State).deassertStop) :=
    fun t => .of_same rfl rfl rfl rfl
  have reader : SameBooks s.emptyTrack { s.emptyTrack with reader := .reset, splices := [] } := .of_same rfl rfl rfl rfl
  unfold State.resetLine
  dsimp only
  refine (rest _).sound (State.dropContexts_sound fun v => ?_)
  rw [Moves.all (f := fun _ b => b.cleared) State.resetStation_moves]
  exact (reader.sound (State.emptyTrack_sound h) v).cleared

theorem State.stopLine_sound {s : State} (h : BooksSound s) (off : s.line ≠ .run) (unaborted : ∀ v, (s.seqr.get v).awaited ≠ .abort) :
    BooksSound s.stopLine := by
  have reader : ∀ t : State, SameBooks t { t with reader := .reset, splices := [] } := fun t => .of_same rfl rfl rfl rfl
  have deasserted : ∀ t : State, SameBooks t t.deassertStop := fun t => .of_same rfl rfl rfl rfl
  exact (deasserted _).sound (State.dropContexts_sound ((reader _).sound (State.emptyTrack_sound (State.setLine_sound h off unaborted _))))

theorem State.startLine_sound {s : State} (h : BooksSound s) (stopped : s.line = .stopped) : BooksSound s.startLine := by
  have rest : ∀ t : State, SameBooks t { t.unphaseAll with reader := .cleared .acquire } := fun t => .of_same rfl rfl rfl rfl
  refine (State.reversalTest_books _).sound ((rest _).sound (State.setLine_sound h (by rw [stopped]; decide) (fun v aborted => ?_) .run))
  exact ((h v).abort aborted).2.1 stopped

end Sys2Proof.Machine
end

section
/-! SUPPORT. What a change keeps of the orders in flight, the trips, STOP REQUEST, the notices and the watch units, with each shared
operation and what it keeps of them. -/

namespace Sys2Proof.Machine

/-! ### The orders and their books -/

/-- A run of fewer seqs than there are holds each of them once (R3). -/
theorem seqRun_get (q : SeqNo) (n i : Nat) (h : i < (seqRun q n).length) : (seqRun q n)[i] = q + BitVec.ofNat 16 i := by
  induction n generalizing q i with
  | zero => cases h
  | succ n ih =>
    cases i with
    | zero => simp [seqRun]
    | succ i =>
      simp only [seqRun, List.getElem_cons_succ]
      rw [ih]
      bv_omega

theorem seqRun_length (q : SeqNo) (n : Nat) : (seqRun q n).length = n := by
  induction n generalizing q with
  | zero => rfl
  | succ n ih => rw [seqRun, List.length_cons, ih]

theorem seqRun_nodup (q : SeqNo) {n : Nat} (h : n ≤ Config.trackCapacity) : (seqRun q n).Nodup := by
  refine List.pairwise_iff_getElem.2 fun i j hi hj less => ?_
  rw [seqRun_get, seqRun_get]
  rw [seqRun_length] at hi hj
  simp only [Config.trackCapacity] at h
  bv_omega

/-- The next seq is that of no record (R23). -/
theorem seqRun_fresh (q : SeqNo) {n : Nat} (h : n ≤ Config.trackCapacity) : q ∉ seqRun (q - BitVec.ofNat 16 n) n := by
  intro mem
  obtain ⟨i, hi, at_⟩ := List.getElem_of_mem mem
  rw [seqRun_get] at at_
  rw [seqRun_length] at hi
  simp only [Config.trackCapacity] at h
  bv_omega

theorem TrackOrdered.distinct {s : State} (h : TrackOrdered s) : (s.track.map (·.seq)).Nodup := by
  rw [h.2]
  exact seqRun_nodup _ h.1

theorem TrackOrdered.fresh {s : State} (h : TrackOrdered s) : s.nextSeq ∉ s.track.map (·.seq) := by
  rw [h.2]
  exact seqRun_fresh _ h.1

theorem TrackRecord.ordered_iff (r : TrackRecord) (st : Idx) : r.ordered st = true ↔ (r.bookEntry st).Opened := by
  simp [TrackRecord.ordered, BookEntry.Opened, TrackRecord.bookEntry]

theorem State.promised_eq (s : State) (st c : Idx) : s.promised st c = ((s.book st).flying.map ((s.book st).feedOf c)).sum := by
  have feed : ∀ q, (s.book st).feedOf c q = ((s.record q).map fun r => (r.st.get st).feeds.get c).getD 0 := fun q => by
    rw [OrderBook.feedOf, State.book_find, Option.map_map]
    rfl
  show _ = (((s.seqr.get st).inFlight.map (·.seq)).map ((s.book st).feedOf c)).sum
  rw [List.map_map]
  exact congrArg List.sum (List.map_congr_left fun e _ => (feed e.seq).symm)

theorem State.unacked_iff {s : State} (distinct : (s.track.map (·.seq)).Nodup) (counted : ∀ st, (s.book st).Counted) (st : Idx) (q : SeqNo) :
    s.unacked st q ↔ (s.book st).Unacked q := by
  constructor
  · rintro ⟨-, r, record, status⟩
    have found : (s.book st).find q = some (r.bookEntry st) := by rw [State.book_find, record]; rfl
    exact ⟨_, (OrderBook.find_seq found).2, (OrderBook.find_seq found).1, status⟩
  · rintro ⟨x, mem, rfl, status⟩
    obtain ⟨r, hr, rfl⟩ := List.mem_map.1 mem
    exact ⟨(s.holds_iff st _).2 (((counted st).opened _ mem).2 (.inl status)), r, State.record_of_mem distinct hr, status⟩

theorem State.counted_iff {s : State} (distinct : (s.track.map (·.seq)).Nodup) (st : Idx) :
    (s.book st).Counted ↔ (s.seqr.get st).inFlight.length ≤ Config.inFlightLimit ∧ ((s.seqr.get st).inFlight.map (·.seq)).Nodup ∧
      (∀ e ∈ (s.seqr.get st).inFlight, (s.record e.seq).isSome = true) ∧
      (∀ r ∈ s.track, (s.seqr.get st).holds r.seq = r.ordered st) ∧ ∀ c, (s.lane st c).reserved = s.promised st c := by
  have unique : ((s.book st).entries.map (·.seq)).Nodup := by
    show ((s.track.map _).map _).Nodup
    rw [List.map_map]
    exact distinct
  constructor
  · intro h
    refine ⟨by simpa [State.book, Sequencer.book, Config.inFlightLimit] using h.few, h.once,
      fun e he => (s.book_listed st e.seq).1 (h.listed _ (s.mem_flying st e he)), fun r hr => ?_, fun c => ?_⟩
    · rw [Bool.eq_iff_iff, State.holds_iff, TrackRecord.ordered_iff]
      exact h.opened _ (List.mem_map_of_mem hr)
    · rw [State.promised_eq]
      exact h.foil c
  · rintro ⟨few, once, listed, ordered, foil⟩
    refine ⟨unique, by simpa [State.book, Sequencer.book, Config.inFlightLimit] using few, once, fun q hq => ?_, fun x hx => ?_, fun c => ?_⟩
    · obtain ⟨e, he, rfl⟩ := List.mem_map.1 hq
      exact (s.book_listed st e.seq).2 (listed e he)
    · obtain ⟨r, hr, rfl⟩ := List.mem_map.1 hx
      have := ordered r hr
      rw [Bool.eq_iff_iff, State.holds_iff, TrackRecord.ordered_iff] at this
      exact this
    · rw [← State.promised_eq]
      exact foil c

/-- The invariants on the orders in flight say that every station's book is sound. -/
theorem booksSound_iff {s : State} (ordered : TrackOrdered s) : BooksSound s ↔ OrdersInFlight s ∧ OrdersAwaited s := by
  have counted := State.counted_iff ordered.distinct
  have awaits : (∀ st, (s.book st).Counted) → ((∀ st, (s.book st).Awaits) ↔ OrdersAwaited s) := by
    intro all
    have unacked := State.unacked_iff ordered.distinct all
    refine forall_congr' fun st => ⟨fun h => ?_, fun h => ?_⟩
    · refine ⟨fun q hq => (unacked st q).2 (h.order q hq), fun q hq => ?_, h.abort, fun ha => ?_, fun c hc => ?_, fun b hb => ?_⟩
      · exact ⟨(unacked st q).2 (h.queued q hq).1, (h.queued q hq).2⟩
      · exact ⟨(h.free ha).1, fun off => (s.flying_nil st).1 ((h.free ha).2 off)⟩
      · have := h.held (c.entries.map (·.seq)) (by simp [State.book, Sequencer.book, hc])
        simpa [Config.inFlightLimit] using this
      · obtain ⟨run, room⟩ := h.withdrawn (b.withdrawn.map (·.seq)) (by simp [State.book, Sequencer.book, hb])
        refine ⟨run, fun ha x hx => ?_⟩
        have := room ha x.seq (by simp [hx])
        simpa [State.book, Sequencer.book, Config.inFlightLimit] using this
    · obtain ⟨order, queued, abort, free, held, withdrawn⟩ := h
      refine ⟨fun q hq => (unacked st q).1 (order q hq), fun q hq => ?_, abort, fun ha => ?_, fun l hl => ?_, fun w hw => ?_⟩
      · exact ⟨(unacked st q).1 (queued q hq).1, (queued q hq).2⟩
      · exact ⟨(free ha).1, fun off => (s.flying_nil st).2 ((free ha).2 off)⟩
      · obtain ⟨c, hc, rfl⟩ := Option.map_eq_some_iff.1 hl
        simpa [Config.inFlightLimit] using held c hc
      · obtain ⟨b, hb, rfl⟩ := Option.map_eq_some_iff.1 hw
        obtain ⟨run, room⟩ := withdrawn b hb
        refine ⟨run, fun ha q hq => ?_⟩
        obtain ⟨x, hx, rfl⟩ := Option.map_eq_some_iff.1 hq
        simpa [State.book, Sequencer.book, Config.inFlightLimit] using room ha x hx
  constructor
  · intro h
    exact ⟨fun st => (counted st).1 (h st).toCounted, (awaits fun st => (h st).toCounted).1 fun st => (h st).toAwaits⟩
  · rintro ⟨inFlight, awaited⟩ st
    have all : ∀ st, (s.book st).Counted := fun st => (counted st).2 (inFlight st)
    exact ⟨all st, (awaits all).2 awaited st⟩

/-! ### What a change keeps -/

/-- A station is TRIPPED only with its fault unit: so it stands within an event, until the trips of the event are handed over (R84). -/
def TripsBacked (s : State) : Prop := ∀ st, (s.seqr.get st).tripped = true → (s.units.get st).tripped = true

/-- A change leaves TRIPPED of the stations and of their fault units. -/
def SameTrips (s t : State) : Prop :=
  ∀ st, (t.seqr.get st).tripped = (s.seqr.get st).tripped ∧ (t.units.get st).tripped = (s.units.get st).tripped

/-- A property of the trips alone. -/
def OfTrips (inv : State → Prop) : Prop := ∀ s t : State, SameTrips s t → inv s → inv t

theorem ofTrips_backed : OfTrips TripsBacked := fun s t same h st => by
  rw [(same st).1, (same st).2]
  exact h st

theorem ofTrips_mirrored : OfTrips TripsMirrored := fun s t same h st => by
  rw [(same st).1, (same st).2]
  exact h st

/-- A change keeps a property of the trips, and the invariants on STOP REQUEST, the watch units, the notices, the track's order and
the books. -/
structure Keeps (trips : State → Prop) (s t : State) : Prop where
  trips : trips s → trips t
  stop : StopHasCause s → StopHasCause t
  owned : WatchesOwned s → WatchesOwned t
  notices : NoticesOrdered s → NoticesOrdered t
  ordered : TrackOrdered s → TrackOrdered t
  books : TrackOrdered s → BooksSound s → BooksSound t

variable {inv : State → Prop}

theorem Keeps.refl (s : State) : Keeps inv s s := ⟨id, id, id, id, id, fun _ => id⟩

theorem Keeps.trans {s t u : State} (a : Keeps inv s t) (b : Keeps inv t u) : Keeps inv s u where
  trips h := b.trips (a.trips h)
  stop h := b.stop (a.stop h)
  owned h := b.owned (a.owned h)
  notices h := b.notices (a.notices h)
  ordered h := b.ordered (a.ordered h)
  books o h := b.books (a.ordered o) (a.books o h)

theorem Keeps.foldl {α : Type} (g : State → α → State) (h : ∀ s x, Keeps inv s (g s x)) (l : List α) (s : State) :
    Keeps inv s (l.foldl g s) := by
  induction l generalizing s with
  | nil => exact .refl s
  | cons x xs ih => exact (h s x).trans (ih _)

/-- What the order of the track is read off. -/
theorem TrackOrdered.of_seqs {s t : State} (seqs : t.track.map (·.seq) = s.track.map (·.seq)) (next : t.nextSeq = s.nextSeq)
    (h : TrackOrdered s) : TrackOrdered t := by
  have length : t.track.length = s.track.length := by simpa using congrArg List.length seqs
  refine ⟨length ▸ h.1, ?_⟩
  rw [seqs, length, next]
  exact h.2

theorem TrackOrdered.of_keys {s t : State} (keys : t.track.map recordKey = s.track.map recordKey) (next : t.nextSeq = s.nextSeq)
    (h : TrackOrdered s) : TrackOrdered t := by
  refine h.of_seqs ?_ next
  have := congrArg (List.map (·.1)) keys
  rwa [List.map_map, List.map_map] at this

theorem Calm.keeps {s t : State} (c : Calm s t) (keys : t.track.map recordKey = s.track.map recordKey) (next : t.nextSeq = s.nextSeq)
    (trips : inv s → inv t) (books : BooksSound s → BooksSound t) : Keeps inv s t where
  trips := trips
  stop := c.stop
  owned := c.owned
  notices := c.notices
  ordered h := h.of_keys keys next
  books _ := books

/-- An effect within a command: the fault units trip with it, and the stations follow at its end. -/
theorem Within.keeps {s t : State} (w : Within s t) (books : BooksSound s → BooksSound t) : Keeps TripsBacked s t :=
  w.toCalm.keeps w.keys w.next (fun h st tripped => (w.units (.station st)).tripped (h st (w.trips st ▸ tripped))) books

/-- An effect in which no unit of a station trips. -/
theorem Within.calmly {s t : State} (w : Within s t) (hi : OfTrips inv) (units : ∀ st, (t.units.get st).tripped = (s.units.get st).tripped)
    (books : BooksSound s → BooksSound t) : Keeps inv s t :=
  w.toCalm.keeps w.keys w.next (hi s t fun st => ⟨w.trips st, units st⟩) books

/-- What the invariants are read off, but for the trips. -/
def State.core (s : State) : LineState × List TrackRecord × SeqNo × Four Sequencer × Four (Four Lane) × StopRequest × Four Watch ×
    (Port → List PendingNotice) :=
  (s.line, s.track, s.nextSeq, s.seqr, s.lanes, s.stopReq, s.watches, fun p => (s.ports.get p).pending)

/-- A change of other parts of the state. -/
theorem Keeps.of_core {s t : State} (hi : OfTrips inv) (h : t.core = s.core)
    (units : ∀ st, (t.units.get st).tripped = (s.units.get st).tripped) : Keeps inv s t := by
  simp only [State.core, Prod.mk.injEq] at h
  obtain ⟨line, track, next, seqr, lanes, stop, watches, pending⟩ := h
  refine ⟨hi s t fun st => ⟨by rw [seqr], units st⟩, ?_, ?_, fun h p => ?_, .of_seqs (by rw [track]) next,
    fun _ => (SameBooks.of_same line track seqr lanes).sound⟩
  · unfold StopHasCause; rw [stop]; exact id
  · unfold WatchesOwned; rw [watches]; exact id
  · rw [congrFun pending p]; exact h p

end Sys2Proof.Machine
end

section
/-! SUPPORT. What joining, leaving and the reader's events keep of the trips, STOP REQUEST, the notices, the watch units and the orders
in flight (R12, R25 to R32). -/

namespace Sys2Proof.Machine

variable {inv : State → Prop}

/-! ### Leaving (R30 to R32) -/

theorem State.appendOutcome_notices (s : State) (r : OutcomeRecord) (h : NoticesOrdered s) : NoticesOrdered (s.appendOutcome r) := by
  have offered : ∀ (l : List Port) (t : State), NoticesOrdered t → NoticesOrdered (l.foldl (fun s p =>
      match s.outcomes.cursors.get p with
      | some _ => s.offerTo p .outcomeReady
      | none => s) t) := by
    intro l
    induction l with
    | nil => exact fun _ ht => ht
    | cons p ps ih =>
      intro t ht
      rw [List.foldl_cons]
      refine ih _ ?_
      split
      · exact (t.offerTo_within p _).notices ht
      · exact ht
  exact offered _ _ h

theorem State.leaveHead_seqr {s : State} {r : TrackRecord} {rs : List TrackRecord} (h : s.track = r :: rs) (final : Status) :
    (s.leaveHead final).seqr = (s.headSettled r rs final).seqr := by
  rw [State.leaveHead_cons h]
  simp

/-- The rest of the track is in order behind the head (R23). -/
theorem TrackOrdered.leaveHead {s : State} (h : TrackOrdered s) (final : Status) : TrackOrdered (s.leaveHead final) := by
  cases track : s.track with
  | nil => rw [State.leaveHead_nil track]; exact h
  | cons r rs =>
    obtain ⟨room, seqs⟩ := h
    rw [track, List.length_cons] at room seqs
    have left := State.leaveHead_track track final
    have next : (s.leaveHead final).nextSeq = s.nextSeq := by simp
    have first : s.nextSeq - BitVec.ofNat 16 (rs.length + 1) + 1 = s.nextSeq - BitVec.ofNat 16 rs.length := by bv_omega
    rw [seqRun, first, List.map_cons] at seqs
    refine ⟨?_, ?_⟩
    · rw [left]; omega
    · rw [left, next]
      exact (List.cons.inj seqs).2

theorem State.leaveHead_keeps (hi : OfTrips inv) (s : State) {final : Status} (ended : ¬ (final = .committed ∨ final = .acked)) :
    Keeps inv s (s.leaveHead final) := by
  cases track : s.track with
  | nil => rw [State.leaveHead_nil track]; exact .refl s
  | cons r rs =>
    have settled := s.headSettled_within r rs final
    refine ⟨hi _ _ fun st => ⟨?_, by simp⟩, fun h => ?_, fun h => ?_, fun h => ?_, (·.leaveHead final),
      fun _ h => State.leaveHead_sound h ended⟩
    · rw [State.leaveHead_seqr track]
      exact settled.trips st
    · simpa [StopHasCause] using h
    · rw [State.leaveHead_cons track]
      refine (State.disarmFor_within _ _).owned ?_
      have : WatchesOwned (s.headSettled r rs final) := settled.owned h
      simpa [WatchesOwned, State.dropRef] using this
    · rw [State.leaveHead_cons track]
      refine (State.disarmFor_within _ _).notices (State.appendOutcome_notices _ _ ?_)
      exact settled.notices h

theorem retireLoop_keeps (hi : OfTrips inv) (n : Nat) (s : State) : Keeps inv s (retireLoop n s) := by
  induction n generalizing s with
  | zero => exact .refl s
  | succ n ih =>
    unfold retireLoop
    split
    · exact (s.leaveHead_keeps hi (by simp)).trans (ih _)
    · exact .refl s

theorem State.retireRun_keeps (hi : OfTrips inv) (s : State) : Keeps inv s s.retireRun := retireLoop_keeps hi _ s

theorem emptyLoop_keeps (hi : OfTrips inv) (n : Nat) (s : State) : Keeps inv s (emptyLoop n s) := by
  induction n generalizing s with
  | zero => exact .refl s
  | succ n ih => exact (s.leaveHead_keeps hi (by simp)).trans (ih _)

theorem State.emptyTrack_keeps (hi : OfTrips inv) (s : State) : Keeps inv s s.emptyTrack := emptyLoop_keeps hi _ s


/-! ### Trips handed over (R84) -/

theorem TripsMirrored.backed {s : State} (h : TripsMirrored s) : TripsBacked s := fun st tripped => h st ▸ tripped

theorem State.settleTrips_units (s : State) (st : Idx) : (s.settleTrips.units.get st).tripped = (s.units.get st).tripped :=
  (s.settleTrips_settled.flags (.station st)).2.2

theorem TripsBacked.settled {s : State} (h : TripsBacked s) : TripsMirrored s.settleTrips := fun st => by
  rw [s.settleTrips_trips, s.settleTrips_units]
  cases tripped : (s.seqr.get st).tripped with
  | false => rfl
  | true => rw [h st tripped]; rfl

theorem State.settleTrips_keeps (s : State) : Keeps TripsBacked s s.settleTrips :=
  s.settleTrips_settled.toCalm.keeps s.settleTrips_settled.keys s.settleTrips_settled.next (fun h => h.settled.backed)
    State.settleTrips_sound

/-- An event ends with the trips handed over (R84): the stations mirror their fault units again (R61). -/
theorem Keeps.done {s t u : State} (k : Keeps TripsBacked s t) (e : t.done = .next u) : Keeps TripsMirrored s u := by
  cases e
  have ends := k.trans t.settleTrips_keeps
  exact ⟨fun h => (k.trips h.backed).settled, ends.stop, ends.owned, ends.notices, ends.ordered, ends.books⟩

theorem Keeps.next {s t u : State} (k : Keeps inv s t) (e : (.next t : Outcome State) = .next u) : Keeps inv s u := by
  cases e
  exact k

/-! ### Joining (R25, R26) -/

theorem State.commitRecord_keeps {s : State} {st : Idx} {r : TrackRecord} (record : s.record r.seq = some r)
    (status : (r.st.get st).status = .pending) : Keeps TripsBacked s (s.commitRecord st r) :=
  (s.commitRecord_within st r).keeps fun h => State.commitRecord_sound h record status

theorem State.commitIfReached_keeps (s : State) (st : Idx) (q : SeqNo) : Keeps TripsBacked s (s.commitIfReached st q) := by
  unfold State.commitIfReached
  split
  next r record =>
    split
    next due =>
      have seq := findRecord_seq record
      subst seq
      exact (State.commitRecord_keeps record (State.commitDue_pending due)).trans (State.settleTrips_keeps _)
    · exact .refl s
  · exact .refl s

theorem State.takeReached_keeps (s : State) (q : SeqNo) : Keeps TripsBacked s (s.takeReached q) := by
  have commits := Keeps.foldl _ (fun s st => State.commitIfReached_keeps s st q) Idx.all s
  unfold State.takeReached
  dsimp only
  split
  · split
    · exact commits.trans (State.retireRun_keeps ofTrips_backed _)
    · exact commits
  · exact commits

/-- A station's field at the join is of no order in flight (R25). -/
theorem State.newRecord_unsent (s : State) (j : Slot) (x : Handed) (st : Idx) : (s.newRecord j x).ordered st = false := by
  simp only [TrackRecord.ordered, State.newRecord, Four.get_tab, joinField]
  split <;> rfl

theorem State.appendRecord_keeps (hi : OfTrips inv) {s : State} {r : TrackRecord} (room : s.track.length < Config.trackCapacity)
    (seq : r.seq = s.nextSeq) (unsent : ∀ v, r.ordered v = false) : Keeps inv s (s.appendRecord r) where
  trips := hi _ _ fun _ => ⟨rfl, rfl⟩
  stop := id
  owned := id
  notices := id
  ordered := by
    intro ⟨_, seqs⟩
    have first : s.nextSeq + 1 - BitVec.ofNat 16 (s.track.length + 1) = s.nextSeq - BitVec.ofNat 16 s.track.length := by bv_omega
    have last : s.nextSeq - BitVec.ofNat 16 s.track.length + BitVec.ofNat 16 s.track.length = s.nextSeq := by bv_omega
    have track : (s.appendRecord r).track = s.track ++ [r] := rfl
    have next : (s.appendRecord r).nextSeq = s.nextSeq + 1 := rfl
    refine ⟨?_, ?_⟩
    · rw [track, List.length_append]; exact room
    · rw [track, next, List.length_append, List.length_singleton, first, seqRun_succ_last, last, List.map_append, seqs]
      simp [seq]
  books ordered h := State.appendRecord_sound h (seq ▸ ordered.fresh) unsent

theorem State.join_keeps (s : State) (x : Handed) : Keeps TripsBacked s (s.join x) := by
  have stopped : ∀ t : State, Keeps TripsBacked t (t.assertStop .trackFull) := fun t =>
    (t.assertStop_within _).keeps (SameBooks.of_same (by simp) (by simp) (by simp) (by simp)).sound
  unfold State.join
  split
  · exact .refl s
  · split
    · exact ((s.raise_within _).keeps (s.raise_books _).sound).trans (stopped _)
    · rename_i room
      exact (State.appendRecord_keeps ofTrips_backed (r := s.newRecord _ x) (Nat.not_le.1 room) rfl (s.newRecord_unsent _ x)).trans
        (State.takeReached_keeps _ _)

/-! ### The reader's records (R12, R28) -/

theorem State.convert_keeps (s : State) (q : SeqNo) (c : Pos) : Keeps TripsBacked s (s.convert q c) := by
  have rekeyed : ∀ (f : StationField) (e : Option StationEntry), (f.rekey e c).status = f.status ∧ (f.rekey e c).feeds = f.feeds := by
    intro f e
    cases e <;> exact ⟨rfl, rfl⟩
  unfold State.convert
  refine Keeps.trans ?_ (State.takeReached_keeps _ _)
  refine Within.keeps (s.updRecord_within q _ fun _ => rfl) (s.updRecord_books q fun r v => ?_).sound
  simp only [TrackRecord.bookEntry, Four.get_tab, rekeyed]

theorem State.setReader_keeps (s : State) (m : Pos) (o : Origin) (st : ReaderState) (l c : Nat) :
    Keeps TripsBacked s (s.setReader m o st l c) :=
  (s.setReader_within m o st l c).keeps (SameBooks.of_same rfl rfl rfl rfl).sound

theorem State.reader_keeps (s : State) (r : Reader) : Keeps TripsBacked s { s with reader := r } :=
  (s.reader_within r).keeps (SameBooks.of_same rfl rfl rfl rfl).sound

theorem State.raise_keeps (s : State) (ev : FaultEvent) : Keeps TripsBacked s (s.raise ev) := (s.raise_within ev).keeps (s.raise_books ev).sound

theorem State.produce_keeps (s : State) (m : Made) : Keeps TripsBacked s (s.produce m) := by
  have made : Keeps TripsBacked s (s.produced m) := by
    unfold State.produced
    exact ((s.reader_keeps _).trans (State.join_keeps _ _)).trans (State.setReader_keeps _ _ _ _ _ _)
  rw [State.produce_eq]
  split
  · exact made.trans (State.raise_keeps _ _)
  · exact made

theorem State.takeReaderEvent_keeps (s : State) : Keeps TripsBacked s s.takeReaderEvent := by
  unfold State.takeReaderEvent
  split
  · exact s.produce_keeps _
  · exact s.produce_keeps _
  · exact .refl s

theorem readerLoop_keeps (n : Nat) (s : State) : Keeps TripsBacked s (readerLoop n s) := by
  induction n generalizing s with
  | zero => exact .refl s
  | succ n ih =>
    unfold readerLoop
    split
    · exact s.takeReaderEvent_keeps.trans (ih _)
    · exact .refl s

theorem State.takeReadyReader_keeps (s : State) : Keeps TripsBacked s s.takeReadyReader := readerLoop_keeps _ s

theorem State.takeReaderEvents_keeps (s : State) : Keeps TripsBacked s s.takeReaderEvent.takeReadyReader :=
  s.takeReaderEvent_keeps.trans (State.takeReadyReader_keeps _)

theorem State.restartAt_keeps (s : State) (c : Pos) : Keeps TripsBacked s (s.restartAt c) := by
  unfold State.restartAt
  split
  · split
    · exact (s.convert_keeps _ _).trans (State.setReader_keeps _ _ _ _ _ _)
    · exact s.produce_keeps _
  · exact s.produce_keeps _

theorem State.takeEdge_keeps (s : State) (c : Pos) : Keeps TripsBacked s (s.takeEdge c) := by
  have window : ∀ (b : Bool) (m : Made), Keeps TripsBacked s (if b then (s.produce m).takeReadyReader else s.strayMark c) := by
    intro b m
    split
    · exact (s.produce_keeps m).trans (State.takeReadyReader_keeps _)
    · exact s.raise_keeps _
  unfold State.takeEdge
  split
  · exact .refl s
  · exact (s.restartAt_keeps c).trans (State.takeReadyReader_keeps _)
  · exact (s.produce_keeps _).trans (State.takeReadyReader_keeps _)
  · exact window _ _
  · exact window _ _
  · exact window _ _
  · exact .refl s
  · exact .refl s

end Sys2Proof.Machine
end

section
/-! SUPPORT. What the requests keep of the trips, STOP REQUEST, the notices, the watch units and the orders in flight. -/

namespace Sys2Proof.Machine

variable {inv : State → Prop}

/-! ### Serving a request (R188, R189) -/

/-- A change of a port that leaves its pending notices. -/
theorem State.updPort_keeps (hi : OfTrips inv) (s : State) (p : Port) {f : PortState → PortState} (h : ∀ x, (f x).pending = x.pending) :
    Keeps inv s (s.updPort p f) := by
  refine .of_core hi ?_ fun _ => rfl
  have pending : ∀ q, ((s.updPort p f).ports.get q).pending = (s.ports.get q).pending := fun q => by
    show ((s.ports.upd p f).get q).pending = _
    rw [Three.get_upd]
    split
    next same => subst same; exact h _
    · rfl
  simp only [State.core, funext pending]
  rfl

theorem State.serve_keeps (hi : OfTrips inv) (s : State) (hdr : ReqHdr) (make : ReqHdr → Instr) (code : Byte) {take : State → State × Answer}
    (h : ∀ s, Keeps inv s (take s).1) : Keeps inv s (s.serve hdr make code take) := by
  have answer : Keeps inv s (s.answer hdr code take) :=
    ((s.updPort_keeps hi hdr.port (f := fun ps => { ps with inService := none }) fun _ => rfl).trans (h _)).trans
      (State.updPort_keeps hi _ _ fun _ => rfl)
  unfold State.serve
  dsimp only
  split
  · exact .refl s
  · split
    · split
      · exact s.updPort_keeps hi _ fun _ => rfl
      · exact s.updPort_keeps hi _ fun _ => rfl
    · split
      · exact answer
      · exact s.updPort_keeps hi _ fun _ => rfl
    · split
      · exact answer
      · exact .refl s

theorem lineOnly_keeps {hdr : ReqHdr} {take : State → State × Answer} (h : ∀ s, Keeps inv s (take s).1) (s : State) :
    Keeps inv s (lineOnly hdr take s).1 := by
  unfold lineOnly
  split
  · exact h s
  · exact .refl s

theorem lineRequest_keeps {hdr : ReqHdr} {take : State → State × Answer} (h : ∀ s, Keeps inv s (take s).1) (s : State) :
    Keeps inv s (lineRequest hdr take s).1 := by
  unfold lineRequest
  split
  · exact h s
  · exact .refl s

/-! ### Line requests (R135 to R150) -/

theorem State.enterHold_keeps (s : State) : Keeps TripsBacked s s.enterHold := s.enterHold_within.keeps State.enterHold_sound

theorem State.takeStart_keeps (s : State) : Keeps TripsBacked s s.takeStart.1 := by
  unfold State.takeStart
  split
  · exact .refl s
  next stopped =>
    split
    · exact .refl s
    · split
      · exact .refl s
      · split
        · exact .refl s
        · exact s.startLine_within.keeps fun h => State.startLine_sound h (Decidable.not_not.1 stopped)

theorem State.takeHold_keeps (s : State) : Keeps TripsBacked s s.takeHold.1 := by
  unfold State.takeHold
  split
  · exact s.enterHold_keeps
  · exact .refl s
  · exact .refl s

theorem State.takeResume_keeps (s : State) : Keeps TripsBacked s s.takeResume.1 := by
  unfold State.takeResume
  split
  · exact .refl s
  next hold =>
    split
    · exact .refl s
    · split
      · exact .refl s
      next free =>
        split
        · exact .refl s
        · exact s.resumeLine_within.keeps fun h => State.resumeLine_sound h (Decidable.not_not.1 hold)
            (State.abortOutstanding_false (Bool.eq_false_iff.2 free))

/-- A change of the sequencers outside of what trips them, known by the books it leads to. -/
theorem State.dropContexts_keeps (s : State) : Keeps TripsBacked s s.dropContexts :=
  s.dropContexts_within.keeps State.dropContexts_sound

theorem State.deassertStop_keeps (s : State) : Keeps TripsBacked s s.deassertStop :=
  s.deassertStop_within.keeps (SameBooks.of_same rfl rfl rfl rfl).sound

theorem State.emptied_keeps (s : State) : Keeps TripsBacked s { s.emptyTrack with reader := .reset, splices := [] } :=
  (s.emptyTrack_keeps ofTrips_backed).trans (.of_core ofTrips_backed rfl fun _ => rfl)

theorem State.stopLine_keeps {s : State} (hold : s.line = .hold) (free : s.abortOutstanding = false) :
    Keeps TripsBacked s s.stopLine := by
  have stopped : Keeps TripsBacked s { s with line := .stopped } := (s.line_within _).keeps fun h =>
    State.setLine_sound h (by rw [hold]; decide) (State.abortOutstanding_false free) .stopped
  exact ((stopped.trans (State.emptied_keeps _)).trans (State.dropContexts_keeps _)).trans (State.deassertStop_keeps _)

theorem State.takeStop_keeps (s : State) : Keeps TripsBacked s s.takeStop.1 := by
  unfold State.takeStop
  split
  · exact .refl s
  next hold =>
    split
    · exact .refl s
    next free => exact State.stopLine_keeps (Decidable.not_not.1 hold) (Bool.eq_false_iff.2 free)

/-- A station whose sequencer is reset is not TRIPPED, and the others stand (R85). -/
theorem State.resetStation_tripped (s : State) (st v : Idx) :
    ((s.resetStation st).seqr.get v).tripped = if v = st then false else (s.seqr.get v).tripped := by
  have before := ((s.missInFlight_within st).trans (State.emptyOverdue_within _ st)).trips v
  show ((((s.missInFlight st).emptyOverdue st).seqr.upd st Sequencer.cleared).get v).tripped = _
  rw [Four.get_upd]
  split
  · rfl
  · exact before

theorem State.resetStation_quiet (s : State) (st : Idx) : Within s ((s.missInFlight st).emptyOverdue st) :=
  (s.missInFlight_within st).trans (State.emptyOverdue_within _ st)

/-- A station's reset leaves its fault unit as it is, so that it keeps the stations backed (R61). -/
theorem State.resetStation_keeps (s : State) (st : Idx) : Keeps TripsBacked s (s.resetStation st) := by
  have quiet := s.resetStation_quiet st
  refine ⟨fun h v tripped => ?_, quiet.stop, quiet.owned, quiet.notices, fun h => ?_, fun _ h => ?_⟩
  · rw [State.resetStation_tripped] at tripped
    split at tripped
    · cases tripped
    · exact (quiet.units (.station v)).tripped (h v tripped)
  · exact TrackOrdered.of_keys (s := s) quiet.keys quiet.next h
  · exact (s.resetStation_moves st).sound h (h st).cleared

theorem State.resetOne_keeps (s : State) (st : Idx) : Keeps TripsBacked s (s.resetOne st) := by
  generalize unit : s.setUnit (.station st) (s.units.get st).stationReset = u
  have reset := u.resetStation_keeps st
  have context : s.resetOne st = (u.resetStation st).updContext st fun c => { c with entries := [] } := by rw [← unit]; rfl
  have same : u = { s with units := u.units } := by rw [← unit]; rfl
  have tripped : ∀ v, ((s.resetOne st).seqr.get v).tripped = if v = st then false else (s.seqr.get v).tripped := by
    intro v
    have kept : (s.seqr.get v).tripped = (u.seqr.get v).tripped := by rw [same]
    rw [context, kept, ← u.resetStation_tripped st v]
    simp only [State.updContext, State.updSeqr, Four.get_upd]
    split
    next here => subst here; rfl
    · rfl
  refine ⟨fun h v => ?_, fun h => ?_, fun h => ?_, fun h => ?_, fun h => ?_, fun _ h => State.resetOne_sound h st⟩
  · rw [tripped]
    split
    · exact fun no => absurd no (by simp)
    next other =>
      intro trips
      have raised := ((u.resetStation_quiet st).units (.station v)).tripped
      have stands : (u.units.get v).tripped = true := by
        rw [← unit]
        simpa [State.setUnit, other] using h v trips
      rw [context]
      exact raised stands
  · rw [context]
    have : StopHasCause u := by rw [same]; exact h
    exact reset.stop this
  · simpa [WatchesOwned] using h
  · rw [context]
    have : NoticesOrdered u := by rw [same]; exact h
    exact reset.notices this
  · rw [context]
    have : TrackOrdered u := by rw [same]; exact h
    exact reset.ordered this

theorem State.takeStationReset_keeps (b : Byte) (s : State) : Keeps TripsBacked s (s.takeStationReset b).1 := by
  unfold State.takeStationReset
  split
  · exact .refl s
  · split
    · exact .refl s
    · exact s.resetOne_keeps _

theorem resetStations_tripped (l : List Idx) (s : State) (v : Idx) (h : v ∈ l ∨ (s.seqr.get v).tripped = false) :
    ((l.foldl (fun s st => s.resetStation st) s).seqr.get v).tripped = false := by
  induction l generalizing s with
  | nil => exact h.resolve_left (by simp)
  | cons x xs ih =>
    refine ih _ ?_
    by_cases here : v ∈ xs
    · exact .inl here
    · refine .inr ?_
      rw [State.resetStation_tripped]
      split
      · rfl
      next other => exact h.resolve_left (by simp [other, here])

/-- The line with its track emptied and its stations reset, before the fault units and STOP REQUEST are (R149). -/
def State.lineCleared (s : State) : State :=
  (Idx.all.foldl (fun (s : State) st => s.resetStation st) { s.emptyTrack with reader := .reset, splices := [] }).dropContexts

theorem State.resetLine_eq (s : State) :
    s.resetLine = ({ s.lineCleared with units := .all .reset, lineUnit := .reset } : State).deassertStop := by
  unfold State.resetLine State.lineCleared
  rfl

theorem State.lineCleared_keeps (s : State) : Keeps TripsBacked s s.lineCleared := by
  unfold State.lineCleared
  exact (s.emptied_keeps.trans (Keeps.foldl _ State.resetStation_keeps Idx.all _)).trans (State.dropContexts_keeps _)

theorem State.lineCleared_tripped (s : State) (st : Idx) : (s.lineCleared.seqr.get st).tripped = false := by
  unfold State.lineCleared
  simp only [State.dropContexts, Four.get_tab]
  exact resetStations_tripped _ _ _ (.inl (idx_mem_all st))

/-- The fault units, the line unit and STOP REQUEST reset, where no station is TRIPPED. -/
theorem State.unitsReset_keeps {s : State} (untripped : ∀ st, (s.seqr.get st).tripped = false) :
    Keeps TripsBacked s ({ s with units := .all .reset, lineUnit := .reset } : State).deassertStop :=
  ⟨fun _ st tripped => absurd ((untripped st).symm.trans tripped) (by simp), fun _ => rfl, id, id, id,
    fun _ => (SameBooks.of_same rfl rfl rfl rfl).sound⟩

theorem State.resetLine_keeps (s : State) : Keeps TripsBacked s s.resetLine := by
  rw [State.resetLine_eq]
  exact s.lineCleared_keeps.trans (State.unitsReset_keeps s.lineCleared_tripped)

theorem State.takeLineReset_keeps (s : State) : Keeps TripsBacked s s.takeLineReset.1 := by
  unfold State.takeLineReset
  split
  · exact s.resetLine_keeps
  · exact .refl s

end Sys2Proof.Machine
end

section
/-! SUPPORT. The other requests and the events, each with what it keeps of the trips, STOP REQUEST, the notices, the watch units and the
orders in flight. -/

namespace Sys2Proof.Machine

variable {inv : State → Prop}

/-! ### Requests outside of what the invariants read -/

/-- The hold context of a station changed but for the seqs that it holds. -/
theorem State.updContext_keeps (hi : OfTrips inv) (s : State) (st : Idx) {f : HoldContext → HoldContext}
    (h : ∀ c, (f c).entries.map (·.seq) = c.entries.map (·.seq)) : Keeps inv s (s.updContext st f) := by
  refine Within.calmly ?_ hi (fun _ => rfl) (SameBooks.sound ?_)
  · exact s.updSeqr_within st _ (fun _ => rfl) fun _ => le_refl _
  · refine s.updSeqr_books st fun _ _ _ => ?_
    simp only [Sequencer.book, Option.map_map, Function.comp_def, h]

theorem State.takeEditTrim_keeps (hi : OfTrips inv) (b : Byte) (x : BitVec 16) (s : State) : Keeps inv s (s.takeEditTrim b x).1 := by
  unfold State.takeEditTrim
  split
  · exact .refl s
  · split
    · exact .refl s
    · exact s.updContext_keeps hi _ fun _ => rfl

theorem State.setAction_keeps (hi : OfTrips inv) (s : State) (st : Idx) (q : SeqNo) (a : ResumeAction) : Keeps inv s (s.setAction st q a) := by
  refine s.updContext_keeps hi st fun c => ?_
  rw [List.map_map]
  refine List.map_congr_left fun e _ => ?_
  simp only [Function.comp]
  split <;> rfl

theorem State.takeEditAction_keeps (hi : OfTrips inv) (b : Byte) (q : SeqNo) (a : Option ResumeAction) (s : State) :
    Keeps inv s (s.takeEditAction b q a).1 := by
  unfold State.takeEditAction
  repeat' split
  all_goals first
    | exact .refl s
    | exact s.setAction_keeps hi _ _ _

/-- A fault unit changed in its other items than TRIPPED. -/
theorem State.setUnit_keeps (hi : OfTrips inv) (s : State) (u : UnitId) {f : FaultUnit} (h : f.tripped = (s.unit u).tripped) :
    Keeps inv s (s.setUnit u f) := by
  refine .of_core hi (by cases u <;> rfl) fun st => ?_
  cases u with
  | line => rfl
  | station v =>
    simp only [State.setUnit, Four.get_set]
    split
    next same => subst same; exact h
    · rfl

theorem State.offer_keeps (hi : OfTrips inv) (s : State) (n : Notice) : Keeps inv s (s.offer n) :=
  (s.offer_within n).calmly hi (fun _ => rfl) (SameBooks.of_same rfl rfl rfl rfl).sound

theorem State.takeClearFlags_keeps (hi : OfTrips inv) (b : Byte) (f : FlagSet) (s : State) : Keeps inv s (s.takeClearFlags b f).1 := by
  unfold State.takeClearFlags
  repeat' split
  · exact .refl s
  · exact .refl s
  · exact s.setUnit_keeps hi _ rfl

theorem State.takeSetFlags_keeps (hi : OfTrips inv) (b : Byte) (f g : FlagSet) (s : State) : Keeps inv s (s.takeSetFlags b f g).1 := by
  have offered : ∀ (t : State) (c : Bool) (n : Notice), Keeps inv t (t.offerIf c n) := by
    intro t c n
    unfold State.offerIf
    split
    · exact t.offer_keeps hi n
    · exact .refl t
  unfold State.takeSetFlags
  split
  · exact .refl s
  next u _ =>
    split
    · exact .refl s
    have set : Keeps inv s (s.setUnit u ((s.unit u).setFlags f g)) := s.setUnit_keeps hi u rfl
    exact (set.trans (offered _ _ _)).trans (offered _ _ _)

theorem State.takeClearFaultRecord_keeps (hi : OfTrips inv) (b : Byte) (s : State) : Keeps inv s (s.takeClearFaultRecord b).1 := by
  unfold State.takeClearFaultRecord
  split
  · exact .refl s
  · exact s.setUnit_keeps hi _ rfl

/-- A request that leaves what the invariants are read off. -/
theorem Keeps.of_take (hi : OfTrips inv) {s : State} {take : State → State × Answer}
    (h : (take s).1.core = s.core ∧ (take s).1.units = s.units) : Keeps inv s (take s).1 := .of_core hi h.1 fun _ => by rw [h.2]

theorem State.takeSetZoneMask_keeps (hi : OfTrips inv) (a b : Byte) (v : Option Bool) (s : State) :
    Keeps inv s (s.takeSetZoneMask a b v).1 := by
  refine .of_take hi ?_
  unfold State.takeSetZoneMask
  (repeat' split) <;> simp [State.core]

theorem State.takeFinishZone_keeps (hi : OfTrips inv) (a b : Byte) (v : Option Bool) (s : State) :
    Keeps inv s (s.takeFinishZone a b v).1 := by
  refine .of_take hi ?_
  unfold State.takeFinishZone
  (repeat' split) <;> simp [State.core]

theorem State.takeSetLowest_keeps (hi : OfTrips inv) (a b : Byte) (s : State) : Keeps inv s (s.takeSetLowest a b).1 := by
  refine .of_take hi ?_
  unfold State.takeSetLowest
  (repeat' split) <;> simp [State.core]

theorem State.takeWriteSettings_keeps (hi : OfTrips inv) (items : List SettingItem) (s : State) :
    Keeps inv s (s.takeWriteSettings items).1 := by
  refine .of_take hi ?_
  unfold State.takeWriteSettings
  (repeat' split) <;> simp [State.core]

theorem State.takeBeginJob_keeps (hi : OfTrips inv) (b : Byte) (src : Option JobSource) (s : State) : Keeps inv s (s.takeBeginJob b src).1 := by
  refine .of_take hi ?_
  unfold State.takeBeginJob
  (repeat' split) <;> simp [State.core]

theorem State.takeItemGlobal_keeps (hi : OfTrips inv) (b : Byte) (i : GlobalItem) (s : State) : Keeps inv s (s.takeItemGlobal b i).1 := by
  refine .of_take hi ?_
  unfold State.takeItemGlobal
  (repeat' split) <;> simp [State.core]

theorem State.takeItemStation_keeps (hi : OfTrips inv) (b sb : Byte) (i : StationItem) (s : State) :
    Keeps inv s (s.takeItemStation b sb i).1 := by
  refine .of_take hi ?_
  unfold State.takeItemStation
  (repeat' split) <;> simp [State.core]

theorem State.takeItemZone_keeps (hi : OfTrips inv) (b sb zb : Byte) (i : ZoneItem) (s : State) :
    Keeps inv s (s.takeItemZone b sb zb i).1 := by
  refine .of_take hi ?_
  unfold State.takeItemZone
  (repeat' split) <;> simp [State.core]

theorem State.takeItemLane_keeps (hi : OfTrips inv) (b sb cb : Byte) (k : Option LaneCode) (lf gf : BitVec 16) (s : State) :
    Keeps inv s (s.takeItemLane b sb cb k lf gf).1 := by
  refine .of_take hi ?_
  unfold State.takeItemLane
  (repeat' split) <;> simp [State.core]

theorem State.takeItemRemove_keeps (hi : OfTrips inv) (b sb : Byte) (s : State) : Keeps inv s (s.takeItemRemove b sb).1 := by
  refine .of_take hi ?_
  unfold State.takeItemRemove
  (repeat' split) <;> simp [State.core]

theorem State.takeCheckJob_keeps (hi : OfTrips inv) (b : Byte) (s : State) : Keeps inv s (s.takeCheckJob b).1 := by
  refine .of_take hi ?_
  unfold State.takeCheckJob
  (repeat' split) <;> simp [State.core]

theorem State.takeApprove_keeps (hi : OfTrips inv) (p : Port) (sb cb : Byte) (s : State) : Keeps inv s (s.takeApprove p sb cb).1 := by
  refine .of_take hi ?_
  unfold State.takeApprove
  (repeat' split) <;> simp [State.core]

theorem State.takeOutcomes_keeps (hi : OfTrips inv) (p : Port) (s : State) : Keeps inv s (s.takeOutcomes p).1 := by
  refine .of_take hi ?_
  unfold State.takeOutcomes
  (repeat' split) <;> simp [State.core]

theorem State.takeSetRouting_keeps (hi : OfTrips inv) (p : Port) (k : BitVec 16) (c : Option RouteClass) (s : State) :
    Keeps inv s (s.takeSetRouting p k c).1 := by
  unfold State.takeSetRouting
  repeat' split
  · exact s.updPort_keeps hi _ fun _ => rfl
  · exact .refl s
  · exact .refl s

/-- A port whose set is emptied or stays holds its pairs in order (R166). -/
theorem State.updPort_emptied (hi : OfTrips inv) (s : State) (p : Port) {f : PortState → PortState}
    (h : ∀ x, (f x).pending = [] ∨ (f x).pending = x.pending) : Keeps inv s (s.updPort p f) := by
  refine ⟨hi _ _ fun _ => ⟨rfl, rfl⟩, id, id, fun ordered q => ?_, id, fun _ => id⟩
  simp only [State.updPort, Three.get_upd]
  split
  next same =>
    obtain none | same := h (s.ports.get p)
    · rw [none]; exact .nil
    · rw [same]; exact ordered p
  · exact ordered q

theorem State.takeNotices_keeps (hi : OfTrips inv) (p : Port) (s : State) : Keeps inv s (s.takeNotices p).1 :=
  s.updPort_emptied hi p fun _ => .inl rfl

/-! ### Watch units (R168 to R172) -/

theorem State.meetWatch_books (s : State) (w : Idx) (q : Option SeqNo) : SameBooks s (s.meetWatch w q) :=
  (s.meetWatch_marked w q).books (by simp) (by simp) fun v c => by rw [State.lane_of_lanes (s := s) (by simp)]

/-- A unit that holds a condition is met. -/
theorem State.meetWatch_keeps (hi : OfTrips inv) (s : State) (w : Idx) (q : Option SeqNo) (h : (s.watches.get w).condition ≠ none) :
    Keeps inv s (s.meetWatch w q) :=
  (s.meetWatch_within w q h).calmly hi (fun _ => by simp) (s.meetWatch_books w q).sound

/-- One watch unit changed, to one that holds nothing where it has no owner (R168). -/
theorem State.updWatch_keeps (hi : OfTrips inv) (s : State) (w : Idx) {f : Watch → Watch}
    (h : (f (s.watches.get w)).owner = none → ((s.watches.get w).owner = none → s.watches.get w = .reset) → f (s.watches.get w) = .reset) :
    Keeps inv s (s.updWatch w f) := by
  refine ⟨hi _ _ fun _ => ⟨rfl, rfl⟩, id, fun owned v unowned => ?_, id, id, fun _ => (SameBooks.of_same rfl rfl rfl rfl).sound⟩
  simp only [State.updWatch, Four.get_upd] at unowned ⊢
  split
  next same =>
    subst same
    rw [if_pos rfl] at unowned
    exact h unowned (owned v)
  next other =>
    rw [if_neg other] at unowned
    exact owned v unowned

theorem State.takeArm_keeps (hi : OfTrips inv) (p : Port) (a : Option ArmRequest) (s : State) : Keeps inv s (s.takeArm p a).1 := by
  have armed : ∀ (c : WatchCondition) (a : ArmRequest), Keeps inv s (s.arm p c a) := by
    intro c a
    have claimed : Keeps inv s (s.updWatch a.unit fun u => u.configure p c a) := s.updWatch_keeps hi _ fun no => by cases no
    unfold State.arm
    dsimp only
    split
    · refine claimed.trans (State.meetWatch_keeps hi _ _ _ ?_)
      simp [State.updWatch, Watch.configure]
    · exact claimed
  unfold State.takeArm
  repeat' split
  all_goals first
    | exact .refl s
    | exact armed _ _

/-- A unit with an owner changed but for its owner. -/
theorem State.updOwned_keeps (hi : OfTrips inv) (s : State) (w : Idx) {f : Watch → Watch} (owned : (s.watches.get w).owner ≠ none)
    (h : (f (s.watches.get w)).owner = (s.watches.get w).owner) : Keeps inv s (s.updWatch w f) :=
  s.updWatch_keeps hi w fun no => absurd (h ▸ no) owned

theorem State.takeEnable_keeps (hi : OfTrips inv) (p : Port) (b : Byte) (v : Option Bool) (s : State) :
    Keeps inv s (s.takeEnable p b v).1 := by
  unfold State.takeEnable
  split
  · split
    · exact .refl s
    next owned =>
      split
      · exact .refl s
      · exact s.updOwned_keeps hi _ owned rfl
  · exact .refl s

theorem State.takeClearHit_keeps (hi : OfTrips inv) (p : Port) (b : Byte) (s : State) : Keeps inv s (s.takeClearHit p b).1 := by
  unfold State.takeClearHit
  split
  · split
    · exact .refl s
    next owned =>
      split
      · exact .refl s
      · exact s.updOwned_keeps hi _ owned rfl
  · exact .refl s

theorem State.takeRelease_keeps (hi : OfTrips inv) (p : Port) (b : Byte) (s : State) : Keeps inv s (s.takeRelease p b).1 := by
  unfold State.takeRelease
  repeat' split
  · exact .refl s
  · exact .refl s
  · exact s.updWatch_keeps hi _ fun _ _ => rfl
  · exact .refl s

/-! ### Jobs, verdicts, splices and foil (R99, R123, R129, R183) -/

theorem State.disableJobWatches_keeps (hi : OfTrips inv) (s : State) : Keeps inv s s.disableJobWatches := by
  refine ⟨hi _ _ fun _ => ⟨rfl, rfl⟩, id, fun owned v unowned => ?_, id, id, fun _ => (SameBooks.of_same rfl rfl rfl rfl).sound⟩
  simp only [State.disableJobWatches, Four.get_tab] at unowned ⊢
  split at unowned
  next job =>
    rw [owned v unowned] at job
    cases job
  next other => rw [if_neg other]; exact owned v unowned

theorem State.clampTrims_books (s : State) : SameBooks s s.clampTrims := SameBooks.foldl _ (fun s st => s.setTrim_books st _) _ s

theorem State.heatSwitch_keeps (hi : OfTrips inv) (s : State) : Keeps inv s s.heatSwitch :=
  s.heatSwitch_within.calmly hi (fun _ => by simp) (SameBooks.of_same (by simp) (by simp) (by simp) (by simp)).sound

theorem State.takeSwitchJob_keeps (hi : OfTrips inv) (b : Byte) (s : State) : Keeps inv s (s.takeSwitchJob b).1 := by
  have switched : ∀ j, Keeps inv s (s.switchTo j) := by
    intro j
    have active : Keeps inv s (s.activate j) := .of_core hi rfl fun _ => rfl
    have clamped : ∀ t : State, Keeps inv t t.clampTrims := fun t =>
      t.clampTrims_within.calmly hi (fun _ => by simp) t.clampTrims_books.sound
    have restarted : ∀ t : State, Keeps inv t t.restartReader := fun t => .of_core hi rfl fun _ => rfl
    unfold State.switchTo
    exact ((((active.trans (State.disableJobWatches_keeps hi _)).trans (clamped _)).trans (restarted _)).trans
      (State.heatSwitch_keeps hi _)).trans (State.offer_keeps hi _ _)
  unfold State.takeSwitchJob
  repeat' split
  all_goals first
    | exact .refl s
    | exact switched _

theorem State.lateTest_books (s : State) (st : Idx) (r : TrackRecord) (v : Four (Option Verdict)) : SameBooks s (s.lateTest st r v) := by
  unfold State.lateTest
  dsimp only
  repeat' split
  all_goals first
    | exact s.raise_books _
    | exact .refl s

theorem State.lateTest_flags (s : State) (st : Idx) (r : TrackRecord) (v : Four (Option Verdict)) : SameFlags s (s.lateTest st r v) := by
  unfold State.lateTest
  dsimp only
  repeat' split
  all_goals first
    | exact s.warning_flags _ rfl
    | exact .refl s

theorem State.takePostVerdict_keeps (hi : OfTrips inv) (p : Port) (q : SeqNo) (cols : Four Bool) (v : Option PostedVerdict) (s : State) :
    Keeps inv s (s.takePostVerdict p q cols v).1 := by
  have posted : ∀ new : Four (Option Verdict), Keeps inv s (s.updRecord q fun r => { r with verdict := new }) := fun new =>
    ⟨hi _ _ fun _ => ⟨rfl, rfl⟩, id, id, id, .of_seqs (by
      rw [State.updRecord, List.map_map]
      refine List.map_congr_left fun r _ => ?_
      simp only [Function.comp]
      split <;> rfl) rfl, fun _ => (State.updRecord_books s q (f := fun r => { r with verdict := new }) fun _ _ => rfl).sound⟩
  unfold State.takePostVerdict
  split
  · exact .refl s
  split
  · exact .refl s
  split
  · exact .refl s
  · dsimp only
    split
    · exact .refl s
    · refine (posted _).trans (Keeps.foldl _ (fun t st => ?_) _ _)
      exact (t.lateTest_within _ _ _).calmly hi (fun v => (t.lateTest_flags _ _ _ (.station v)).2.2) (t.lateTest_books _ _ _).sound

theorem State.flagTrack_books (s : State) (x : SpliceEntry) : SameBooks s (s.flagTrack x) := by
  have late : ∀ (t : State) (st : Idx) (l : List TrackRecord), SameBooks t (t.spliceLate st l) := by
    intro t st l
    unfold State.spliceLate
    split
    · exact t.raise_books _
    · exact .refl t
  unfold State.flagTrack
  dsimp only
  refine SameBooks.trans ?_ (SameBooks.foldl _ (fun t st => late t st _) _ _)
  refine .of_track rfl (f := fun r => if r.newlyFlagged x then { r with flagged := true } else r) rfl (fun r => ?_) rfl rfl
  split <;> exact fun _ => rfl

theorem State.takeReportSplice_keeps (p : Port) (c : Pos) (s : State) : Keeps TripsBacked s (s.takeReportSplice p c).1 := by
  have listed : ∀ (t : State) l, Keeps TripsBacked t { t with splices := l } := fun t l => .of_core ofTrips_backed rfl fun _ => rfl
  have flagged : ∀ l x, Keeps TripsBacked s (({ s with splices := l } : State).flagTrack x) := fun l x =>
    (listed s l).trans ((State.flagTrack_within _ x).keeps (State.flagTrack_books _ x).sound)
  unfold State.takeReportSplice
  split
  · exact .refl s
  · split
    · exact .refl s
    · dsimp only
      split
      · exact .refl s
      · split
        · exact .refl s
        · dsimp only
          split
          · exact (flagged _ _).trans (listed _ _)
          · exact flagged _ _

theorem State.takeFoilRoll_keeps (hi : OfTrips inv) (p : Port) (sb cb : Byte) (l : BitVec 32) (s : State) :
    Keeps inv s (s.takeFoilRoll p sb cb l).1 := by
  have rolled : ∀ (st c : Idx) (f : Lane → Lane), (∀ x, (f x).reserved = x.reserved) →
      Keeps inv s ((s.updLane st c f).laneChanged st c) := by
    intro st c f h
    have lane : SameBooks s (s.updLane st c f) := .of rfl (fun _ => rfl) rfl fun v k => by
      rw [State.lane_updLane]
      split
      next same => cases same; exact h _
      · rfl
    have changed := ((s.updLane st c f).laneChanged_marked st c).books (by simp) (by simp) fun v k => by
      rw [State.lane_of_lanes (s := s.updLane st c f) (by simp)]
    exact ((s.updLane_within _ _ _).trans (State.laneChanged_within _ _ _)).calmly hi (fun _ => by simp) (lane.trans changed).sound
  unfold State.takeFoilRoll
  repeat' split
  all_goals first
    | exact .refl s
    | exact rolled _ _ _ fun _ => rfl

end Sys2Proof.Machine
end

section
/-! SUPPORT. What every command keeps of the trips, STOP REQUEST, the notices, the watch units and the orders in flight, with the
statements that every step keeps them (O58, O59). -/

namespace Sys2Proof.Machine

/-! ### Events -/

/-- What a command keeps, its trips handed over. -/
abbrev Lasting (s t : State) : Prop := Keeps TripsMirrored s t

theorem execCommit_lasting {s t : State} {st : Idx} {q : SeqNo} (h : execCommit st q s = .next t) : Lasting s t := by
  unfold execCommit at h
  split at h
  next r turn =>
    split at h
    · obtain ⟨mem, due⟩ := State.commitTurn_due turn
      have taken : Keeps TripsBacked s (s.commitRecord st r) := (s.commitRecord_within st r).keeps fun sound =>
        State.commitRecord_sound sound (State.record_of_mem sound.distinct mem) (State.commitDue_pending due)
      exact taken.done h
    · exact (Keeps.refl s).next h
  · exact (Keeps.refl s).next h

theorem execReportDeadline_lasting {s t : State} {st : Idx} {q : SeqNo} (h : execReportDeadline st q s = .next t) : Lasting s t := by
  unfold execReportDeadline at h
  split at h
  next r turn =>
    split at h
    · obtain ⟨mem, due⟩ := State.deadlineTurn_due turn
      have taken : Keeps TripsBacked s (s.takeDeadline st r) := (s.takeDeadline_within st r).keeps fun sound =>
        State.takeDeadline_sound sound (State.record_of_mem sound.distinct mem) due
      exact taken.done h
    · exact (Keeps.refl s).next h
  · exact (Keeps.refl s).next h

theorem execWindowClose_lasting {s t : State} (h : execWindowClose s = .next t) : Lasting s t := by
  unfold execWindowClose at h
  split at h
  · split at h
    · exact s.takeReaderEvents_keeps.done h
    · exact (Keeps.refl s).next h
  · exact (Keeps.refl s).next h

theorem execSearchSynthesis_lasting {s t : State} (h : execSearchSynthesis s = .next t) : Lasting s t := by
  unfold execSearchSynthesis at h
  split at h
  · split at h
    · exact s.takeReaderEvents_keeps.done h
    · exact (Keeps.refl s).next h
  · exact (Keeps.refl s).next h

theorem execMarkEdge_lasting {s t : State} {c : Pos} {b : Bool} (h : execMarkEdge c b s = .next t) : Lasting s t := by
  unfold execMarkEdge at h
  split at h
  · exact (Keeps.refl s).next h
  · exact (s.takeEdge_keeps c).done h

/-- A change of parts of which the invariants say nothing. -/
theorem Lasting.of_core {s t : State} (h : t.core = s.core ∧ t.units = s.units) : Lasting s t :=
  Keeps.of_core ofTrips_mirrored h.1 fun _ => by rw [h.2]

theorem execSpliceZoneEnd_lasting {s t : State} {x : Pos} (h : execSpliceZoneEnd x s = .next t) : Lasting s t := by
  unfold execSpliceZoneEnd at h
  split at h
  · exact Keeps.next (Lasting.of_core (by exact ⟨rfl, rfl⟩)) h
  · exact (Keeps.refl s).next h

theorem execPositionWatch_lasting {s t : State} {w : Idx} (h : execPositionWatch w s = .next t) : Lasting s t := by
  refine Keeps.next ?_ h
  split
  next due =>
    refine s.meetWatch_keeps ofTrips_mirrored _ _ fun none => ?_
    simp [State.watchDue, Watch.awaitedPosition, none] at due
  · exact .refl s

theorem PositionalEvent.after_lasting (e : PositionalEvent) (s : State) : Lasting s (e.after s) := by
  unfold PositionalEvent.after
  split
  next t h =>
    cases e with
    | windowClose => exact execWindowClose_lasting h
    | searchSynthesis => exact execSearchSynthesis_lasting h
    | spliceZoneEnd x => exact execSpliceZoneEnd_lasting h
    | reportDeadline st q => exact execReportDeadline_lasting h
    | commit st q => exact execCommit_lasting h
    | retire => exact (s.retireRun_keeps ofTrips_mirrored).next h
    | positionWatch w => exact execPositionWatch_lasting h
  · exact .refl s
  · exact .refl s

theorem State.handOver_lasting (s : State) : Lasting s s.handOver :=
  s.handOver_keeps (Lasting s) (fun e t _ h => h.trans (e.after_lasting t)) (.refl s)

theorem execEncoderStep_lasting {s t : State} {ch : EncoderChange} (h : execEncoderStep ch s = .next t) : Lasting s t := by
  have moved : ∀ w, Lasting s { s.handOver with web := w } := fun w => s.handOver_lasting.trans (Lasting.of_core ⟨rfl, rfl⟩)
  have tested : ∀ u : State, Lasting u u.reversalTest := fun u =>
    u.reversalTest_within.calmly ofTrips_mirrored (fun st => by rw [u.reversalTest_units]) u.reversalTest_books.sound
  cases ch with
  | forward => exact (moved _).next h
  | backward => exact ((moved _).trans (tested _)).next h
  | bothPhases => exact (Keeps.refl s).next h

theorem execEstopAsserted_lasting {s t : State} (h : execEstopAsserted s = .next t) : Lasting s t := by
  have asserted : ∀ {inv}, OfTrips inv → Keeps inv s { s with estop := true } := fun hi => .of_core hi rfl fun _ => rfl
  unfold execEstopAsserted at h
  dsimp only at h
  split at h
  · exact ((asserted ofTrips_backed).trans (State.enterHold_keeps _)).done h
  · exact (asserted ofTrips_mirrored).next h

/-- The state after reset meets the invariants (O56), and power-on leads to it. -/
theorem execPowerOn_lasting {s t : State} {b : Bool} (h : execPowerOn b s = .next t) : Lasting s t := by
  have fresh : Lasting .reset { State.reset with estop := b, pending := s.pending } := Lasting.of_core ⟨rfl, rfl⟩
  have ordered := trackSound_reset.1
  have books := (booksSound_iff ordered).2 ⟨ordersInFlight_reset, ordersAwaited_reset⟩
  exact Keeps.next ⟨fun _ => fresh.trips tripsMirrored_reset, fun _ => fresh.stop rfl, fun _ => fresh.owned watchesOwned_reset,
    fun _ => fresh.notices noticesOrdered_reset, fun _ => fresh.ordered ordered, fun _ _ => fresh.books ordered books⟩ h

/-- An event of the heat arbiter touches no order. -/
theorem Within.heated {s t : State} (w : Within s t) (h : t.line = s.line ∧ t.track = s.track ∧ t.seqr = s.seqr ∧ t.lanes = s.lanes) :
    Keeps TripsBacked s t := w.keeps (SameBooks.of_same h.1 h.2.1 h.2.2.1 h.2.2.2).sound

theorem State.stationCarrierReturn_lasting (s : State) (st : Idx) : Lasting s (s.stationCarrierReturn st) :=
  Lasting.of_core (by simp [State.core])

theorem State.minHold_lasting (s : State) (st z : Idx) : Lasting s (s.minHold st z) := Lasting.of_core (by simp [State.core])

/-- A port whose carrier returns, or whose transmitter finishes a reply, keeps its notices. -/
theorem State.portStands_lasting (s : State) (p : Port) (c : PortState → Bool) (l : PortState → List Reply) :
    Lasting s (s.updPort p fun ps => { ps with carrier := c ps, tx := l ps }) := s.updPort_keeps ofTrips_mirrored p fun _ => rfl

theorem State.portLoss_lasting (s : State) (p : Port) : Lasting s (s.updPort p PortState.lose) :=
  s.updPort_emptied ofTrips_mirrored p fun x => by
    unfold PortState.lose
    split
    · exact .inl rfl
    · exact .inr rfl

theorem State.reply_lasting (s : State) (p : Port) (tag : Tag) (code : Byte) (a : Answer) : Lasting s (s.reply p tag code a) :=
  s.updPort_keeps ofTrips_mirrored p fun _ => rfl

theorem State.unknownRequest_lasting (s : State) (hdr : ReqHdr) (code : Byte) : Lasting s (s.unknownRequest hdr code) := by
  unfold State.unknownRequest
  repeat' split
  · exact s.serve_keeps ofTrips_mirrored _ _ _ (lineOnly_keeps .refl)
  · exact .refl s
  · exact s.reply_lasting _ _ _ _

theorem State.busyAnswer_lasting (s : State) (p : Port) (tag : Tag) (code : Byte) : Lasting s (s.busyAnswer p tag code) := by
  unfold State.busyAnswer
  split
  · exact s.reply_lasting _ _ _ _
  · exact .refl s

/-! ### Every command -/

theorem lineOnly_lasting {s t : State} {hdr : ReqHdr} {make : ReqHdr → Instr} {code : Byte} {take : State → State × Answer}
    (h : ∀ s, Lasting s (take s).1) (e : (.next (s.serve hdr make code (lineOnly hdr take)) : Outcome State) = .next t) : Lasting s t :=
  (s.serve_keeps ofTrips_mirrored hdr make code (lineOnly_keeps h)).next e

theorem serve_lasting {s t : State} {hdr : ReqHdr} {make : ReqHdr → Instr} {code : Byte} {take : State → State × Answer}
    (h : ∀ s, Lasting s (take s).1) (e : (.next (s.serve hdr make code take) : Outcome State) = .next t) : Lasting s t :=
  (s.serve_keeps ofTrips_mirrored hdr make code h).next e

theorem lineRequest_lasting {s t : State} {hdr : ReqHdr} {make : ReqHdr → Instr} {code : Byte} {take : State → State × Answer}
    (h : ∀ s, Keeps TripsBacked s (take s).1) (e : (s.serve hdr make code (lineRequest hdr take)).done = .next t) : Lasting s t :=
  (s.serve_keeps ofTrips_backed hdr make code (lineRequest_keeps h)).done e

theorem exec_lasting {i : Instr} {s t : State} (h : exec i s = .next t) : Lasting s t := by
  have hi := ofTrips_mirrored
  cases i
  case powerOn => exact execPowerOn_lasting h
  case encoderStep => exact execEncoderStep_lasting h
  case speedIntervalEnd => exact Keeps.next (Lasting.of_core (by exact ⟨rfl, rfl⟩)) h
  case markEdge => exact execMarkEdge_lasting h
  case windowClose => exact execWindowClose_lasting h
  case searchSynthesis => exact execSearchSynthesis_lasting h
  case commit => exact execCommit_lasting h
  case orderAck => exact ((s.orderAck_within _ _ _).keeps fun sound => State.orderAck_sound sound _ _ _).done h
  case ackTimeout => exact ((s.ackTimeout_within _).keeps fun sound => State.ackTimeout_sound sound _).done h
  case strikeReport => exact ((s.strikeReport_within _ _).keeps fun sound => State.strikeReport_sound sound _ _).done h
  case reportDeadline => exact execReportDeadline_lasting h
  case retire => exact (s.retireRun_keeps hi).next h
  case spliceZoneEnd => exact execSpliceZoneEnd_lasting h
  case positionWatch => exact execPositionWatch_lasting h
  case abortReport => exact ((s.abortReport_within _ _ _ _).keeps fun sound => State.abortReport_sound sound _ _ _ _).done h
  case abortTimeout => exact ((s.abortTimeout_within _).keeps fun sound => State.abortTimeout_sound sound _).done h
  case stationLinkLoss => exact ((s.stationLinkLoss_within _).keeps fun sound => State.stationLinkLoss_sound sound _).done h
  case stationCarrierReturn => exact (s.stationCarrierReturn_lasting _).next h
  case stationFrameSent => exact Keeps.next (Lasting.of_core (by exact ⟨rfl, rfl⟩)) h
  case stationFrameDropped => exact (Keeps.refl s).next h
  case heatReading => exact ((s.heatReading_within _ _).heated (by simp)).done h
  case millisecondTick => exact Keeps.next (Lasting.of_core (by exact ⟨rfl, rfl⟩)) h
  case staleHeat => exact ((s.staleHeat_within _).heated (by simp)).done h
  case minHoldReached => exact (s.minHold_lasting _ _).next h
  case maxHoldExpiry => exact ((s.maxHold_within _ _).heated (by simp)).done h
  case estopAsserted => exact execEstopAsserted_lasting h
  case estopCleared => exact Keeps.next (Lasting.of_core (by exact ⟨rfl, rfl⟩)) h
  case portLinkLoss => exact (s.portLoss_lasting _).next h
  case portCarrierReturn => exact (s.portStands_lasting _ (fun _ => true) fun ps => ps.tx).next h
  case portFrameDropped => exact (Keeps.refl s).next h
  case unknownRequest => exact (s.unknownRequest_lasting _ _).next h
  case portReplySent => exact (s.portStands_lasting _ (fun ps => ps.carrier) fun ps => ps.tx.tail).next h
  case start => exact lineRequest_lasting State.takeStart_keeps h
  case hold => exact lineRequest_lasting State.takeHold_keeps h
  case resume => exact lineRequest_lasting State.takeResume_keeps h
  case stop => exact lineRequest_lasting State.takeStop_keeps h
  case lineReset => exact lineRequest_lasting State.takeLineReset_keeps h
  case stationReset => exact lineRequest_lasting (State.takeStationReset_keeps _) h
  case editHoldContextTrim => exact lineOnly_lasting (State.takeEditTrim_keeps hi _ _) h
  case editHoldContextAction => exact lineOnly_lasting (State.takeEditAction_keeps hi _ _ _) h
  case clearFlags => exact lineOnly_lasting (State.takeClearFlags_keeps hi _ _) h
  case setFlags => exact lineOnly_lasting (State.takeSetFlags_keeps hi _ _ _) h
  case clearFaultRecord => exact lineOnly_lasting (State.takeClearFaultRecord_keeps hi _) h
  case setZoneMask => exact lineOnly_lasting (State.takeSetZoneMask_keeps hi _ _ _) h
  case finishZone => exact lineOnly_lasting (State.takeFinishZone_keeps hi _ _ _) h
  case setLowest => exact lineOnly_lasting (State.takeSetLowest_keeps hi _ _) h
  case beginJob => exact lineOnly_lasting (State.takeBeginJob_keeps hi _ _) h
  case jobItemGlobal => exact lineOnly_lasting (State.takeItemGlobal_keeps hi _ _) h
  case jobItemStation => exact lineOnly_lasting (State.takeItemStation_keeps hi _ _ _) h
  case jobItemZone => exact lineOnly_lasting (State.takeItemZone_keeps hi _ _ _ _) h
  case jobItemLane => exact lineOnly_lasting (State.takeItemLane_keeps hi _ _ _ _ _ _) h
  case jobItemRemoveStation => exact lineOnly_lasting (State.takeItemRemove_keeps hi _ _) h
  case checkJob => exact lineOnly_lasting (State.takeCheckJob_keeps hi _) h
  case switchJob => exact lineOnly_lasting (State.takeSwitchJob_keeps hi _) h
  case writeLineSettings => exact lineOnly_lasting (State.takeWriteSettings_keeps hi _) h
  case postVerdict => exact serve_lasting (State.takePostVerdict_keeps hi _ _ _ _) h
  case approveFirstOff => exact serve_lasting (State.takeApprove_keeps hi _ _ _) h
  case reportSplice => exact (s.serve_keeps ofTrips_backed _ _ _ (State.takeReportSplice_keeps _ _)).done h
  case reportFoilRoll => exact serve_lasting (State.takeFoilRoll_keeps hi _ _ _ _) h
  case armWatch => exact serve_lasting (State.takeArm_keeps hi _ _) h
  case enableWatch => exact serve_lasting (State.takeEnable_keeps hi _ _ _) h
  case clearWatchHit => exact serve_lasting (State.takeClearHit_keeps hi _ _) h
  case releaseWatch => exact serve_lasting (State.takeRelease_keeps hi _ _) h
  case readTrack | readStation | readLane | readZone | readLine | readFaultRecord | readWatch => exact serve_lasting Keeps.refl h
  case takeNotices => exact serve_lasting (State.takeNotices_keeps hi _) h
  case setRouting => exact serve_lasting (State.takeSetRouting_keeps hi _ _ _) h
  case subscribeOutcomes => exact serve_lasting (fun _ => Lasting.of_core ⟨rfl, rfl⟩) h
  case takeOutcomes => exact serve_lasting (State.takeOutcomes_keeps hi _) h
  case busyAnswer => exact (s.busyAnswer_lasting _ _ _).next h

theorem step_lasting {s t : State} (h : step s = .next t) : Lasting s t := by
  have queue : ∀ cs, Lasting s { s with pending := cs } := fun _ => Lasting.of_core ⟨rfl, rfl⟩
  unfold step at h
  split at h
  · exact (queue _).trans (exec_lasting h)
  · split at h
    · exact exec_lasting h
    · exact (Keeps.refl s).next h

end Sys2Proof.Machine

open Sys2Proof Sys2Proof.Machine

/-- Settles O58: the two invariants say that every station's order book is sound, and each command is a sequence of events on the
books, each of which keeps them sound. -/
theorem everyStepKeepsTheOrdersInFlight : Obligations.EveryStepKeepsTheOrdersInFlight := by
  rintro s t ⟨ordered, mirrored, inFlight, awaited⟩ ran
  have keeps := step_lasting ran
  have after := keeps.ordered ordered
  exact ⟨after, keeps.trips mirrored, (booksSound_iff after).1 (keeps.books ordered ((booksSound_iff ordered).2 ⟨inFlight, awaited⟩))⟩

/-- Settles O59: no change but a trip leaves a station state behind its fault unit, and every command that can trip a unit hands its
trips over at its end; the other three are kept by every change. -/
theorem everyStepKeepsUnitsNoticesAndWatches : Obligations.EveryStepKeepsUnitsNoticesAndWatches := by
  rintro s t ⟨mirrored, stop, owned, notices⟩ ran
  have keeps := step_lasting ran
  exact ⟨keeps.trips mirrored, keeps.stop stop, keeps.owned owned, keeps.notices notices⟩

end

section
/-! SUPPORT. The station links: where a HEAT ORDER stands among the frames that wait, and what the transmitter does as a carrier returns or
a frame has been sent, with the statement about a link's events (O8). -/

namespace Sys2Proof.Machine

/-- The on-set takes the place of the HEAT ORDER that waits, or joins behind the other frames (R111). -/
theorem placeHeat_eq (on : Four Bool) {l : List LinkFrame} (h : (l.filter LinkFrame.isHeat).length ≤ 1) :
    placeHeat on l = if l.any LinkFrame.isHeat then l.map fun f => if f.isHeat then .heatOrder on else f else l ++ [.heatOrder on] := by
  induction l with
  | nil => rfl
  | cons f fs ih =>
    cases heat : f.isHeat with
    | true =>
      have rest : ∀ x ∈ fs, ¬ x.isHeat = true := by simpa [heat] using h
      have kept : (fs.map fun f => if f.isHeat then .heatOrder on else f) = fs :=
        (List.map_congr_left fun x hx => if_neg (rest x hx)).trans (List.map_id fs)
      simp [placeHeat, heat, kept]
    | false =>
      rw [placeHeat, heat, ih (by simpa [heat] using h)]
      by_cases waits : fs.any LinkFrame.isHeat <;> simp [heat, waits]

/-- With the carrier up and the transmitter free the first frame that waits starts (R192). -/
theorem Link.pump_free {l : Link} (up : l.carrier = true) (free : l.sending = none) (some : l.waiting ≠ []) :
    l.pump = { carrier := true, sending := l.waiting.head?, waiting := l.waiting.tail } := by
  obtain ⟨carrier, sending, waiting⟩ := l
  cases up
  cases free
  cases waiting with
  | nil => exact absurd rfl some
  | cons f fs => rfl

theorem Link.pump_empty {l : Link} (none : l.waiting = []) : l.pump = l := by
  obtain ⟨carrier, sending, waiting⟩ := l
  cases none
  cases carrier <;> cases sending <;> rfl

theorem placeHeat_ne_nil (on : Four Bool) (l : List LinkFrame) : placeHeat on l ≠ [] := by
  cases l with
  | nil => simp [placeHeat]
  | cons f fs => rw [placeHeat]; split <;> simp

/-- A frame handed over while the transmitter is free starts, or the first of those that wait does (R192). -/
theorem Link.hand_heat_free {l : Link} (up : l.carrier = true) (free : l.sending = none) (on : Four Bool) :
    l.hand (.heatOrder on) =
      { carrier := true, sending := (placeHeat on l.waiting).head?, waiting := (placeHeat on l.waiting).tail } :=
  Link.pump_free (l := { l with waiting := placeHeat on l.waiting }) up free (placeHeat_ne_nil on l.waiting)

theorem State.stationCarrierReturn_down {s : State} {st : Idx} (down : (s.links.get st).carrier = false) :
    s.stationCarrierReturn st = { s with
      links := s.links.set st (({ s.links.get st with carrier := true } : Link).hand (.heatOrder (s.onSetOf st)))
      heat := { s.heat with onSet := s.heat.onSet.set st (s.onSetOf st) } } := by
  rw [State.stationCarrierReturn, if_neg (by simp [down])]
  rfl

end Sys2Proof.Machine

open Sys2Proof Sys2Proof.Machine

/-- Settles O8: a carrier that returns hands the on-set over to a free transmitter, which starts the first of the frames that then wait, and
so does one that has finished its frame. -/
theorem stationLinkEventsMoveFrames : Obligations.StationLinkEventsMoveFrames := by
  refine ⟨fun st s down free one => ?_, fun st s f fs up waits => ?_, fun st s none => ?_, fun _ _ => rfl⟩
  · dsimp only
    rw [← placeHeat_eq _ one]
    have returned := State.stationCarrierReturn_down down
    rw [Link.hand_heat_free (l := { s.links.get st with carrier := true }) rfl free] at returned
    exact congrArg Host.Outcome.next returned
  · have sent : (s.links.get st).sent = { carrier := true, sending := some f, waiting := fs } := by
      rw [Link.sent, Link.pump_free (l := { s.links.get st with sending := none }) up rfl (by simp [waits]), waits]
      rfl
    show Host.Outcome.next (s.updLink st Link.sent) = _
    rw [State.updLink, Four.upd, sent]
  · have sent : (s.links.get st).sent = { s.links.get st with sending := Option.none } := Link.pump_empty none
    show Host.Outcome.next (s.updLink st Link.sent) = _
    rw [State.updLink, Four.upd, sent]

end

section
/-! SUPPORT. Orders closed without a report (O40, O42, O43; R70, R71, R76, R79, R82): what closing does to the track, the lanes and the
faults, the queue that moves up behind it, and the trip that an event can end in. -/

namespace Sys2Proof.Machine

/-! ### The records and the lanes -/

/-- Between the two states the records of the track become `g` of what they were, each lane of the station has what is freed released of
its reserved foil, with nothing consumed, and nothing of another station changes. -/
structure ClosedAt (st : Idx) (g : TrackRecord → TrackRecord) (freed : Idx → Nat) (s t : State) : Prop where
  track : t.track = s.track.map g
  foil : ∀ c, (t.lane st c).foil = ((s.lane st c).remaining, (s.lane st c).reserved - freed c)
  elsewhere : SameElsewhere s t st

namespace ClosedAt

variable {st : Idx} {g h : TrackRecord → TrackRecord} {m n : Idx → Nat} {s t u : State}

theorem refl (st : Idx) (s : State) : ClosedAt st id (fun _ => 0) s s :=
  ⟨(List.map_id _).symm, fun _ => rfl, .of_same st rfl rfl rfl rfl rfl⟩

/-- A change of the station that leaves the track and the lanes. -/
theorem still (a : ClosedAt st g m s t) (track : u.track = t.track) (lanes : u.lanes = t.lanes) (elsewhere : SameElsewhere t u st) :
    ClosedAt st g m s u :=
  ⟨track.trans a.track, fun c => by rw [State.lane_of_lanes lanes]; exact a.foil c, a.elsewhere.trans elsewhere⟩

theorem trans (a : ClosedAt st g m s t) (b : ClosedAt st h n t u) : ClosedAt st (h ∘ g) (fun c => m c + n c) s u where
  track := by rw [b.track, a.track, List.map_map]
  foil c := by
    have remaining : (t.lane st c).remaining = (s.lane st c).remaining := congrArg Prod.fst (a.foil c)
    have reserved : (t.lane st c).reserved = (s.lane st c).reserved - m c := congrArg Prod.snd (a.foil c)
    rw [b.foil, remaining, reserved, Nat.sub_sub]
  elsewhere := a.elsewhere.trans b.elsewhere

/-- Behind changes that leave the track and the lanes. -/
theorem after (a : ClosedAt st h n t u) (track : t.track = s.track) (lanes : t.lanes = s.lanes) (elsewhere : SameElsewhere s t st) :
    ClosedAt st h n s u := by
  have b := ((ClosedAt.refl st s).still track lanes elsewhere).trans a
  exact ⟨b.track, fun c => by rw [b.foil, Nat.zero_add], b.elsewhere⟩

theorem congr (a : ClosedAt st g m s t) (records : ∀ r ∈ s.track, g r = h r) (freed : ∀ c, m c = n c) : ClosedAt st h n s t :=
  ⟨a.track.trans (List.map_congr_left records), fun c => by rw [a.foil, freed], a.elsewhere⟩

/-- What of a lane's foil stands and what is reserved. -/
theorem lanes (a : ClosedAt st g m s t) (c : Idx) : ((t.lanes.get st).get c).reserved = ((s.lanes.get st).get c).reserved - m c ∧
    ((t.lanes.get st).get c).remaining = ((s.lanes.get st).get c).remaining :=
  ⟨congrArg Prod.snd (a.foil c), congrArg Prod.fst (a.foil c)⟩

end ClosedAt

/-- The status of the order of a seq at a station becomes `x`. -/
def statusAt (st : Idx) (q : SeqNo) (x : Status) (r : TrackRecord) : TrackRecord :=
  if r.seq = q then r.updStation st fun f => { f with status := x } else r

/-- What of a record its STRIKE ORDER is made of (R68). -/
def TrackRecord.orderAt (r : TrackRecord) (st : Idx) : SeqNo × Decision × Option Pos × Option (Four Nat) :=
  (r.seq, (r.st.get st).decision, (r.st.get st).target, (r.st.get st).feed)

theorem statusAt_orderAt (st : Idx) (q : SeqNo) (x : Status) (r : TrackRecord) : (statusAt st q x r).orderAt st = r.orderAt st := by
  unfold statusAt
  split
  · simp [TrackRecord.orderAt, TrackRecord.updStation]
  · rfl

theorem State.feedsOf_one (s : State) (st c : Idx) (q : SeqNo) :
    s.feedsOf st c [q] = ((s.record q).map fun r => (r.st.get st).feeds.get c).getD 0 := by
  simp [State.feedsOf, StationField.feeds]

theorem State.feedsOf_cons (s : State) (st c : Idx) (q : SeqNo) (l : List SeqNo) :
    s.feedsOf st c (q :: l) = s.feedsOf st c [q] + s.feedsOf st c l := by simp [State.feedsOf]

theorem State.feedsOf_record {s : State} {q : SeqNo} {r : TrackRecord} (record : s.record q = some r) (st c : Idx) :
    s.feedsOf st c [q] = ((r.st.get st).feed.getD (.all 0)).get c := by
  rw [State.feedsOf_one, record]
  rfl

theorem findRecord_map_of_seq {g : TrackRecord → TrackRecord} (seq : ∀ r, (g r).seq = r.seq) (q : SeqNo) (l : List TrackRecord) :
    findRecord q (l.map g) = (findRecord q l).map g := by
  induction l with
  | nil => rfl
  | cons r rs ih =>
    by_cases h : r.seq = q
    · simp [findRecord, h, seq]
    · simp [findRecord, h, seq, ih]

/-- The orders of the records stand at a station. -/
def SameOrders (st : Idx) (s t : State) : Prop := ∀ q, (t.record q).map (·.orderAt st) = (s.record q).map (·.orderAt st)

theorem SameOrders.refl (st : Idx) (s : State) : SameOrders st s s := fun _ => rfl

theorem SameOrders.trans {st : Idx} {s t u : State} (a : SameOrders st s t) (b : SameOrders st t u) : SameOrders st s u :=
  fun q => (b q).trans (a q)

theorem SameOrders.of_map {st : Idx} {s t : State} {g : TrackRecord → TrackRecord} (track : t.track = s.track.map g)
    (h : ∀ r, (g r).orderAt st = r.orderAt st) : SameOrders st s t := fun q => by
  have seq : ∀ r, (g r).seq = r.seq := fun r => congrArg (·.1) (h r)
  rw [State.record, track, findRecord_map_of_seq seq, Option.map_map]
  exact congrArg (fun f => Option.map f (findRecord q s.track)) (funext h)

theorem SameOrders.of_track {st : Idx} {s t : State} (track : t.track = s.track) : SameOrders st s t :=
  .of_map (g := id) (track.trans (List.map_id _).symm) fun _ => rfl

theorem SameOrders.feedsOf {st : Idx} {s t : State} (h : SameOrders st s t) (c : Idx) (l : List SeqNo) :
    t.feedsOf st c l = s.feedsOf st c l := by
  unfold State.feedsOf
  congr 1
  refine List.map_congr_left fun q _ => ?_
  have feed : ∀ x : Option TrackRecord, x.map (fun r => ((r.st.get st).feed.getD (.all 0)).get c) =
      (x.map (·.orderAt st)).map fun y => (y.2.2.2.getD (.all 0)).get c := fun x => by rw [Option.map_map]; rfl
  rw [feed, feed, h q]

theorem SameOrders.isSome {st : Idx} {s t : State} (h : SameOrders st s t) (q : SeqNo) : (t.record q).isSome = (s.record q).isSome := by
  have := congrArg Option.isSome (h q)
  simpa using this

/-! ### Closing without a report (R70, R71, R79, R82, R94) -/

theorem map_statusAt_of_absent {s : State} {q : SeqNo} (absent : s.record q = none) (st : Idx) (x : Status) :
    s.track.map (statusAt st q x) = s.track := by
  have none : ∀ r ∈ s.track, r.seq ≠ q := by
    have key : ∀ l : List TrackRecord, findRecord q l = Option.none → ∀ r ∈ l, r.seq ≠ q := by
      intro l
      induction l with
      | nil => simp
      | cons r rs ih =>
        intro h
        unfold findRecord at h
        split at h
        · cases h
        next other => exact List.forall_mem_cons.2 ⟨other, ih h⟩
    exact key _ absent
  exact (List.map_congr_left fun r hr => if_neg (none r hr)).trans (List.map_id _)

theorem State.updField_status_track (s : State) (q : SeqNo) (st : Idx) (x : Status) :
    (s.updField q st fun f => { f with status := x }).track = s.track.map (statusAt st q x) := rfl

theorem State.closeUnreported_track (s : State) (st : Idx) (q : SeqNo) (x : Status) :
    (s.closeUnreported st q x).track = s.track.map (statusAt st q x) := by
  unfold State.closeUnreported
  split
  · simp only [State.endUnreported_track]
    rfl
  next absent => exact (map_statusAt_of_absent absent st x).symm

theorem State.lowTest_elsewhere (s : State) (st c : Idx) : SameElsewhere s (s.lowTest st c) st := by
  have low : SameElsewhere s (s.updLane st c fun l => { l with state := .low }) st := fun v hv => by
    simp [State.updLane, hv]
  unfold State.lowTest
  dsimp only
  split
  · exact (low.trans (State.raise_elsewhere _ rfl)).trans (.of_same st rfl rfl rfl rfl rfl)
  · exact .of_same st rfl rfl rfl rfl rfl

theorem SameElsewhere.foldl {α : Type} {st : Idx} (g : State → α → State) (h : ∀ s x, SameElsewhere s (g s x) st) (l : List α) (s : State) :
    SameElsewhere s (l.foldl g s) st := by
  induction l generalizing s with
  | nil => exact .of_same st rfl rfl rfl rfl rfl
  | cons x xs ih => exact (h s x).trans (ih _)

theorem State.release_elsewhere (s : State) (st : Idx) (n : Four Nat) : SameElsewhere s (s.release st n) st := fun v hv => by
  simp [State.release, State.updLanes, hv]

theorem State.endUnreported_elsewhere (s : State) (st : Idx) (j : Slot) (q : SeqNo) (n : Four Nat) :
    SameElsewhere s (s.endUnreported st j q n) st := by
  have given : ∀ t : State, SameElsewhere t (t.giveUpFirstOff j st q) st := fun t =>
    .of_same st (by simp) (by simp) (by simp) (by simp) (by simp)
  exact ((s.release_elsewhere st n).trans (given _)).trans (SameElsewhere.foldl _ (fun t c => t.lowTest_elsewhere st c) _ _)

theorem State.closeUnreported_elsewhere (s : State) (st : Idx) (q : SeqNo) (x : Status) : SameElsewhere s (s.closeUnreported st q x) st := by
  have left : ∀ t : State, SameElsewhere t (t.leaveInFlight st q) st := fun t => t.updSeqr_elsewhere st _
  have settled : SameElsewhere s (s.updField q st fun f => { f with status := x }) st := .of_same st rfl rfl rfl rfl rfl
  unfold State.closeUnreported
  split
  · exact (settled.trans (left _)).trans (State.endUnreported_elsewhere _ st _ _ _)
  · exact left s

theorem State.closeUnreported_closedAt (s : State) (st : Idx) (q : SeqNo) (x : Status) :
    ClosedAt st (statusAt st q x) (fun c => s.feedsOf st c [q]) s (s.closeUnreported st q x) where
  track := s.closeUnreported_track st q x
  foil c := by
    cases record : s.record q with
    | some r => rw [State.closeUnreported_foil record, if_pos rfl, State.feedsOf_record record]; rfl
    | none =>
      have absent : s.closeUnreported st q x = s.leaveInFlight st q := by unfold State.closeUnreported; rw [record]
      rw [absent, State.feedsOf_one, record]
      rfl
  elsewhere := s.closeUnreported_elsewhere st q x

theorem State.endUnreported_faults (s : State) (st : Idx) (j : Slot) (q : SeqNo) (n : Four Nat) :
    FaultsTaken st [] false s (s.endUnreported st j q n) :=
  FaultsTaken.trans (k := []) (.of_units st (by simp) (by simp) (by simp))
    (FaultsTaken.foldl _ (fun t c => t.lowTest_faults st c) Idx.all (s.settleUnreported st j q n))

theorem State.closeUnreported_faults (s : State) (st : Idx) (q : SeqNo) (x : Status) : FaultsTaken st [] false s (s.closeUnreported st q x) := by
  unfold State.closeUnreported
  split
  next r _ =>
    have left : FaultsTaken st [] false s ((s.updField q st fun f => { f with status := x }).leaveInFlight st q) := .of_units st rfl rfl id
    exact FaultsTaken.trans (k := []) (l := []) left (State.endUnreported_faults _ st _ _ _)
  · exact .of_units st rfl rfl id

/-! ### The queue that moves up (R68) -/

/-- With nothing awaited the queued order goes out, as it was computed. -/
theorem State.releaseQueue_goesOut {s u : State} {st : Idx} {sq : Sequencer} (seqr : u.seqr.get st = sq) (idle : sq.awaited = .none)
    (orders : SameOrders st s u) (link : u.links.get st = (s.links.get st).withdraw) : QueuedGoesOut s (u.releaseQueue st) st sq := by
  unfold QueuedGoesOut State.releaseQueue
  rw [seqr, idle]
  cases queue : sq.queue with
  | none => exact ⟨seqr, link⟩
  | some q =>
    have same := orders q
    simp only [Option.bind_some, State.transmit]
    cases before : s.record q with
    | none =>
      have absent : u.record q = none := by simpa [before] using same
      rw [absent]
      exact ⟨seqr, link⟩
    | some r =>
      rw [before] at same
      obtain ⟨r', record, key⟩ := Option.map_eq_some_iff.1 same
      simp only [TrackRecord.orderAt, Prod.mk.injEq] at key
      obtain ⟨seq, decision, target, feed⟩ := key
      have order : r.seq = q := findRecord_seq before
      rw [record]
      simp [State.updSeqr, State.updLink, seqr, link, order, TrackRecord.strikeOrder, seq, decision, target, feed, StationField.issued,
        StationField.feeds, Config.ackTimeout, Link.withdraw]

theorem State.releaseQueue_elsewhere (s : State) (st : Idx) : SameElsewhere s (s.releaseQueue st) st := by
  unfold State.releaseQueue
  split
  · exact s.transmit_elsewhere st _
  · exact .of_same st rfl rfl rfl rfl rfl

theorem State.clearAwaited_elsewhere (s : State) (st : Idx) : SameElsewhere s (s.clearAwaited st) st :=
  (s.updSeqr_elsewhere st _).trans (State.updLink_elsewhere _ st _)

/-- Once the queued order has gone out an abort of what is in flight can be requested (R80). -/
theorem QueuedGoesOut.abortable {s t : State} {st : Idx} {sq : Sequencer} (out : QueuedGoesOut s t st sq) (idle : sq.awaited = .none)
    (stands : ∀ x, sq.queue = some x → (∃ e ∈ sq.inFlight, e.seq = x) ∧ (s.record x).isSome = true) :
    (t.seqr.get st).inFlight = sq.inFlight ∧ (t.seqr.get st).queue = none ∧ (t.seqr.get st).awaited ≠ .abort ∧
      ((t.seqr.get st).inFlight = [] → (t.seqr.get st).awaited = .none) := by
  unfold QueuedGoesOut at out
  dsimp only at out
  cases queue : sq.queue with
  | none =>
    simp only [queue, Option.bind_none] at out
    rw [out.1]
    simp [idle, queue]
  | some x =>
    obtain ⟨⟨y, hy, -⟩, record⟩ := stands x queue
    obtain ⟨r, found⟩ := Option.isSome_iff_exists.1 record
    simp only [queue, Option.bind_some, found] at out
    rw [out.1]
    exact ⟨rfl, rfl, by simp, fun none => absurd none (List.ne_nil_of_mem hy)⟩

/-- What of the sequencer the order that goes out leaves. -/
theorem QueuedGoesOut.rest {s t : State} {st : Idx} {sq : Sequencer} (out : QueuedGoesOut s t st sq) :
    (t.seqr.get st).overdue = sq.overdue ∧ (t.seqr.get st).context = sq.context ∧ (t.seqr.get st).lastTimedOut = sq.lastTimedOut ∧
      (t.seqr.get st).tripped = sq.tripped := by
  unfold QueuedGoesOut at out
  dsimp only at out
  split at out <;> rw [out.1] <;> exact ⟨rfl, rfl, rfl, rfl⟩

/-! ### The end of the event (R84, R153, R155) -/

/-- What has been done to the units in an event at a station: none other has taken a fault, and the stations' states stand. -/
structure EventAt (st : Idx) (hards : List FaultKey) (soft : Bool) (s u : State) : Prop where
  faults : FaultsTaken st hards soft s u
  trips : ∀ v, (u.seqr.get v).tripped = (s.seqr.get v).tripped

section
variable {s u : State} {st : Idx} {hards : List FaultKey} {soft : Bool}

/-- The faults of the event do not trip the unit: it ends as it stands. -/
theorem EventAt.steady (e : EventAt st hards soft s u) (mirrored : TripsMirrored s)
    (steady : (s.units.get st).tripped = true ∨ (s.units.get st).hard.toNat + hards.length < 2) :
    u.done = .next u ∧ ∀ v, (u.units.get v).tripped = (s.units.get v).tripped := by
  have kept : ∀ v, (u.units.get v).tripped = (s.units.get v).tripped := fun v => by
    by_cases station : v = st
    · subst station
      rw [e.faults.tripped]
      obtain tripped | few := steady
      · simp [tripped]
      · simp [Nat.not_le.2 few]
    · rw [e.faults.elsewhere v station]
  exact ⟨State.done_of mirrored kept e.trips, kept⟩

/-- They trip it: the trip is handed over at the end. -/
theorem EventAt.trips_over (e : EventAt st hards soft s u) (mirrored : TripsMirrored s) (untripped : (s.units.get st).tripped = false)
    (many : 2 ≤ (s.units.get st).hard.toNat + hards.length) : u.done = .next (u.tripEffects st) := by
  have tripped : (u.units.get st).tripped = true := by simp [e.faults.tripped, many]
  unfold State.done
  rw [State.settleTrips_of_trip tripped ?_ fun v other up => ?_]
  · rw [e.trips, mirrored st, untripped]
  · rw [e.faults.elsewhere v other] at up
    rw [e.trips, mirrored v, up]

/-- What of the trip the unit and the station show, where what is handed over leaves the units and STOP REQUEST (R84, R155). -/
theorem EventAt.unitTripTaken (e : EventAt st hards soft s u) (stands : soft = false ∨ (s.units.get st).soft = true)
    (untripped : (s.units.get st).tripped = false) (many : 2 ≤ (s.units.get st).hard.toNat + hards.length) {t : State}
    (units : t.units = u.units) (stopReq : t.stopReq = u.stopReq) (told : (t.seqr.get st).tripped = true)
    (unphased : (t.calcs.get st).phased = false) : UnitTripTaken s t st := by
  have tripped : (u.units.get st).tripped = true := by simp [e.faults.tripped, many]
  obtain ⟨asserted, cause⟩ := e.faults.stop untripped tripped
  have some : 0 < hards.length := by
    have one := Bool.toNat_le (s.units.get st).hard
    omega
  have first : (u.units.get st).first.map FaultRecord.key ≠ none := by
    obtain ⟨k, ks, faulted⟩ := List.exists_cons_of_length_pos some
    rw [e.faults.first, faulted]
    cases (s.units.get st).first <;> simp
  refine ⟨?_, ?_, ?_, ?_, ?_, ?_, told, unphased⟩
  · simp [units, e.faults.hard, some]
  · rw [units, tripped]
  · rw [units, e.faults.soft]
    obtain clear | set := stands
    · rw [clear, Bool.or_false]
    · rw [set, Bool.true_or]
  · rw [units]
    simpa using first
  · rw [stopReq, asserted]
  · rw [stopReq, cause]

/-- The trip is taken, and the orders in flight are named in an abort (R84, R155). -/
theorem EventAt.tripTaken (e : EventAt st hards soft s u) (stands : soft = false ∨ (s.units.get st).soft = true) (untripped : (s.units.get st).tripped = false)
    (many : 2 ≤ (s.units.get st).hard.toNat + hards.length) {left : List InFlight}
    (abortable : (u.seqr.get st).inFlight = left ∧ (u.seqr.get st).queue = none ∧ (u.seqr.get st).awaited ≠ .abort ∧
      ((u.seqr.get st).inFlight = [] → (u.seqr.get st).awaited = .none)) : TripTaken s (u.tripEffects st) st left := by
  obtain ⟨inFlight, queue, unaborted, idle⟩ := abortable
  obtain ⟨-, -, units, -, stopReq, calcs⟩ := State.tripEffects_frame_unqueued queue unaborted
  obtain ⟨told, inFlight', queue', awaited', named'⟩ := State.tripEffects_aborts queue unaborted idle
  rw [inFlight] at inFlight' awaited' named'
  exact ⟨e.unitTripTaken stands untripped many units stopReq told (by simp [calcs]), inFlight', queue', awaited', named'⟩

end

/-- A trip at a station with an empty link queue leaves the track and the lanes, and of its sequencer what is overdue, the hold context and
the last timeout (R84). -/
theorem State.tripEffects_keeps {s : State} {st : Idx} (queue : (s.seqr.get st).queue = none) (unaborted : (s.seqr.get st).awaited ≠ .abort) :
    ((s.tripEffects st).seqr.get st).overdue = (s.seqr.get st).overdue ∧
    ((s.tripEffects st).seqr.get st).context = (s.seqr.get st).context ∧
    ((s.tripEffects st).seqr.get st).lastTimedOut = (s.seqr.get st).lastTimedOut := by
  rw [State.tripEffects_unqueued queue unaborted]
  dsimp only
  split
  · simp [State.updSeqr, State.unphase, State.updCalc]
  · unfold State.sendAbort
    dsimp only
    split <;> simp [State.updSeqr, State.updLink, State.unphase, State.updCalc]

theorem ClosedAt.tripped {s u : State} {st : Idx} {g : TrackRecord → TrackRecord} {m : Idx → Nat} (a : ClosedAt st g m s u)
    (queue : (u.seqr.get st).queue = none) (unaborted : (u.seqr.get st).awaited ≠ .abort) : ClosedAt st g m s (u.tripEffects st) := by
  obtain ⟨track, lanes, -⟩ := State.tripEffects_frame_unqueued queue unaborted
  exact a.still track lanes (State.tripEffects_elsewhere queue unaborted)

end Sys2Proof.Machine

end

section
/-! SUPPORT. Reports that stay out or come late (O42; R76, R77). -/

namespace Sys2Proof.Machine

/-! ### The deadline (R76) -/

/-- An order whose report stays out is UNCONFIRMED: it leaves the in-flight list, its feeds are released, and a copy of it is overdue. -/
def State.unconfirmed (s : State) (st : Idx) (r : TrackRecord) : State :=
  (((s.updField r.seq st fun f => { f with status := .unconfirmed }).leaveInFlight st r.seq).release st (r.st.get st).feeds).pushOverdue st
    (r.overdueCopy st)

/-- The fault of a report that stays out. -/
def TrackRecord.noReport (r : TrackRecord) (st : Idx) : FaultEvent :=
  { kind := .noReport, unit := .station st, seq := some r.seq, target := (r.st.get st).target }

/-- The overdue list with one more entry, the older of two being dropped (R60). -/
def pushedOverdue (l : List OverdueEntry) (x : OverdueEntry) : List OverdueEntry :=
  (match l with
    | [] => []
    | y :: ys => if 2 ≤ ys.length + 1 then ys else y :: ys) ++ [x]

section
variable (s : State) (st : Idx) (r : TrackRecord)

theorem State.takeDeadline_eq : s.takeDeadline st r = (s.unconfirmed st r).raise (r.noReport st) := rfl

theorem State.pushOverdue_seqr (x : OverdueEntry) : (s.pushOverdue st x).seqr =
    s.seqr.upd st fun sq => { sq with overdue := pushedOverdue (s.seqr.get st).overdue x } := (Orders.push_overdue_spec s st x).1

theorem State.unconfirmed_seqr : (s.unconfirmed st r).seqr = s.seqr.upd st fun sq =>
    { sq with inFlight := sq.inFlight.filter (fun e => decide (e.seq ≠ r.seq)),
              overdue := pushedOverdue (s.seqr.get st).overdue (r.overdueCopy st) } := by
  unfold State.unconfirmed
  rw [State.pushOverdue_seqr]
  simp [State.leaveInFlight, State.updSeqr, State.release, State.updLanes, Four.upd_upd]

@[simp] theorem State.unconfirmed_frame :
    (s.unconfirmed st r).web = s.web ∧ (s.unconfirmed st r).reader = s.reader ∧ (s.unconfirmed st r).nextSeq = s.nextSeq ∧
    (s.unconfirmed st r).outcomes = s.outcomes ∧ (s.unconfirmed st r).calcs = s.calcs ∧ (s.unconfirmed st r).heat = s.heat ∧
    (s.unconfirmed st r).splices = s.splices ∧ (s.unconfirmed st r).units = s.units ∧
    (s.unconfirmed st r).lineUnit = s.lineUnit ∧ (s.unconfirmed st r).stopReq = s.stopReq ∧
    (s.unconfirmed st r).watches = s.watches ∧ (s.unconfirmed st r).settings = s.settings ∧
    (s.unconfirmed st r).line = s.line ∧ (s.unconfirmed st r).estop = s.estop ∧ (s.unconfirmed st r).ports = s.ports ∧
    (s.unconfirmed st r).links = s.links ∧ (s.unconfirmed st r).pending = s.pending := by
  unfold State.unconfirmed
  simp

theorem State.unconfirmed_closedAt :
    ClosedAt st (statusAt st r.seq .unconfirmed) (fun c => (r.st.get st).feeds.get c) s (s.unconfirmed st r) := by
  have lanes : (s.unconfirmed st r).lanes = (s.release st (r.st.get st).feeds).lanes := by
    unfold State.unconfirmed
    simp [State.release, State.updLanes]
  refine ⟨?_, fun c => ?_, fun v hv => ⟨?_, by simp, ?_, by simp, by simp⟩⟩
  · have track : (s.unconfirmed st r).track = (s.updField r.seq st fun f => { f with status := .unconfirmed }).track := by
      unfold State.unconfirmed
      simp
    exact track
  · rw [State.lane_of_lanes lanes, State.release_foil, if_pos rfl]
  · rw [State.unconfirmed_seqr, Four.get_upd, if_neg hv]
  · rw [lanes]
    exact (s.release_elsewhere st _ v hv).2.2.1

theorem State.takeDeadline_closedAt :
    ClosedAt st (statusAt st r.seq .unconfirmed) (fun c => (r.st.get st).feeds.get c) s (s.takeDeadline st r) :=
  (s.unconfirmed_closedAt st r).still (by rw [State.takeDeadline_eq]; simp) (by rw [State.takeDeadline_eq]; simp)
    (State.raise_elsewhere _ rfl)

theorem State.takeDeadline_faults :
    FaultsTaken st (if (s.units.get st).soft then [(.noReport, some r.seq, none)] else []) true s (s.takeDeadline st r) := by
  have before : FaultsTaken st [] false s (s.unconfirmed st r) := .of_units st (by simp) (by simp) (by simp)
  have raised := (s.unconfirmed st r).raise_soft_faults (ev := r.noReport st) (st := st) rfl rfl
  rw [show (s.unconfirmed st r).units = s.units by simp] at raised
  exact before.trans raised

end

/-! ### A late report (R77) -/

/-- A report for an order that is not in flight and has one overdue copy, the only one overdue. -/
theorem State.strikeReport_late {s : State} {st : Idx} {fr : StrikeReportFrame} {x : OverdueEntry}
    (absent : ∀ e ∈ (s.seqr.get st).inFlight, e.seq ≠ fr.seq) (overdue : (s.seqr.get st).overdue = [x]) (seq : x.seq = fr.seq) :
    s.strikeReport st fr = s.reportLate st fr x := by
  have untimely : s.reportsInTime st fr.seq = false := by
    rw [Bool.eq_false_iff, Ne, State.reportsInTime_iff, Orders.holds_false absent]
    simp
  unfold State.strikeReport
  rw [untimely, overdue]
  simp [seq]

theorem State.updLane_elsewhere (s : State) (st c : Idx) (f : Lane → Lane) : SameElsewhere s (s.updLane st c f) st := fun v hv => by
  simp [State.updLane, hv]

theorem State.applyFoil_elsewhere (s : State) (st : Idx) (r : FoilReport) (c : Idx) : SameElsewhere s (s.applyFoil st r c) st := by
  have changed : ∀ t : State, SameElsewhere t (t.laneChanged st c) st := fun t =>
    .of_same st (by simp) (by simp) (by simp) (by simp) (by simp)
  have consumed : SameElsewhere s (s.consume st c (r.advanced.get c)) st := (s.updLane_elsewhere st c _).trans (changed _)
  have broken : ∀ t : State, SameElsewhere t (t.breakLane st c r.seq) st := by
    intro t
    unfold State.breakLane
    split
    all_goals first
      | exact (t.updLane_elsewhere st c _).trans (State.raise_elsewhere _ rfl)
      | exact .of_same st rfl rfl rfl rfl rfl
  have tested : ∀ t : State, SameElsewhere s t st →
      SameElsewhere s (if r.breaks.get c then (t.lowTest st c).breakLane st c r.seq else t.lowTest st c) st := by
    intro t before
    have low := before.trans (t.lowTest_elsewhere st c)
    split
    · exact low.trans (broken _)
    · exact low
  have settled : ∀ (t : State) (j : Slot) (d : Descriptor), SameElsewhere t (t.setDescriptor j st c d) st := fun t j d =>
    .of_same st (by simp) (by simp) (by simp) (by simp) (by simp)
  unfold State.applyFoil
  refine tested _ ?_
  split
  · split
    · exact consumed.trans (settled _ _ _)
    · exact consumed
  · exact consumed

/-- The report of an overdue order leaves the overdue list, and its foil is consumed. -/
def State.lateFoil (s : State) (st : Idx) (fr : StrikeReportFrame) (x : OverdueEntry) : State :=
  (s.updSeqr st fun sq => { sq with overdue := sq.overdue.erase x }).applyFoilAll st
    { slot := x.slot, seq := x.seq, fed := x.feed, advanced := counts fr.advanced, breaks := fr.breakMask,
      whole := (s.record x.seq).isSome }

/-- It is stored in its record, where that stands in the track. -/
def State.lateStored (s : State) (st : Idx) (fr : StrikeReportFrame) (x : OverdueEntry) : State :=
  (s.lateFoil st fr x).updField x.seq st fun f =>
    { f with report := some { outcome := fr.outcome, e := decodeError fr.ePresent fr.e, advanced := counts fr.advanced } }

section
variable (s : State) (st : Idx) (fr : StrikeReportFrame) (x : OverdueEntry)

theorem State.reportLate_eq : s.reportLate st fr x =
    { s.lateStored st fr x with
      units := (s.lateStored st fr x).units.set st { (s.lateStored st fr x).units.get st with
        latest := some ((s.lateStored st fr x).faultRecord { kind := .lateReport, unit := .station st, seq := some x.seq } .warning) } } :=
  Orders.warning_eq (s.lateStored st fr x) st { kind := .lateReport, unit := .station st, seq := some x.seq } rfl rfl

@[simp] theorem State.lateStored_frame :
    (s.lateStored st fr x).web = s.web ∧ (s.lateStored st fr x).reader = s.reader ∧ (s.lateStored st fr x).nextSeq = s.nextSeq ∧
    (s.lateStored st fr x).outcomes = s.outcomes ∧ (s.lateStored st fr x).calcs = s.calcs ∧ (s.lateStored st fr x).heat = s.heat ∧
    (s.lateStored st fr x).splices = s.splices ∧ (s.lateStored st fr x).settings = s.settings ∧
    (s.lateStored st fr x).line = s.line ∧ (s.lateStored st fr x).estop = s.estop ∧ (s.lateStored st fr x).links = s.links ∧
    (s.lateStored st fr x).lineUnit = s.lineUnit ∧ (s.lateStored st fr x).pending = s.pending := by
  unfold State.lateStored State.lateFoil
  simp

theorem State.lateStored_seqr : (s.lateStored st fr x).seqr = s.seqr.upd st fun sq => { sq with overdue := sq.overdue.erase x } := by
  unfold State.lateStored State.lateFoil
  simp [State.updSeqr]

theorem State.lateStored_foil (c : Idx) : ((s.lateStored st fr x).lane st c).foil =
    ((s.lane st c).remaining - (fr.advanced.get c).toNat, (s.lane st c).reserved) := by
  rw [State.lane_of_lanes (s := s.lateFoil st fr x) (by simp [State.lateStored]), State.lateFoil, State.applyFoilAll_foil, if_pos rfl]
  simp [counts, State.lane, State.updSeqr]

theorem State.lateStored_elsewhere : SameElsewhere s (s.lateStored st fr x) st := by
  have foil : SameElsewhere s (s.lateFoil st fr x) st :=
    (s.updSeqr_elsewhere st _).trans (SameElsewhere.foldl _ (fun t c => t.applyFoil_elsewhere st _ c) _ _)
  exact foil.trans (.of_same st rfl rfl rfl rfl rfl)

theorem State.lateStored_flags (unbroken : fr.breakMask = .all false) : SameFlags s (s.lateStored st fr x) := by
  have foil : SameFlags s (s.lateFoil st fr x) :=
    SameFlags.trans (.of_units rfl rfl) (State.applyFoilAll_flags _ st _ unbroken)
  exact foil.trans (.of_units rfl rfl)

theorem State.lateStored_track : ∃ mark : TrackRecord → Four Bool, (s.lateStored st fr x).track = s.track.map fun y =>
    { (if y.seq = x.seq then y.updStation st fun f =>
        { f with report := some { outcome := fr.outcome, e := decodeError fr.ePresent fr.e, advanced := counts fr.advanced } } else y) with
      watchMark := mark y } := by
  obtain ⟨mark, marked⟩ := State.applyFoilAll_marked (s.updSeqr st fun sq => { sq with overdue := sq.overdue.erase x }) st
    { slot := x.slot, seq := x.seq, fed := x.feed, advanced := counts fr.advanced, breaks := fr.breakMask,
      whole := (s.record x.seq).isSome }
  refine ⟨mark, ?_⟩
  show List.map _ (s.lateFoil st fr x).track = _
  rw [State.lateFoil, marked, List.map_map]
  refine List.map_congr_left fun y _ => ?_
  simp only [Function.comp]
  split <;> rfl

end

end Sys2Proof.Machine

open Sys2Proof Sys2Proof.Machine

/-- Settles O42: a deadline taken closes its order without a report and raises a soft fault (`takeDeadline`); the report that comes after all
consumes its foil, is stored, and is warned of (`reportLate`). Neither trips a unit. -/
theorem missingReportsGoOverdue : Obligations.MissingReportsGoOverdue := by
  unfold Obligations.MissingReportsGoOverdue
  refine ⟨fun st r s mirrored turn record clear => ?_, fun st fr x s mirrored absent overdue seq unbroken => ?_⟩
  · have taken : exec (.reportDeadline st r.seq) s = (s.takeDeadline st r).done := by
      show execReportDeadline st r.seq s = _
      rw [execReportDeadline, turn]
      exact if_pos rfl
    have faults := s.takeDeadline_faults st r
    rw [clear] at faults
    have event : EventAt st [] true s (s.takeDeadline st r) := ⟨faults, (s.takeDeadline_within st r).trips⟩
    have few : (s.units.get st).hard.toNat < 2 := by cases (s.units.get st).hard <;> decide
    have closed := s.takeDeadline_closedAt st r
    refine ⟨s.takeDeadline st r, by rw [taken]; exact (event.steady mirrored (.inr few)).1, closed.track, closed.elsewhere, ?_, closed.lanes,
      faults.soft.trans (Bool.or_true _), faults.hard.trans (by simp), ?_⟩
    · rw [State.takeDeadline_eq]
      simp [State.unconfirmed_seqr, pushedOverdue, TrackRecord.overdueCopy, StationField.issued, StationField.feeds] <;> rfl
    · rw [State.takeDeadline_eq, State.raise_soft_station rfl rfl (by simpa using clear)]
      apply State.ext_fields <;> simp
  · have late : exec (.strikeReport st fr) s = (s.reportLate st fr x).done := congrArg State.done (State.strikeReport_late absent overdue seq)
    have flags := s.lateStored_flags st fr x unbroken
    have kept : ∀ v, ((s.reportLate st fr x).units.get v).soft = (s.units.get v).soft ∧
        ((s.reportLate st fr x).units.get v).hard = (s.units.get v).hard ∧
        ((s.reportLate st fr x).units.get v).tripped = (s.units.get v).tripped := fun v => by
      rw [State.reportLate_eq]
      simp only [Four.get_set]
      split
      next same => subst same; exact flags (.station v)
      · exact flags (.station v)
    have done := State.done_of mirrored (fun v => (kept v).2.2) (s.reportLate_within st fr x).trips
    refine ⟨s.reportLate st fr x, by rw [late, done], ?_, fun c => ?_, ?_, ?_, ?_, (kept st).1, (kept st).2.1, ?_⟩
    · rw [State.reportLate_eq]
      simp [State.lateStored_seqr, overdue]
    · have foil := s.lateStored_foil st fr x c
      rw [State.reportLate_eq]
      exact ⟨congrArg Prod.fst foil, congrArg Prod.snd foil⟩
    · rw [State.reportLate_eq, ← seq]
      exact s.lateStored_track st fr x
    · exact (s.lateStored_elsewhere st fr x).trans (State.raise_elsewhere (s.lateStored st fr x) rfl)
    · rw [State.reportLate_eq, ← seq]
      simp [State.faultRecord]
    · rw [State.reportLate_eq]
      apply State.ext_fields <;> simp

end

section
/-! SUPPORT. Acknowledgements and ack timeouts (O40; R68 to R72). -/

namespace Sys2Proof.Machine

/-! ### What the release of the queue and a fault leave -/

theorem ClosedAt.released {st : Idx} {g : TrackRecord → TrackRecord} {m : Idx → Nat} {s t : State} (a : ClosedAt st g m s t) :
    ClosedAt st g m s (t.releaseQueue st) := a.still (by simp) (by simp) (t.releaseQueue_elsewhere st)

theorem ClosedAt.raised {st : Idx} {g : TrackRecord → TrackRecord} {m : Idx → Nat} {s t : State} (a : ClosedAt st g m s t) {ev : FaultEvent}
    (station : ev.unit = .station st) : ClosedAt st g m s (t.raise ev) := a.still (by simp) (by simp) (State.raise_elsewhere t station)

theorem QueuedGoesOut.still {s t u : State} {st : Idx} {sq : Sequencer} (out : QueuedGoesOut s t st sq) (seqr : u.seqr = t.seqr)
    (links : u.links = t.links) : QueuedGoesOut s u st sq := by
  unfold QueuedGoesOut at out ⊢
  rw [seqr, links]
  exact out

theorem State.releaseQueue_faults (s : State) (st : Idx) : FaultsTaken st [] false s (s.releaseQueue st) :=
  .of_units st (by simp) (by simp) (by simp)

/-- A fault that sets no TRIPPED leaves STOP REQUEST (R155, R162). -/
theorem State.raise_stopReq_of_steady (s : State) {ev : FaultEvent} {st : Idx} (station : ev.unit = .station st)
    (steady : (ev.kind.cls = .soft ∧ (s.units.get st).soft = false) ∨ (s.units.get st).hard = false ∨ (s.units.get st).tripped = true) :
    (s.raise ev).stopReq = s.stopReq := by
  have hard : (s.units.get st).hard = false ∨ (s.units.get st).tripped = true → (s.raiseHard ev).stopReq = s.stopReq := fun h => by
    obtain clear | tripped := h
    · simp [State.raiseHard, station, State.unit, FaultUnit.hardEffect, clear]
    · cases set : (s.units.get st).hard <;> simp [State.raiseHard, station, State.unit, FaultUnit.hardEffect, set, tripped]
  unfold State.raise
  cases cls : ev.kind.cls with
  | warning => simp
  | hard => exact hard (steady.resolve_left fun h => by simp [cls] at h)
  | soft =>
    dsimp only
    cases clear : (s.units.get st).soft with
    | false => simp [station, State.unit, clear]
    | true =>
      have kept := hard (steady.resolve_left fun h => by simp [clear] at h)
      simp [station, State.unit, clear, kept]

/-! ### The ack accepts (R69) -/

theorem statusAt_sameOrders {st : Idx} {q : SeqNo} {x : Status} {m : Idx → Nat} {s t : State} (a : ClosedAt st (statusAt st q x) m s t) :
    SameOrders st s t := .of_map a.track fun r => statusAt_orderAt st q x r

/-- The awaited order is ACKED, and nothing is awaited. -/
def State.acked (s : State) (st : Idx) (q : SeqNo) : State := (s.clearAwaited st).updField q st fun f => { f with status := .acked }

section
variable (s : State) (st : Idx) (q : SeqNo)

theorem State.acked_closedAt : ClosedAt st (statusAt st q .acked) (fun _ => 0) s (s.acked st q) where
  track := by simp [State.acked, State.updField, State.updRecord, statusAt]
  foil _ := by simp [State.acked, State.updField, State.updRecord, State.lane, Lane.foil]
  elsewhere := (s.clearAwaited_elsewhere st).trans (.of_same st rfl rfl rfl rfl rfl)

theorem State.acked_seqr : (s.acked st q).seqr = s.seqr.upd st fun sq => { sq with awaited := .none, timer := none } := rfl

@[simp] theorem State.acked_frame :
    (s.acked st q).web = s.web ∧ (s.acked st q).reader = s.reader ∧ (s.acked st q).nextSeq = s.nextSeq ∧
    (s.acked st q).outcomes = s.outcomes ∧ (s.acked st q).calcs = s.calcs ∧ (s.acked st q).lanes = s.lanes ∧
    (s.acked st q).heat = s.heat ∧ (s.acked st q).splices = s.splices ∧ (s.acked st q).units = s.units ∧
    (s.acked st q).lineUnit = s.lineUnit ∧ (s.acked st q).stopReq = s.stopReq ∧ (s.acked st q).watches = s.watches ∧
    (s.acked st q).slots = s.slots ∧ (s.acked st q).settings = s.settings ∧ (s.acked st q).line = s.line ∧
    (s.acked st q).estop = s.estop ∧ (s.acked st q).ports = s.ports ∧ (s.acked st q).pending = s.pending := by
  simp [State.acked]

theorem State.acked_link : (s.acked st q).links.get st = (s.links.get st).withdraw := by
  simp [State.acked, State.updField, State.updRecord, State.clearAwaited, State.updLink]

theorem statusAt_st (x : Status) (r : TrackRecord) (seq : r.seq = q) : statusAt st q x r = r.updStation st fun f => { f with status := x } :=
  if_pos seq

/-- The deadline is taken at once where H has reached it (R69). -/
theorem State.ackAccepted_of_record {s : State} {st : Idx} {q : SeqNo} {r : TrackRecord} (record : s.record q = some r) :
    s.ackAccepted st q =
      (if (s.acked st q).deadlineDue st (statusAt st q .acked r) then (s.acked st q).takeDeadline st (statusAt st q .acked r)
        else s.acked st q).releaseQueue st := by
  have now : (s.acked st q).record q = some (statusAt st q .acked r) := by
    rw [State.acked, State.record_updField]
    have : (s.clearAwaited st).record q = s.record q := rfl
    rw [this, record, statusAt_st st q _ r (State.record_seq record)]
    simp
  have unfolded : s.ackAccepted st q = (match (s.acked st q).record q with
      | some r => if (s.acked st q).deadlineDue st r then (s.acked st q).takeDeadline st r else s.acked st q
      | none => s.acked st q).releaseQueue st := rfl
  rw [unfolded, now]

theorem State.acked_deadlineDue {s : State} {st : Idx} {q : SeqNo} {r : TrackRecord} (record : s.record q = some r) :
    (s.acked st q).deadlineDue st (statusAt st q .acked r) = true ↔
      reached s.web.h (plus ((r.st.get st).target.getD 0) (s.reportSpan r.slot st)) = true ∧ (s.seqr.get st).holds q = true ∧
        q ∉ (s.seqr.get st).abortSet := by
  have seq := State.record_seq record
  have span : ∀ j, (s.acked st q).reportSpan j st = s.reportSpan j st := fun _ => rfl
  have web : (s.acked st q).web = s.web := rfl
  rw [statusAt_st st q _ r seq]
  simp only [State.deadlineDue, State.deadlineScheduled, State.deadline, TrackRecord.updStation, span, web, State.acked_seqr, Four.get_upd,
    if_true, StationField.issued, Sequencer.holds, seq]
  simp [and_comm]

end

/-- The order of the record was UNCONFIRMED as it was acknowledged. -/
theorem State.ackedLate_closedAt {s : State} {st : Idx} {q : SeqNo} {r : TrackRecord} (record : s.record q = some r) :
    ClosedAt st (statusAt st q .unconfirmed) (fun c => ((r.st.get st).feed.getD (.all 0)).get c) s
      ((s.acked st q).takeDeadline st (statusAt st q .acked r)) := by
  have seq := State.record_seq record
  have acked := statusAt_st st q .acked r seq
  have taken := (s.acked_closedAt st q).trans ((s.acked st q).takeDeadline_closedAt st (statusAt st q .acked r))
  refine taken.congr (fun x _ => ?_) fun c => ?_
  · rw [acked, show (r.updStation st fun f => { f with status := .acked }).seq = q from seq]
    unfold statusAt
    by_cases h : x.seq = q
    · simp [h, TrackRecord.updStation, Four.upd_upd]
    · simp [h]
  · simp [acked, TrackRecord.updStation, StationField.feeds]

/-- The sequencer then: its order is overdue (R60, R76). -/
theorem State.ackedLate_seqr {s : State} {st : Idx} {q : SeqNo} {r : TrackRecord} (record : s.record q = some r) :
    ((s.acked st q).takeDeadline st (statusAt st q .acked r)).seqr.get st = { s.seqr.get st with
      awaited := .none, timer := none, inFlight := (s.seqr.get st).inFlight.filter fun e => decide (e.seq ≠ q),
      overdue := pushedOverdue (s.seqr.get st).overdue
        { seq := r.seq, slot := r.slot, decision := (r.st.get st).decision, target := (r.st.get st).target.getD 0,
          feed := (r.st.get st).feed.getD (.all 0) } } := by
  have seq := State.record_seq record
  rw [statusAt_st st q .acked r seq, State.takeDeadline_eq]
  simp [State.unconfirmed_seqr, State.acked_seqr, TrackRecord.updStation, TrackRecord.overdueCopy, StationField.issued, StationField.feeds, seq]

theorem State.ackedLate_links (s : State) (st : Idx) (q : SeqNo) (r : TrackRecord) :
    ((s.acked st q).takeDeadline st r).links.get st = (s.links.get st).withdraw := by
  rw [State.takeDeadline_eq]
  simp [State.acked_link]

section
variable {s : State} {st : Idx} {q : SeqNo} {r : TrackRecord}

/-- H has reached the deadline as the ack accepts, and no abort names the order (R69, R80). -/
def State.DueAtAck (s : State) (st : Idx) (q : SeqNo) (r : TrackRecord) : Prop :=
  reached s.web.h (plus ((r.st.get st).target.getD 0) (s.reportSpan r.slot st)) = true ∧ (s.seqr.get st).holds q = true ∧
    q ∉ (s.seqr.get st).abortSet

theorem State.ackedLate_eq (record : s.record q = some r) (due : s.DueAtAck st q r) :
    s.ackAccepted st q = ((s.acked st q).takeDeadline st (statusAt st q .acked r)).releaseQueue st := by
  rw [State.ackAccepted_of_record record, if_pos ((State.acked_deadlineDue record).2 due)]

theorem State.ackedLate_closed (record : s.record q = some r) (due : s.DueAtAck st q r) :
    ClosedAt st (statusAt st q .unconfirmed) (fun c => ((r.st.get st).feed.getD (.all 0)).get c) s (s.ackAccepted st q) := by
  rw [State.ackedLate_eq record due]
  exact (State.ackedLate_closedAt record).released

theorem State.ackedLate_out (record : s.record q = some r) (due : s.DueAtAck st q r) :
    QueuedGoesOut s (s.ackAccepted st q) st { s.seqr.get st with
      awaited := .none, timer := none, inFlight := (s.seqr.get st).inFlight.filter fun e => decide (e.seq ≠ q),
      overdue := pushedOverdue (s.seqr.get st).overdue
        { seq := r.seq, slot := r.slot, decision := (r.st.get st).decision, target := (r.st.get st).target.getD 0,
          feed := (r.st.get st).feed.getD (.all 0) } } := by
  rw [State.ackedLate_eq record due]
  exact State.releaseQueue_goesOut (State.ackedLate_seqr record) rfl (statusAt_sameOrders (State.ackedLate_closedAt record))
    (State.ackedLate_links s st q _)

theorem State.ackedLate_event (record : s.record q = some r) (due : s.DueAtAck st q r) :
    EventAt st (if (s.units.get st).soft then [(.noReport, some q, none)] else []) true s (s.ackAccepted st q) := by
  refine ⟨?_, (s.ackAccepted_within st q).trips⟩
  have seq : (statusAt st q .acked r).seq = q := by
    rw [statusAt_st st q _ r (State.record_seq record)]
    exact (State.record_seq record :)
  have acked : FaultsTaken st [] false s (s.acked st q) := .of_units st rfl rfl id
  have taken := (s.acked st q).takeDeadline_faults st (statusAt st q .acked r)
  rw [seq, show (s.acked st q).units = s.units from rfl] at taken
  have all := (acked.trans taken).trans (State.releaseQueue_faults _ st)
  rw [State.ackedLate_eq record due]
  simpa using all

theorem State.ackedLate_latest (record : s.record q = some r) :
    ((((s.acked st q).takeDeadline st (statusAt st q .acked r)).releaseQueue st).units.get st).latest.map (fun l => (l.kind, l.seq, l.target)) =
      some (.noReport, some q, (r.st.get st).target) := by
  have seq := State.record_seq record
  have latest := ((s.acked st q).unconfirmed st (statusAt st q .acked r)).raise_soft_latest (ev := (statusAt st q .acked r).noReport st)
    (st := st) rfl rfl
  have three := congrArg (Option.map fun x : FaultKind × Option SeqNo × Option Pos × Option Int => (x.1, x.2.1, x.2.2.1)) latest
  rw [Option.map_map] at three
  have units : (((s.acked st q).takeDeadline st (statusAt st q .acked r)).releaseQueue st).units =
      (((s.acked st q).unconfirmed st (statusAt st q .acked r)).raise ((statusAt st q .acked r).noReport st)).units := by
    rw [← State.takeDeadline_eq]
    simp
  rw [units]
  refine three.trans ?_
  rw [statusAt_st st q _ r seq]
  simp [TrackRecord.noReport, TrackRecord.updStation, seq]

theorem State.ackedLate_stopReq (record : s.record q = some r) (due : s.DueAtAck st q r)
    (steady : (s.units.get st).soft = false ∨ (s.units.get st).hard = false ∨ (s.units.get st).tripped = true) :
    (s.ackAccepted st q).stopReq = s.stopReq := by
  have units : ((s.acked st q).unconfirmed st (statusAt st q .acked r)).units = s.units := by simp
  have kept := ((s.acked st q).unconfirmed st (statusAt st q .acked r)).raise_stopReq_of_steady
    (ev := (statusAt st q .acked r).noReport st) rfl (by rw [units]; exact steady.imp_left fun clear => ⟨rfl, clear⟩)
  rw [State.ackedLate_eq record due, State.releaseQueue_frame _ st |>.2.2.2.2.2.2.2.2.2.2.2.1, State.takeDeadline_eq, kept]
  simp

/-- Where SOFT or HARD is clear the soft fault does not trip the unit (R154, R155). -/
theorem ackedLate_few {u : FaultUnit} {k : FaultKey} (steady : u.soft = false ∨ u.hard = false ∨ u.tripped = true) :
    u.tripped = true ∨ u.hard.toNat + (if u.soft then [k] else []).length < 2 := by
  obtain clear | clear | tripped := steady
  · cases u.hard <;> simp [clear]
  · cases u.soft <;> simp [clear]
  · exact .inl tripped

end

/-! ### The ack refuses, or stays out (R70, R71) -/

/-- The order refused is FAULTED, and nothing is awaited. -/
def State.refused (s : State) (st : Idx) (q : SeqNo) : State := (s.clearAwaited st).closeUnreported st q .faulted

/-- So is the order whose ack stays out, and the station is UNPHASED. -/
def State.timedOut (s : State) (st : Idx) (q : SeqNo) : State :=
  (((s.closeUnreported st q .faulted).unphase st).clearAwaited st).updSeqr st fun sq => { sq with lastTimedOut := some q }

/-- The fault of a refusal. -/
def State.orderRefused (s : State) (st : Idx) (q : SeqNo) (res : AckResult) : FaultEvent :=
  { kind := .orderRefused, unit := .station st, detail := ackDetail res, seq := some q, target := s.targetOf st q }

/-- The fault of an ack that stays out. -/
def State.orderUnacked (s : State) (st : Idx) (q : SeqNo) : FaultEvent :=
  { kind := .noAck, unit := .station st, detail := some .order, seq := some q, target := s.targetOf st q }

section
variable {s : State} {st : Idx} {q : SeqNo}

theorem State.orderAck_refused (awaited : (s.seqr.get st).awaited = .order q) {res : AckResult} (refused : res ≠ .accepted) :
    s.orderAck st q res = ((s.refused st q).releaseQueue st).raise (s.orderRefused st q res) := by
  unfold State.orderAck
  rw [if_pos awaited]
  cases res with
  | accepted => exact absurd rfl refused
  | refusedBusy => rfl
  | refusedRange => rfl

theorem State.ackTimeout_awaited (awaited : (s.seqr.get st).awaited = .order q) :
    s.ackTimeout st = ((s.timedOut st q).releaseQueue st).raise (s.orderUnacked st q) := by
  unfold State.ackTimeout
  rw [awaited]
  rfl

@[simp] theorem State.refused_frame (s : State) (st : Idx) (q : SeqNo) :
    (s.refused st q).web = s.web ∧ (s.refused st q).reader = s.reader ∧ (s.refused st q).nextSeq = s.nextSeq ∧
    (s.refused st q).outcomes = s.outcomes ∧ (s.refused st q).calcs = s.calcs ∧ (s.refused st q).heat = s.heat ∧
    (s.refused st q).splices = s.splices ∧ (s.refused st q).lineUnit = s.lineUnit ∧ (s.refused st q).stopReq = s.stopReq ∧
    (s.refused st q).watches = s.watches ∧ (s.refused st q).settings = s.settings ∧ (s.refused st q).line = s.line ∧
    (s.refused st q).estop = s.estop ∧ (s.refused st q).pending = s.pending := by
  simp [State.refused]

@[simp] theorem State.timedOut_frame (s : State) (st : Idx) (q : SeqNo) :
    (s.timedOut st q).web = s.web ∧ (s.timedOut st q).reader = s.reader ∧ (s.timedOut st q).nextSeq = s.nextSeq ∧
    (s.timedOut st q).outcomes = s.outcomes ∧ (s.timedOut st q).heat = s.heat ∧ (s.timedOut st q).splices = s.splices ∧
    (s.timedOut st q).lineUnit = s.lineUnit ∧ (s.timedOut st q).stopReq = s.stopReq ∧ (s.timedOut st q).watches = s.watches ∧
    (s.timedOut st q).settings = s.settings ∧ (s.timedOut st q).line = s.line ∧ (s.timedOut st q).estop = s.estop ∧
    (s.timedOut st q).pending = s.pending := by
  simp [State.timedOut]

theorem State.refused_closedAt (s : State) (st : Idx) (q : SeqNo) :
    ClosedAt st (statusAt st q .faulted) (fun c => s.feedsOf st c [q]) s (s.refused st q) := by
  have closed := (s.clearAwaited st).closeUnreported_closedAt st q .faulted
  exact closed.after (by simp) (by simp) (s.clearAwaited_elsewhere st)

theorem State.timedOut_closedAt (s : State) (st : Idx) (q : SeqNo) :
    ClosedAt st (statusAt st q .faulted) (fun c => s.feedsOf st c [q]) s (s.timedOut st q) := by
  have closed := s.closeUnreported_closedAt st q .faulted
  have unphased : SameElsewhere (s.closeUnreported st q .faulted) ((s.closeUnreported st q .faulted).unphase st) st := fun v hv => by
    simp [State.unphase, State.updCalc, hv]
  exact closed.still (by simp [State.timedOut]) (by simp [State.timedOut])
    ((unphased.trans (State.clearAwaited_elsewhere _ st)).trans (State.updSeqr_elsewhere _ st _))

theorem State.refused_seqr (s : State) (st : Idx) (q : SeqNo) : (s.refused st q).seqr.get st = { s.seqr.get st with
    awaited := .none, timer := none, inFlight := (s.seqr.get st).inFlight.filter fun e => decide (e.seq ≠ q) } := by
  rw [State.refused, State.closeUnreported_seqr, Orders.clear_seqr]
  simp

theorem State.timedOut_seqr (s : State) (st : Idx) (q : SeqNo) : (s.timedOut st q).seqr.get st = { s.seqr.get st with
    awaited := .none, timer := none, inFlight := (s.seqr.get st).inFlight.filter fun e => decide (e.seq ≠ q),
    lastTimedOut := some q } := by
  simp [State.timedOut, State.updSeqr, Orders.clear_seqr, State.closeUnreported_seqr]

theorem State.refused_link (s : State) (st : Idx) (q : SeqNo) : (s.refused st q).links.get st = (s.links.get st).withdraw := by
  simp [State.refused, State.clearAwaited, State.updLink]

theorem State.timedOut_link (s : State) (st : Idx) (q : SeqNo) : (s.timedOut st q).links.get st = (s.links.get st).withdraw := by
  simp [State.timedOut, State.clearAwaited, State.updLink, State.updSeqr]

theorem State.refused_faults (s : State) (st : Idx) (q : SeqNo) : FaultsTaken st [] false s (s.refused st q) := by
  have idle : FaultsTaken st [] false s (s.clearAwaited st) := .of_units st rfl rfl id
  exact idle.trans ((s.clearAwaited st).closeUnreported_faults st q .faulted)

theorem State.timedOut_faults (s : State) (st : Idx) (q : SeqNo) : FaultsTaken st [] false s (s.timedOut st q) :=
  (s.closeUnreported_faults st q .faulted).trans (l := []) (b := false) (.of_units st rfl rfl id)

end

/-- Orders have been closed without a report, and a hard fault has been raised. -/
structure EndsHard (st : Idx) (key : FaultKey) (g : TrackRecord → TrackRecord) (freed : Idx → Nat) (s u : State) : Prop where
  closed : ClosedAt st g freed s u
  event : EventAt st [key] false s u
  stopReq : (s.units.get st).hard = false ∨ (s.units.get st).tripped = true → u.stopReq = s.stopReq

/-- A hard fault raised where none has been yet. -/
theorem FaultsTaken.raise_stopReq {st : Idx} {s u : State} (faults : FaultsTaken st [] false s u) {ev : FaultEvent}
    (station : ev.unit = .station st) (steady : (s.units.get st).hard = false ∨ (s.units.get st).tripped = true) :
    (u.raise ev).stopReq = u.stopReq := by
  have few : ¬ 2 ≤ (s.units.get st).hard.toNat := by cases (s.units.get st).hard <;> decide
  have hard : (u.units.get st).hard = (s.units.get st).hard := by simpa using faults.hard
  have tripped : (u.units.get st).tripped = (s.units.get st).tripped := by simpa [few] using faults.tripped
  exact u.raise_stopReq_of_steady station (.inr (by rw [hard, tripped]; exact steady))

/-- The queue moves up as the orders have been closed, and the fault is raised last. -/
theorem EndsHard.of_closed {st : Idx} {g : TrackRecord → TrackRecord} {freed : Idx → Nat} {ev : FaultEvent} {s u : State}
    (closed : ClosedAt st g freed s u) (faults : FaultsTaken st [] false s u) (hard : ev.kind.cls = .hard)
    (station : ev.unit = .station st) (stopReq : u.stopReq = s.stopReq) (within : Within s ((u.releaseQueue st).raise ev)) :
    EndsHard st ev.key g freed s ((u.releaseQueue st).raise ev) := by
  have released := faults.trans (u.releaseQueue_faults st)
  refine ⟨closed.released.raised station, ⟨released.trans ((u.releaseQueue st).raise_hard_faults hard station), within.trips⟩,
    fun steady => ?_⟩
  rw [released.raise_stopReq station steady]
  simpa using stopReq

section
variable {st : Idx} {key : FaultKey} {g : TrackRecord → TrackRecord} {freed : Idx → Nat} {s u : State}

/-- The unit stays, with HARD set. -/
theorem EndsHard.steady (f : EndsHard st key g freed s u) (mirrored : TripsMirrored s)
    (steady : (s.units.get st).hard = false ∨ (s.units.get st).tripped = true) :
    u.done = .next u ∧ (u.units.get st).hard = true ∧ (u.units.get st).tripped = (s.units.get st).tripped ∧
      (u.units.get st).soft = (s.units.get st).soft := by
  have few : (s.units.get st).tripped = true ∨ (s.units.get st).hard.toNat + [key].length < 2 :=
    steady.symm.imp_right fun clear => by simp [clear]
  obtain ⟨done, tripped⟩ := f.event.steady mirrored few
  exact ⟨done, f.event.faults.hard.trans (by simp), tripped st, f.event.faults.soft.trans (by simp)⟩

/-- It trips, and the orders in flight are named in an abort (R84, R155). -/
theorem EndsHard.trips (f : EndsHard st key g freed s u) (mirrored : TripsMirrored s) (hard : (s.units.get st).hard = true)
    (untripped : (s.units.get st).tripped = false) {left : List InFlight}
    (abortable : (u.seqr.get st).inFlight = left ∧ (u.seqr.get st).queue = none ∧ (u.seqr.get st).awaited ≠ .abort ∧
      ((u.seqr.get st).inFlight = [] → (u.seqr.get st).awaited = .none)) :
    u.done = .next (u.tripEffects st) ∧ ClosedAt st g freed s (u.tripEffects st) ∧ TripTaken s (u.tripEffects st) st left := by
  have many : 2 ≤ (s.units.get st).hard.toNat + [key].length := by simp [hard]
  have ⟨_, queue, unaborted, _⟩ := abortable
  exact ⟨f.event.trips_over mirrored untripped many, f.closed.tripped queue unaborted,
    f.event.tripTaken (.inl rfl) untripped many abortable⟩

end

section
variable {s : State} {st : Idx} {q : SeqNo}

theorem State.refused_ends (awaited : (s.seqr.get st).awaited = .order q) {res : AckResult} (other : res ≠ .accepted) :
    EndsHard st (.orderRefused, some q, none) (statusAt st q .faulted) (fun c => s.feedsOf st c [q]) s (s.orderAck st q res) := by
  have within := s.orderAck_within st q res
  rw [State.orderAck_refused awaited other] at within ⊢
  exact .of_closed (s.refused_closedAt st q) (s.refused_faults st q) rfl rfl (by simp) within

theorem State.refused_out (awaited : (s.seqr.get st).awaited = .order q) {res : AckResult} (other : res ≠ .accepted) :
    QueuedGoesOut s (s.orderAck st q res) st { s.seqr.get st with
      awaited := .none, timer := none, inFlight := (s.seqr.get st).inFlight.filter fun e => decide (e.seq ≠ q) } := by
  rw [State.orderAck_refused awaited other]
  exact (State.releaseQueue_goesOut (s.refused_seqr st q) rfl (statusAt_sameOrders (s.refused_closedAt st q)) (s.refused_link st q)).still
    (by simp) (by simp)

theorem State.timedOut_ends (awaited : (s.seqr.get st).awaited = .order q) :
    EndsHard st (.noAck, some q, none) (statusAt st q .faulted) (fun c => s.feedsOf st c [q]) s (s.ackTimeout st) := by
  have within := s.ackTimeout_within st
  rw [State.ackTimeout_awaited awaited] at within ⊢
  exact .of_closed (s.timedOut_closedAt st q) (s.timedOut_faults st q) rfl rfl (by simp) within

theorem State.timedOut_out (awaited : (s.seqr.get st).awaited = .order q) :
    QueuedGoesOut s (s.ackTimeout st) st { s.seqr.get st with
      awaited := .none, timer := none, inFlight := (s.seqr.get st).inFlight.filter fun e => decide (e.seq ≠ q),
      lastTimedOut := some q } := by
  rw [State.ackTimeout_awaited awaited]
  exact (State.releaseQueue_goesOut (s.timedOut_seqr st q) rfl (statusAt_sameOrders (s.timedOut_closedAt st q)) (s.timedOut_link st q)).still
    (by simp) (by simp)

end

end Sys2Proof.Machine

open Sys2Proof Sys2Proof.Machine

/-- Settles O40: what an ack or its timeout does is the closing of the order, or its being ACKED, the release of the queue, and the fault
(`EndsHard`, `ackedLate_closedAt`); the unit then stays or trips. -/
theorem acksSettleTheAwaitedOrder : Obligations.AcksSettleTheAwaitedOrder := by
  unfold Obligations.AcksSettleTheAwaitedOrder
  intro st q s mirrored
  refine ⟨fun other res => ?_, fun r awaited record => ?_⟩
  · have discarded : s.orderAck st q res = s := if_neg other
    show (s.orderAck st q res).done = _
    rw [discarded]
    exact State.done_of mirrored (fun _ => rfl) (fun _ => rfl)
  have accept : s.orderAck st q .accepted = s.ackAccepted st q := if_pos awaited
  have within : Within s (s.ackAccepted st q) := s.ackAccepted_within st q
  have feeds : ∀ c, s.feedsOf st c [q] = ((r.st.get st).feed.getD (.all 0)).get c := State.feedsOf_record record st
  have feedsAt {t : State} {x : Status} (a : ClosedAt st (statusAt st q x) (fun c => s.feedsOf st c [q]) s t) :
      ClosedAt st (statusAt st q x) (fun c => ((r.st.get st).feed.getD (.all 0)).get c) s t := a.congr (fun _ _ => rfl) feeds
  have split := State.ackAccepted_of_record (st := st) record
  have due := State.acked_deadlineDue (st := st) record
  refine ⟨fun undue => ?_, fun reachedIt steady => ?_, fun reachedIt soft hard untripped stands => ?_,
    fun hard untripped stands => ⟨fun res other => ?_, ?_⟩, fun steady => ⟨fun res other => ?_, ?_⟩⟩
  · rw [if_neg (fun h => undue (due.1 h))] at split
    have acked := s.acked_closedAt st q
    refine ⟨s.ackAccepted st q, ?_, ?_, ?_, ?_, ?_⟩
    · show (s.orderAck st q .accepted).done = _
      rw [accept]
      refine State.done_of mirrored (fun v => ?_) within.trips
      rw [split]
      simp
    all_goals rw [split]
    · exact State.releaseQueue_goesOut (by rw [State.acked_seqr]; simp) rfl (statusAt_sameOrders acked) (s.acked_link st q)
    · exact acked.released.elsewhere
    · exact acked.released.track
    · apply State.ext_fields <;> simp
  · obtain ⟨done, kept⟩ := (State.ackedLate_event record reachedIt).steady mirrored (ackedLate_few steady)
    have faults := (State.ackedLate_event record reachedIt).faults
    have closed := State.ackedLate_closed record reachedIt
    refine ⟨s.ackAccepted st q, ?_, ⟨closed.track, closed.lanes, closed.elsewhere⟩, State.ackedLate_out record reachedIt,
      faults.soft.trans (Bool.or_true _), ?_, kept st, ?_, ?_⟩
    · show (s.orderAck st q .accepted).done = _
      rw [accept, done]
    · rw [faults.hard]
      cases (s.units.get st).soft <;> simp
    · rw [State.ackedLate_eq record reachedIt]
      exact State.ackedLate_latest record
    · have lineUnit := faults.line
      have stopReq := State.ackedLate_stopReq record reachedIt steady
      rw [State.ackedLate_eq record reachedIt, State.takeDeadline_eq] at lineUnit stopReq ⊢
      simp only [State.releaseQueue_frame] at lineUnit stopReq
      apply State.ext_fields <;> simp [lineUnit, stopReq]
  · have many : 2 ≤ (s.units.get st).hard.toNat + (if (s.units.get st).soft then [(FaultKind.noReport, some q, (none : Option Idx))] else []).length := by
      simp [hard, soft]
    have event := State.ackedLate_event record reachedIt
    have out := State.ackedLate_out record reachedIt
    have abortable := out.abortable rfl stands
    have ⟨_, queue, unaborted, _⟩ := abortable
    have closed := (State.ackedLate_closed record reachedIt).tripped queue unaborted
    refine ⟨(s.ackAccepted st q).tripEffects st, ?_, ⟨closed.track, closed.lanes, closed.elsewhere⟩,
      event.tripTaken (.inr soft) untripped many abortable, (State.tripEffects_keeps queue unaborted).1.trans out.rest.1⟩
    show (s.orderAck st q .accepted).done = _
    rw [accept]
    exact event.trips_over mirrored untripped many
  · have abortable := (State.refused_out awaited other).abortable rfl stands
    obtain ⟨done, closed, trip⟩ := (State.refused_ends awaited other).trips mirrored hard untripped abortable
    exact ⟨_, done, ⟨closed.track, (feedsAt closed).lanes, closed.elsewhere⟩, trip⟩
  · have out := State.timedOut_out awaited
    have abortable := out.abortable rfl stands
    have ⟨_, queue, unaborted, _⟩ := abortable
    obtain ⟨done, closed, trip⟩ := (State.timedOut_ends awaited).trips mirrored hard untripped abortable
    exact ⟨_, done, ⟨closed.track, (feedsAt closed).lanes, closed.elsewhere⟩, trip,
      (State.tripEffects_keeps queue unaborted).2.2.trans out.rest.2.2.1⟩
  · have faulted := State.refused_ends awaited other
    obtain ⟨done, hard, tripped, soft⟩ := faulted.steady mirrored steady
    have closed := feedsAt faulted.closed
    have meaning := State.orderAck_refused awaited other
    refine ⟨s.orderAck st q res, done, ⟨⟨closed.track, closed.lanes, closed.elsewhere⟩, hard, tripped, soft, ?_⟩, ?_, State.refused_out awaited other⟩
    · have lineUnit := faulted.event.faults.line
      have stopReq := faulted.stopReq steady
      rw [meaning] at lineUnit stopReq ⊢
      apply State.ext_fields <;> simp [lineUnit, stopReq]
    · simp [meaning]
  · have faulted := State.timedOut_ends awaited
    obtain ⟨done, hard, tripped, soft⟩ := faulted.steady mirrored steady
    have closed := feedsAt faulted.closed
    have meaning := State.ackTimeout_awaited awaited
    refine ⟨s.ackTimeout st, done, ⟨⟨closed.track, closed.lanes, closed.elsewhere⟩, hard, tripped, soft, ?_⟩, ?_, State.timedOut_out awaited⟩
    · have lineUnit := faulted.event.faults.line
      have stopReq := faulted.stopReq steady
      rw [meaning] at lineUnit stopReq ⊢
      apply State.ext_fields <;> simp [lineUnit, stopReq]
    · simp [meaning, State.timedOut, State.unphase, State.updCalc, Four.upd]

end

section
/-! SUPPORT. Orders that an abort closes (O43, O30; R80, R81, R83, R140). -/

namespace Sys2Proof.Machine

/-! ### Closing by an abort report (R81, R93) -/

theorem Marked.map {s t u : State} {g : TrackRecord → TrackRecord} (track : t.track = s.track.map g) (marked : Marked t u) :
    ∃ mark : TrackRecord → Four Bool, u.track = s.track.map fun x => { g x with watchMark := mark x } := by
  obtain ⟨m, marked⟩ := marked
  exact ⟨fun x => m (g x), by rw [marked, track, List.map_map]; rfl⟩

/-- A record whose order at a station an abort has closed. -/
def TrackRecord.abortedAs (x : TrackRecord) (st : Idx) (decision : Decision) (found : AbortFound) (advanced : Four Nat) : TrackRecord :=
  x.updStation st fun f => { f with report := some { outcome := foundReported found, e := none, advanced := advanced },
                                    status := abortStatus decision found }

/-- The foil that the closing of an order by an abort consumes. -/
def TrackRecord.abortedFoil (r : TrackRecord) (st : Idx) (advanced : Four Nat) : FoilReport :=
  { slot := r.slot, seq := r.seq, fed := (r.st.get st).feeds, advanced := advanced, breaks := .all false, whole := true }

/-- The fault of a LIFT that made contact. -/
def TrackRecord.abortMismatch (r : TrackRecord) (st : Idx) (found : AbortFound) : FaultEvent :=
  { kind := .driveMismatch, unit := .station st, detail := some (.abortReported found), seq := some r.seq, target := (r.st.get st).target }

/-- The abort report is stored, its order leaves the in-flight list, the context is told, and the feeds are released. -/
def State.abortStored (s : State) (st : Idx) (r : TrackRecord) (found : AbortFound) (advanced : Four Nat) : State :=
  (((s.updField r.seq st fun f =>
    { f with report := some { outcome := foundReported found, e := none, advanced := advanced },
             status := abortStatus (r.st.get st).decision found }).leaveInFlight st r.seq).settleContext st r.seq
      (foundOutcome found)).release st (r.st.get st).feeds

/-- Its foil is consumed. -/
def State.abortFoil (s : State) (st : Idx) (r : TrackRecord) (found : AbortFound) (advanced : Four Nat) : State :=
  (s.abortStored st r found advanced).applyFoilAll st (r.abortedFoil st advanced)

section
variable {s : State} {st : Idx} {q : SeqNo} {r : TrackRecord} {found : AbortFound} {advanced : Four Nat}

theorem State.closeByAbort_of_record (record : s.record q = some r) : s.closeByAbort st q found advanced =
    if abortStatus (r.st.get st).decision found = .faulted then (s.abortFoil st r found advanced).raise (r.abortMismatch st found)
    else s.abortFoil st r found advanced := by
  have seq : r.seq = q := State.record_seq record
  subst seq
  unfold State.closeByAbort
  rw [record]
  rfl

@[simp] theorem State.abortStored_frame (s : State) (st : Idx) (r : TrackRecord) (found : AbortFound) (advanced : Four Nat) :
    (s.abortStored st r found advanced).calcs = s.calcs ∧ (s.abortStored st r found advanced).units = s.units ∧
    (s.abortStored st r found advanced).lineUnit = s.lineUnit ∧ (s.abortStored st r found advanced).stopReq = s.stopReq ∧
    (s.abortStored st r found advanced).settings = s.settings ∧ (s.abortStored st r found advanced).slots = s.slots ∧
    (s.abortStored st r found advanced).links = s.links := by
  unfold State.abortStored
  simp

theorem State.abortStored_track (s : State) (st : Idx) (r : TrackRecord) (found : AbortFound) (advanced : Four Nat) :
    (s.abortStored st r found advanced).track = s.track.map fun x =>
      if x.seq = r.seq then x.abortedAs st (r.st.get st).decision found advanced else x := by
  unfold State.abortStored TrackRecord.abortedAs
  simp [State.updField, State.updRecord]

theorem State.abortStored_seqr (s : State) (st : Idx) (r : TrackRecord) (found : AbortFound) (advanced : Four Nat) :
    (s.abortStored st r found advanced).seqr = s.seqr.upd st fun sq =>
      { sq with inFlight := sq.inFlight.filter (fun e => decide (e.seq ≠ r.seq)),
                context := contextSettled sq.context [r.seq] (foundOutcome found) } := by
  unfold State.abortStored
  simp [State.release, State.updLanes, Aborts.settleContext_seqr, State.leaveInFlight, State.updSeqr, Four.upd_upd]

theorem State.abortStored_lane (s : State) (st : Idx) (r : TrackRecord) (found : AbortFound) (advanced : Four Nat) (v c : Idx) :
    (s.abortStored st r found advanced).lane v c =
      if v = st then { s.lane st c with reserved := (s.lane st c).reserved - (r.st.get st).feeds.get c } else s.lane v c := by
  unfold State.abortStored State.release
  by_cases station : v = st
  · subst station
    simp [State.lane, State.updLanes]
  · simp [State.lane, State.updLanes, station]

theorem State.abortStored_elsewhere (s : State) (st : Idx) (r : TrackRecord) (found : AbortFound) (advanced : Four Nat) :
    SameElsewhere s (s.abortStored st r found advanced) st := by
  intro v hv
  have lanes : (s.abortStored st r found advanced).lanes.get v = s.lanes.get v := Four.ext_get fun c =>
    (s.abortStored_lane st r found advanced v c).trans (if_neg hv)
  simp [lanes, State.abortStored_seqr, hv]

/-! What the closing leaves, with the faults it takes. -/

theorem State.closeByAbort_seqr (record : s.record q = some r) : (s.closeByAbort st q found advanced).seqr = s.seqr.upd st fun sq =>
    { sq with inFlight := sq.inFlight.filter (fun e => decide (e.seq ≠ q)),
              context := contextSettled sq.context [q] (foundOutcome found) } := by
  have seq : r.seq = q := State.record_seq record
  rw [State.closeByAbort_of_record record]
  split <;> simp [State.abortFoil, State.abortStored_seqr, seq]

theorem State.closeByAbort_lanes_eq (record : s.record q = some r) :
    (s.closeByAbort st q found advanced).lanes = (s.abortFoil st r found advanced).lanes := by
  rw [State.closeByAbort_of_record record]
  split <;> simp

theorem State.closeByAbort_slots_eq (record : s.record q = some r) :
    (s.closeByAbort st q found advanced).slots = (s.abortFoil st r found advanced).slots := by
  rw [State.closeByAbort_of_record record]
  split <;> simp

theorem State.closeByAbort_foil (record : s.record q = some r) (c : Idx) : ((s.closeByAbort st q found advanced).lane st c).foil =
    ((s.lane st c).remaining - advanced.get c, (s.lane st c).reserved - s.feedsOf st c [q]) := by
  rw [State.lane_of_lanes (State.closeByAbort_lanes_eq record), State.abortFoil, State.applyFoilAll_foil, if_pos rfl,
    State.abortStored_lane, if_pos rfl, State.feedsOf_record record]
  rfl

theorem State.closeByAbort_track (record : s.record q = some r) : ∃ mark : TrackRecord → Four Bool,
    (s.closeByAbort st q found advanced).track = s.track.map fun x =>
      { (if x.seq = q then x.abortedAs st (r.st.get st).decision found advanced else x) with watchMark := mark x } := by
  have seq : r.seq = q := State.record_seq record
  have stored := s.abortStored_track st r found advanced
  rw [seq] at stored
  obtain ⟨mark, marked⟩ := Marked.map stored (State.applyFoilAll_marked _ st (r.abortedFoil st advanced))
  refine ⟨mark, Eq.trans ?_ marked⟩
  rw [State.closeByAbort_of_record record]
  split
  · rw [(State.raise_frame _ _).2.2.1]
    rfl
  · rfl

theorem State.abortFoil_elsewhere (s : State) (st : Idx) (r : TrackRecord) (found : AbortFound) (advanced : Four Nat) :
    SameElsewhere s (s.abortFoil st r found advanced) st :=
  (s.abortStored_elsewhere st r found advanced).trans (State.applyFoilAll_elsewhere _ st rfl)

theorem State.closeByAbort_elsewhere (record : s.record q = some r) : SameElsewhere s (s.closeByAbort st q found advanced) st := by
  have foil := s.abortFoil_elsewhere st r found advanced
  rw [State.closeByAbort_of_record record]
  split
  · exact foil.trans (State.raise_elsewhere _ rfl)
  · exact foil

theorem State.abortFoil_faults (s : State) (st : Idx) (r : TrackRecord) (found : AbortFound) (advanced : Four Nat) :
    FaultsTaken st [] false s (s.abortFoil st r found advanced) := by
  have stored : FaultsTaken st [] false s (s.abortStored st r found advanced) := .of_units st (by simp) (by simp) (by simp)
  have foil := (s.abortStored st r found advanced).applyFoilAll_faults st (r := r.abortedFoil st advanced) rfl
  have unbroken : Idx.all.filter ((s.abortStored st r found advanced).breaksAt st (r.abortedFoil st advanced).breaks) = [] := by
    simp [State.breaksAt, TrackRecord.abortedFoil]
  rw [unbroken] at foil
  exact stored.trans foil

theorem State.closeByAbort_faults (record : s.record q = some r) : FaultsTaken st
    (if abortStatus (r.st.get st).decision found = .faulted then [(.driveMismatch, some q, none)] else []) false s
    (s.closeByAbort st q found advanced) := by
  have foil := s.abortFoil_faults st r found advanced
  have seq : r.seq = q := State.record_seq record
  rw [State.closeByAbort_of_record record]
  split
  · have raised := (s.abortFoil st r found advanced).raise_hard_faults (ev := r.abortMismatch st found) rfl rfl
    have both := foil.trans raised
    rw [show (r.abortMismatch st found).key = (.driveMismatch, some q, none) by rw [← seq]; rfl] at both
    exact both
  · exact foil

/-- The orders of the records stand where an abort closes one of them. -/
theorem abortedAs_orderAt (x : TrackRecord) (st : Idx) (d : Decision) (found : AbortFound) (advanced : Four Nat) :
    (x.abortedAs st d found advanced).orderAt st = x.orderAt st := by
  simp [TrackRecord.abortedAs, TrackRecord.orderAt, TrackRecord.updStation]

theorem State.closeByAbort_sameOrders (record : s.record q = some r) : SameOrders st s (s.closeByAbort st q found advanced) := by
  obtain ⟨mark, track⟩ := State.closeByAbort_track (st := st) (found := found) (advanced := advanced) record
  refine .of_map track fun x => ?_
  show (if x.seq = q then x.abortedAs st (r.st.get st).decision found advanced else x).orderAt st = _
  split
  · exact abortedAs_orderAt x st _ found advanced
  · rfl

end

/-! ### The seq settled (R81, R83, R140) -/

/-- The sequencer when the order of a seq has left its abort with an outcome. -/
def Sequencer.settled (sq : Sequencer) (q : SeqNo) (o : AbortOutcome) : Sequencer :=
  { sq with inFlight := sq.inFlight.filter (fun e => decide (e.seq ≠ q)), abortSet := sq.abortSet.filter (fun x => decide (x ≠ q)),
            context := contextSettled sq.context [q] o }

section
variable {s u : State} {st : Idx} {q : SeqNo} {o : AbortOutcome}

theorem State.completeAbort_open (seqr : u.seqr.get st = (s.seqr.get st).settled q o)
    (remain : (s.seqr.get st).abortSet.filter (fun x => decide (x ≠ q)) ≠ []) : u.completeAbort st = u :=
  if_neg fun h => remain (by simpa [seqr, Sequencer.settled] using h.2)

/-- With the set empty the queued order goes out. -/
theorem State.completeAbort_goesOut (seqr : u.seqr.get st = (s.seqr.get st).settled q o) (awaited : (s.seqr.get st).awaited = .abort)
    (orders : SameOrders st s u) (links : u.links = s.links) (empty : (s.seqr.get st).abortSet.filter (fun x => decide (x ≠ q)) = []) :
    QueuedGoesOut s (u.completeAbort st) st { (s.seqr.get st).settled q o with awaited := .none, timer := none } := by
  have complete : u.completeAbort st = (u.clearAwaited st).releaseQueue st :=
    if_pos ⟨by rw [seqr]; exact awaited, by rw [seqr]; exact empty⟩
  rw [complete]
  refine State.releaseQueue_goesOut ?_ rfl (orders.trans (.of_track (by simp))) ?_
  · rw [Orders.clear_seqr, Four.get_upd, if_pos rfl, seqr]
  · simp [State.clearAwaited, State.updLink, State.updSeqr, links]

theorem State.completeAbort_settled (seqr : u.seqr.get st = (s.seqr.get st).settled q o) (awaited : (s.seqr.get st).awaited = .abort)
    (orders : SameOrders st s u) (links : u.links = s.links) : AbortSettled s (u.completeAbort st) st (s.seqr.get st) q o := by
  unfold AbortSettled
  dsimp only
  by_cases empty : (s.seqr.get st).abortSet.filter (fun x => decide (x ≠ q)) = []
  · rw [if_pos empty]
    exact State.completeAbort_goesOut seqr awaited orders links empty
  · rw [if_neg empty, State.completeAbort_open seqr empty, links]
    exact ⟨seqr, rfl⟩

theorem State.completeAbort_elsewhere (s : State) (st : Idx) : SameElsewhere s (s.completeAbort st) st := by
  unfold State.completeAbort
  split
  · exact (s.clearAwaited_elsewhere st).trans (State.releaseQueue_elsewhere _ st)
  · exact .of_same st rfl rfl rfl rfl rfl

theorem State.completeAbort_faults (s : State) (st : Idx) : FaultsTaken st [] false s (s.completeAbort st) :=
  .of_units st (by simp) (by simp) (by simp)

/-- A trip while an abort is outstanding joins it (R80, R84). -/
theorem State.tripEffects_joins (awaited : (s.seqr.get st).awaited = .abort) :
    s.tripEffects st = (s.updSeqr st fun sq => { sq with tripped := true, beforeTrip := s.tripFinds st }).unphase st := by
  unfold State.tripEffects State.requestAbort
  rw [if_pos]
  simp [State.unphase, State.updCalc, State.updSeqr, awaited]

end

end Sys2Proof.Machine

end

section
/-! SUPPORT. The reports that settle an abort, its timeout, and the loss of a link (O43; R79 to R84). -/

namespace Sys2Proof.Machine

/-! ### The abort report (R81) -/

/-- The order of a seq of the set is closed by its abort report. -/
def State.abortClosed (s : State) (st : Idx) (q : SeqNo) (found : AbortFound) (advanced : Four Nat) : State :=
  (s.leaveAbortSet st q).closeByAbort st q found advanced

theorem State.abortReport_named {s : State} {st : Idx} {q : SeqNo} (named : q ∈ (s.seqr.get st).abortSet) (found : AbortFound)
    (advanced : Four Nat) : s.abortReport st q found advanced = (s.abortClosed st q found advanced).completeAbort st :=
  if_pos (by simpa using named)

section
variable {s : State} {st : Idx} {q : SeqNo} {r : TrackRecord} {found : AbortFound} {advanced : Four Nat}

theorem State.leaveAbortSet_elsewhere (s : State) (st : Idx) (q : SeqNo) : SameElsewhere s (s.leaveAbortSet st q) st :=
  s.updSeqr_elsewhere st _

theorem State.abortClosed_seqr (record : s.record q = some r) :
    (s.abortClosed st q found advanced).seqr.get st = (s.seqr.get st).settled q (foundOutcome found) := by
  unfold State.abortClosed
  rw [State.closeByAbort_seqr (s := s.leaveAbortSet st q) (r := r) record]
  simp [State.leaveAbortSet, State.updSeqr, Sequencer.settled]

theorem State.abortClosed_track (record : s.record q = some r) : ∃ mark : TrackRecord → Four Bool,
    (s.abortClosed st q found advanced).track = s.track.map fun x =>
      { (if x.seq = q then x.abortedAs st (r.st.get st).decision found advanced else x) with watchMark := mark x } :=
  State.closeByAbort_track (s := s.leaveAbortSet st q) record

theorem State.abortClosed_elsewhere (record : s.record q = some r) : SameElsewhere s (s.abortClosed st q found advanced) st :=
  (s.leaveAbortSet_elsewhere st q).trans (State.closeByAbort_elsewhere (s := s.leaveAbortSet st q) record)

theorem State.abortClosed_foil (record : s.record q = some r) (c : Idx) : ((s.abortClosed st q found advanced).lane st c).foil =
    ((s.lane st c).remaining - advanced.get c, (s.lane st c).reserved - s.feedsOf st c [q]) :=
  State.closeByAbort_foil (s := s.leaveAbortSet st q) record c

theorem State.abortClosed_sameOrders (record : s.record q = some r) : SameOrders st s (s.abortClosed st q found advanced) :=
  State.closeByAbort_sameOrders (s := s.leaveAbortSet st q) record

theorem State.abortClosed_faults (record : s.record q = some r) : FaultsTaken st
    (if abortStatus (r.st.get st).decision found = .faulted then [(.driveMismatch, some q, none)] else []) false s
    (s.abortClosed st q found advanced) := by
  have left : FaultsTaken st [] false s (s.leaveAbortSet st q) := .of_units st rfl rfl id
  exact left.trans (State.closeByAbort_faults (s := s.leaveAbortSet st q) record)

@[simp] theorem State.abortClosed_frame (s : State) (st : Idx) (q : SeqNo) (found : AbortFound) (advanced : Four Nat) :
    (s.abortClosed st q found advanced).web = s.web ∧ (s.abortClosed st q found advanced).reader = s.reader ∧
    (s.abortClosed st q found advanced).nextSeq = s.nextSeq ∧ (s.abortClosed st q found advanced).outcomes = s.outcomes ∧
    (s.abortClosed st q found advanced).calcs = s.calcs ∧ (s.abortClosed st q found advanced).heat = s.heat ∧
    (s.abortClosed st q found advanced).splices = s.splices ∧ (s.abortClosed st q found advanced).settings = s.settings ∧
    (s.abortClosed st q found advanced).line = s.line ∧ (s.abortClosed st q found advanced).estop = s.estop ∧
    (s.abortClosed st q found advanced).links = s.links ∧ (s.abortClosed st q found advanced).pending = s.pending := by
  unfold State.abortClosed
  simp

/-- The event of an abort report. -/
theorem State.abortReport_event (record : s.record q = some r) (named : q ∈ (s.seqr.get st).abortSet) : EventAt st
    (if abortStatus (r.st.get st).decision found = .faulted then [(.driveMismatch, some q, none)] else []) false s
    (s.abortReport st q found advanced) := by
  refine ⟨?_, (s.abortReport_within st q found advanced).trips⟩
  rw [State.abortReport_named named]
  simpa using (State.abortClosed_faults (found := found) (advanced := advanced) record).trans (State.completeAbort_faults _ st)

/-- The station while it has tripped with its abort outstanding. -/
theorem State.abortReport_joined (record : s.record q = some r) (named : q ∈ (s.seqr.get st).abortSet)
    (awaited : (s.seqr.get st).awaited = .abort) (remain : (s.seqr.get st).abortSet.filter (fun x => decide (x ≠ q)) ≠ []) :
    let u := s.abortReport st q found advanced
    u.seqr.get st = (s.seqr.get st).settled q (foundOutcome found) ∧ u.links = s.links ∧
      u.tripEffects st = (u.updSeqr st fun sq => { sq with tripped := true, beforeTrip := u.tripFinds st }).unphase st := by
  have seqr := State.abortClosed_seqr (st := st) (found := found) (advanced := advanced) record
  have still : s.abortReport st q found advanced = s.abortClosed st q found advanced := by
    rw [State.abortReport_named named]
    exact State.completeAbort_open seqr remain
  dsimp only
  rw [still]
  refine ⟨seqr, by simp, State.tripEffects_joins ?_⟩
  rw [seqr]
  exact awaited

end

/-! ### The strike report of an order that an abort names (R83) -/

theorem judgedFaults_length_le {q : SeqNo} {mismatch off : Bool} (excluded : mismatch = true → off = false) (soft : Bool) :
    (judgedFaults q mismatch off soft).length ≤ 1 := by
  unfold judgedFaults
  cases mismatch
  · cases off <;> cases soft <;> simp
  · simp [excluded rfl]

/-- Without an entry for the station in the slot nothing is learned but the phase (R51, R53). -/
theorem State.learn_unlisted {s : State} {st : Idx} {r : TrackRecord} (entry : s.entry r.slot st = none) (phasing : Bool)
    (o : ReportOutcome) (e : Option Int) :
    s.learn st r phasing o e = s ∨ s.learn st r phasing o e = s.updCalc st fun c => { c with phased := true } := by
  by_cases lift : (r.st.get st).decision = .lift
  · rw [s.learn_lift lift]
    split
    · exact .inr rfl
    · exact .inl rfl
  · left
    cases e with
    | none => exact s.learn_unmeasured lift phasing o
    | some n =>
      unfold State.learn
      dsimp only
      rw [entry]
      generalize (r.st.get st).decision = d at lift ⊢
      cases d
      case lift => exact absurd rfl lift
      all_goals rfl

/-- The judgement of a report marks records at most, leaves the other stations, and takes at most one hard fault. -/
theorem State.reportJudged_bounded (s : State) (st : Idx) (r : TrackRecord) (phasing : Bool) (o : ReportOutcome) (e : Option Int) :
    let t := s.reportJudged st r phasing o e
    Marked s t ∧ SameElsewhere s t st ∧ ∃ hards soft, hards.length ≤ 1 ∧ FaultsTaken st hards soft s t := by
  cases entry : s.entry r.slot st with
  | some p =>
    have judged := State.reportJudged_spec (s := s) (st := st) (r := r) p phasing (o := o) e (by rw [entry]; rfl)
    exact ⟨judged.marked, judged.elsewhere, _, _, judgedFaults_length_le (fun h => reportOff_of_mismatch h e p.tol) _, judged.faults⟩
  | none =>
    unfold State.reportJudged
    split
    · obtain same | phased := State.learn_unlisted entry phasing o e
      · rw [same]
        exact ⟨.of_track rfl, .of_same st rfl rfl rfl rfl rfl, [], false, by decide, .refl st s⟩
      · rw [phased]
        exact ⟨.of_track rfl, s.updCalc_elsewhere st _, [], false, by decide, s.updCalc_faults st _⟩
    · exact ⟨s.raise_marked _, s.raise_elsewhere rfl, [(r.driveMismatch st o).key], false, Nat.le_refl 1,
        s.raise_hard_faults (ev := r.driveMismatch st o) rfl rfl⟩

/-- The order has been completed, judged, and has left the abort set. -/
def State.reportLeft (s : State) (st : Idx) (fr : StrikeReportFrame) (r : TrackRecord) : State :=
  (((s.reportFoil st fr r).reportJudged st r ((s.seqr.get st).phasing r.seq) fr.outcome (decodeError fr.ePresent fr.e)).leaveAbortSet st
    r.seq).settleContext st r.seq (reportedOutcome fr.outcome)

section
variable {s : State} {st : Idx} {fr : StrikeReportFrame} {r : TrackRecord}

theorem State.reportAsAck_unawaited {q : SeqNo} (other : (s.seqr.get st).awaited ≠ .order q) : s.reportAsAck st q = s := if_neg other

theorem State.reportInTime_named (named : r.seq ∈ (s.seqr.get st).abortSet) :
    s.reportInTime st fr r = (s.reportLeft st fr r).completeAbort st := by
  have inside : ((((s.reportFoil st fr r).reportJudged st r ((s.seqr.get st).phasing r.seq) fr.outcome
      (decodeError fr.ePresent fr.e)).seqr.get st).abortSet.contains r.seq) = true := by
    simpa [State.reportStored_seqr, State.reportAsAck_abortSet] using named
  exact if_pos inside

theorem State.reportLeft_seqr (awaited : (s.seqr.get st).awaited = .abort) :
    (s.reportLeft st fr r).seqr.get st = (s.seqr.get st).settled r.seq (reportedOutcome fr.outcome) := by
  have unacked : s.reportAsAck st r.seq = s := State.reportAsAck_unawaited (by simp [awaited])
  simp [State.reportLeft, Aborts.settleContext_seqr, State.leaveAbortSet, State.updSeqr, State.reportStored_seqr, unacked, Sequencer.settled]

@[simp] theorem State.reportLeft_frame (s : State) (st : Idx) (fr : StrikeReportFrame) (r : TrackRecord) :
    (s.reportLeft st fr r).web = s.web ∧ (s.reportLeft st fr r).reader = s.reader ∧ (s.reportLeft st fr r).nextSeq = s.nextSeq ∧
    (s.reportLeft st fr r).outcomes = s.outcomes ∧ (s.reportLeft st fr r).heat = s.heat ∧
    (s.reportLeft st fr r).splices = s.splices ∧ (s.reportLeft st fr r).settings = s.settings ∧
    (s.reportLeft st fr r).line = s.line ∧ (s.reportLeft st fr r).estop = s.estop ∧ (s.reportLeft st fr r).pending = s.pending := by
  simp [State.reportLeft]

theorem State.reportLeft_links (awaited : (s.seqr.get st).awaited = .abort) : (s.reportLeft st fr r).links = s.links := by
  have unacked : s.reportAsAck st r.seq = s := State.reportAsAck_unawaited (by simp [awaited])
  simp [State.reportLeft, unacked]

theorem State.reportLeft_track (s : State) (st : Idx) (fr : StrikeReportFrame) (r : TrackRecord) : ∃ mark : TrackRecord → Four Bool,
    (s.reportLeft st fr r).track = s.track.map fun x =>
      { (if x.seq = r.seq then x.reportedAs st fr (reportStatus (r.st.get st).decision fr.outcome) else x) with watchMark := mark x } := by
  have marked := (State.applyFoilAll_marked (s.reportStored st fr r) st (r.foilOf st fr)).trans
    (State.reportJudged_bounded (s.reportFoil st fr r) st r ((s.seqr.get st).phasing r.seq) fr.outcome (decodeError fr.ePresent fr.e)).1
  have left : ∀ t : State, ((t.leaveAbortSet st r.seq).settleContext st r.seq (reportedOutcome fr.outcome)).track = t.track := fun _ => rfl
  unfold State.reportLeft
  rw [left]
  exact Marked.map (s.reportStored_track st fr r) marked

theorem State.reportLeft_sameOrders (s : State) (st : Idx) (fr : StrikeReportFrame) (r : TrackRecord) :
    SameOrders st s (s.reportLeft st fr r) := by
  obtain ⟨mark, track⟩ := s.reportLeft_track st fr r
  refine .of_map track fun x => ?_
  show (if x.seq = r.seq then x.reportedAs st fr (reportStatus (r.st.get st).decision fr.outcome) else x).orderAt st = _
  split
  · simp [TrackRecord.reportedAs, TrackRecord.orderAt, TrackRecord.updStation]
  · rfl

theorem State.reportLeft_elsewhere (s : State) (st : Idx) (fr : StrikeReportFrame) (r : TrackRecord) :
    SameElsewhere s (s.reportLeft st fr r) st := by
  have foil : SameElsewhere s (s.reportFoil st fr r) st :=
    (s.reportStored_elsewhere st fr r).trans (State.applyFoilAll_elsewhere _ st rfl)
  have judged := foil.trans (State.reportJudged_bounded (s.reportFoil st fr r) st r ((s.seqr.get st).phasing r.seq) fr.outcome
    (decodeError fr.ePresent fr.e)).2.1
  exact (judged.trans (State.leaveAbortSet_elsewhere _ st r.seq)).trans (State.updSeqr_elsewhere _ st _)

theorem State.reportLeft_foil (s : State) (st : Idx) (fr : StrikeReportFrame) (r : TrackRecord) (c : Idx) :
    ((s.reportLeft st fr r).lane st c).foil =
      ((s.lane st c).remaining - (fr.advanced.get c).toNat, (s.lane st c).reserved - (r.st.get st).feeds.get c) := by
  have lanes : (s.reportLeft st fr r).lanes = (s.reportFoil st fr r).lanes := by simp [State.reportLeft]
  rw [State.lane_of_lanes lanes, State.reportFoil, State.applyFoilAll_foil, if_pos rfl, State.reportStored_lane, if_pos rfl]
  simp [TrackRecord.foilOf, counts]

theorem State.reportLeft_faults (unbroken : fr.breakMask = .all false) :
    ∃ hards soft, hards.length ≤ 1 ∧ FaultsTaken st hards soft s (s.reportLeft st fr r) := by
  have stored : FaultsTaken st [] false s (s.reportStored st fr r) := .of_units st (by simp) (by simp) (by simp)
  have foil := (s.reportStored st fr r).applyFoilAll_faults st (r := r.foilOf st fr) rfl
  have none : Idx.all.filter ((s.reportStored st fr r).breaksAt st (r.foilOf st fr).breaks) = [] := by
    simp [State.breaksAt, TrackRecord.foilOf, unbroken]
  rw [none] at foil
  obtain ⟨-, -, hards, soft, few, judged⟩ := State.reportJudged_bounded (s.reportFoil st fr r) st r ((s.seqr.get st).phasing r.seq)
    fr.outcome (decodeError fr.ePresent fr.e)
  have left : ∀ t : State, FaultsTaken st [] false t ((t.leaveAbortSet st r.seq).settleContext st r.seq (reportedOutcome fr.outcome)) :=
    fun t => .of_units st rfl rfl id
  have all : FaultsTaken st (hards ++ []) (soft || false) s (s.reportLeft st fr r) := ((stored.trans foil).trans judged).trans (left _)
  exact ⟨hards, soft, few, by simpa using all⟩

/-- The event of such a report takes at most one hard fault. -/
theorem State.reportInTime_event (named : r.seq ∈ (s.seqr.get st).abortSet) (unbroken : fr.breakMask = .all false) :
    ∃ hards soft, hards.length ≤ 1 ∧ EventAt st hards soft s (s.reportInTime st fr r) := by
  obtain ⟨hards, soft, few, faults⟩ := State.reportLeft_faults (s := s) (st := st) (r := r) unbroken
  refine ⟨hards, soft, few, ?_, (s.reportInTime_within st fr r).trips⟩
  rw [State.reportInTime_named named]
  simpa using faults.trans (State.completeAbort_faults _ st)

end

/-! ### Orders closed together (R79, R82) -/

/-- The status of the orders of some seqs at a station becomes `x`. -/
def statusIn (st : Idx) (l : List SeqNo) (x : Status) (r : TrackRecord) : TrackRecord :=
  if r.seq ∈ l then r.updStation st fun f => { f with status := x } else r

theorem statusIn_nil (st : Idx) (x : Status) : statusIn st [] x = id := by
  funext r
  simp [statusIn]

theorem statusIn_cons (st : Idx) (q : SeqNo) (l : List SeqNo) (x : Status) : statusIn st l x ∘ statusAt st q x = statusIn st (q :: l) x := by
  funext r
  by_cases first : r.seq = q <;> by_cases later : r.seq ∈ l <;>
    simp [statusIn, statusAt, first, later, TrackRecord.updStation, Four.upd_upd]

/-- Orders closed one after the other. -/
theorem ClosedAt.foldl {α : Type} {st : Idx} {x : Status} (seq : α → SeqNo) (g : State → α → State)
    (closes : ∀ s a, ClosedAt st (statusAt st (seq a) x) (fun c => s.feedsOf st c [seq a]) s (g s a)) (l : List α) (s : State) :
    ClosedAt st (statusIn st (l.map seq) x) (fun c => s.feedsOf st c (l.map seq)) s (l.foldl g s) := by
  induction l generalizing s with
  | nil => exact (ClosedAt.refl st s).congr (fun r _ => (congrFun (statusIn_nil st x) r).symm) fun c => rfl
  | cons a l ih =>
    have first := closes s a
    have both := first.trans (ih (g s a))
    refine both.congr (fun r _ => congrFun (statusIn_cons st (seq a) (l.map seq) x) r) fun c => ?_
    rw [(statusAt_sameOrders first).feedsOf, List.map_cons, State.feedsOf_cons s st c (seq a) (l.map seq)]

section
variable (s : State) (st : Idx)

theorem State.settleContext_elsewhere (q : SeqNo) (o : AbortOutcome) : SameElsewhere s (s.settleContext st q o) st := s.updSeqr_elsewhere st _

theorem State.closeAbortSet_closedAt : ClosedAt st (statusIn st (s.seqr.get st).abortSet .missed)
    (fun c => s.feedsOf st c (s.seqr.get st).abortSet) s (s.closeAbortSet st) := by
  have closed := ClosedAt.foldl (st := st) (x := .missed) id (fun s q => (s.closeUnreported st q .missed).settleContext st q .unknown)
    (fun s q => (s.closeUnreported_closedAt st q .missed).still rfl rfl (State.settleContext_elsewhere _ st q _)) (s.seqr.get st).abortSet s
  rw [List.map_id] at closed
  exact closed.still rfl rfl (State.updSeqr_elsewhere _ st _)

theorem State.closeAbortSet_faults : FaultsTaken st [] false s (s.closeAbortSet st) := by
  have each : ∀ (s : State) (q : SeqNo), FaultsTaken st [] false s ((s.closeUnreported st q .missed).settleContext st q .unknown) :=
    fun s q => (s.closeUnreported_faults st q .missed).trans (l := []) (b := false) (.of_units st rfl rfl id)
  exact (FaultsTaken.foldl _ each (s.seqr.get st).abortSet s).trans (l := []) (b := false) (.of_units st rfl rfl id)

theorem State.faultInFlight_closedAt : let named := ((s.seqr.get st).inFlight.map (·.seq)).filter fun q => decide (q ∉ (s.seqr.get st).abortSet)
    ClosedAt st (statusIn st named .faulted) (fun c => s.feedsOf st c named) s (s.faultInFlight st) := by
  have closed := ClosedAt.foldl (st := st) (x := .faulted) (·.seq) (fun s (e : InFlight) => s.closeUnreported st e.seq .faulted)
    (fun s e => s.closeUnreported_closedAt st e.seq .faulted)
    ((s.seqr.get st).inFlight.filter fun e => !(s.seqr.get st).abortSet.contains e.seq) s
  have names : ((s.seqr.get st).inFlight.filter fun e => !(s.seqr.get st).abortSet.contains e.seq).map (·.seq) =
      ((s.seqr.get st).inFlight.map (·.seq)).filter fun q => decide (q ∉ (s.seqr.get st).abortSet) := by
    rw [List.filter_map]
    congr 1
    exact List.filter_congr fun e _ => by simp [Function.comp]
  rw [names] at closed
  exact closed

theorem State.faultInFlight_faults : FaultsTaken st [] false s (s.faultInFlight st) :=
  FaultsTaken.foldl _ (fun s (e : InFlight) => s.closeUnreported_faults st e.seq .faulted) _ s

end

/-! ### The abort timeout (R82) -/

/-- The fault of an abort that stays unanswered. -/
def abortUnanswered (st : Idx) : FaultEvent := { kind := .noAck, unit := .station st, detail := some .abort }

/-- The orders of the set are closed, with the fault raised and nothing awaited. -/
def State.abortExpired (s : State) (st : Idx) : State :=
  (((s.closeAbortSet st).raise (abortUnanswered st)).unphase st).clearAwaited st

section
variable {s : State} {st : Idx}

theorem State.abortTimeout_awaited (awaited : (s.seqr.get st).awaited = .abort) :
    s.abortTimeout st = (s.abortExpired st).releaseQueue st := by
  unfold State.abortTimeout
  rw [awaited]
  rfl

theorem State.unphase_elsewhere (s : State) (st : Idx) : SameElsewhere s (s.unphase st) st := s.updCalc_elsewhere st _

@[simp] theorem State.abortExpired_frame (s : State) (st : Idx) :
    (s.abortExpired st).web = s.web ∧ (s.abortExpired st).reader = s.reader ∧ (s.abortExpired st).nextSeq = s.nextSeq ∧
    (s.abortExpired st).outcomes = s.outcomes ∧ (s.abortExpired st).heat = s.heat ∧ (s.abortExpired st).splices = s.splices ∧
    (s.abortExpired st).watches = s.watches ∧ (s.abortExpired st).settings = s.settings ∧ (s.abortExpired st).line = s.line ∧
    (s.abortExpired st).estop = s.estop ∧ (s.abortExpired st).pending = s.pending := by
  simp [State.abortExpired]

theorem State.abortExpired_closedAt (s : State) (st : Idx) : ClosedAt st (statusIn st (s.seqr.get st).abortSet .missed)
    (fun c => s.feedsOf st c (s.seqr.get st).abortSet) s (s.abortExpired st) :=
  ((s.closeAbortSet_closedAt st).raised rfl).still (by simp [State.abortExpired]) (by simp [State.abortExpired])
    ((State.unphase_elsewhere _ st).trans (State.clearAwaited_elsewhere _ st))

theorem statusIn_sameOrders {l : List SeqNo} {x : Status} {m : Idx → Nat} {t : State} (a : ClosedAt st (statusIn st l x) m s t) :
    SameOrders st s t := .of_map a.track fun r => by
  unfold statusIn
  split
  · simp [TrackRecord.orderAt, TrackRecord.updStation]
  · rfl

theorem State.abortTimeout_ends (awaited : (s.seqr.get st).awaited = .abort) :
    EndsHard st (.noAck, none, none) (statusIn st (s.seqr.get st).abortSet .missed)
      (fun c => s.feedsOf st c (s.seqr.get st).abortSet) s (s.abortTimeout st) := by
  have trips := (s.abortTimeout_within st).trips
  rw [State.abortTimeout_awaited awaited] at trips ⊢
  have closed := s.closeAbortSet_faults st
  have raised := closed.trans ((s.closeAbortSet st).raise_hard_faults (ev := abortUnanswered st) rfl rfl)
  have after : FaultsTaken st [] false ((s.closeAbortSet st).raise (abortUnanswered st)) (s.abortExpired st) :=
    .of_units st (by simp [State.abortExpired]) (by simp [State.abortExpired]) (by simp [State.abortExpired])
  refine ⟨(s.abortExpired_closedAt st).released, ⟨(raised.trans after).trans (State.releaseQueue_faults _ st), trips⟩, fun steady => ?_⟩
  have stopReq := closed.raise_stopReq (ev := abortUnanswered st) rfl steady
  have kept : (s.closeAbortSet st).stopReq = s.stopReq := by rw [(Orders.close_set_spec s st).2.2.2.2.2.2.2.2]
  simp [State.abortExpired, stopReq, kept]

theorem State.abortTimeout_out (awaited : (s.seqr.get st).awaited = .abort) : QueuedGoesOut s (s.abortTimeout st) st { s.seqr.get st with
    inFlight := (s.seqr.get st).inFlight.filter (fun e => decide (e.seq ∉ (s.seqr.get st).abortSet)), abortSet := [], awaited := .none,
    timer := none, context := contextSettled (s.seqr.get st).context (s.seqr.get st).abortSet .unknown } := by
  rw [State.abortTimeout_awaited awaited]
  refine State.releaseQueue_goesOut ?_ rfl (statusIn_sameOrders (s.abortExpired_closedAt st)) ?_
  · simp [State.abortExpired, Orders.clear_seqr, State.unphase, State.updCalc, Aborts.close_set_seqr]
  · simp [State.abortExpired, State.clearAwaited, State.updLink, State.updSeqr, State.unphase, State.updCalc]

end

/-! ### The loss of a link (R79) -/

/-- The fault of a link whose carrier is lost. -/
def linkDown (st : Idx) : FaultEvent := { kind := .linkDown, unit := .station st }

/-- The orders that no abort names are FAULTED, and nothing is awaited or queued. -/
def State.linkFaulted (s : State) (st : Idx) (b : Bool) : State :=
  ((s.updLink st fun _ => { carrier := false, sending := none, waiting := s.framesAfterLoss st b }).faultInFlight st).updSeqr st fun sq =>
    { sq with awaited := .none, queue := none, timer := none }

/-- Every order is closed. -/
def State.linkEnded (s : State) (st : Idx) (b : Bool) : State := (((s.linkFaulted st b).closeAbortSet st).emptyOverdue st).unphase st

section
variable {s : State} {st : Idx}

theorem State.loseStationLink_up (carrier : (s.links.get st).carrier = true) (b : Bool) :
    s.loseStationLink st b = (s.linkEnded st b).raise (linkDown st) := if_pos carrier

/-- The orders that no abort names of those in flight. -/
def Sequencer.unnamed (sq : Sequencer) : List SeqNo := (sq.inFlight.map (·.seq)).filter fun q => decide (q ∉ sq.abortSet)

theorem State.linkFaulted_closedAt (s : State) (st : Idx) (b : Bool) : ClosedAt st (statusIn st (s.seqr.get st).unnamed .faulted)
    (fun c => s.feedsOf st c (s.seqr.get st).unnamed) s (s.linkFaulted st b) := by
  have faulted := State.faultInFlight_closedAt (s.updLink st fun _ => { carrier := false, sending := none, waiting := s.framesAfterLoss st b }) st
  exact (faulted.after (s := s) rfl rfl (s.updLink_elsewhere st _)).still (by simp [State.linkFaulted, State.updSeqr])
    (by simp [State.linkFaulted, State.updSeqr]) (State.updSeqr_elsewhere _ st _)

theorem State.linkFaulted_abortSet (s : State) (st : Idx) (b : Bool) : ((s.linkFaulted st b).seqr.get st).abortSet = (s.seqr.get st).abortSet := by
  simp [State.linkFaulted, State.updSeqr, Aborts.fault_in_flight_seqr]

@[simp] theorem State.linkEnded_frame (s : State) (st : Idx) (b : Bool) :
    (s.linkEnded st b).web = s.web ∧ (s.linkEnded st b).reader = s.reader ∧ (s.linkEnded st b).nextSeq = s.nextSeq ∧
    (s.linkEnded st b).outcomes = s.outcomes ∧ (s.linkEnded st b).heat = s.heat ∧ (s.linkEnded st b).splices = s.splices ∧
    (s.linkEnded st b).watches = s.watches ∧ (s.linkEnded st b).settings = s.settings ∧ (s.linkEnded st b).line = s.line ∧
    (s.linkEnded st b).estop = s.estop ∧ (s.linkEnded st b).pending = s.pending := by
  simp [State.linkEnded, State.linkFaulted]

theorem State.linkEnded_closedAt (s : State) (st : Idx) (b : Bool) :
    ClosedAt st (statusIn st (s.seqr.get st).abortSet .missed ∘ statusIn st (s.seqr.get st).unnamed .faulted)
      (fun c => s.feedsOf st c (s.seqr.get st).unnamed + s.feedsOf st c (s.seqr.get st).abortSet) s (s.linkEnded st b) := by
  have faulted := s.linkFaulted_closedAt st b
  have missed := (s.linkFaulted st b).closeAbortSet_closedAt st
  rw [State.linkFaulted_abortSet] at missed
  have emptied : SameElsewhere ((s.linkFaulted st b).closeAbortSet st) (s.linkEnded st b) st := by
    refine SameElsewhere.trans (fun v hv => ?_) (State.unphase_elsewhere _ st)
    simp [Aborts.empty_overdue_seqr, hv]
  refine ((faulted.trans missed).congr (fun _ _ => rfl) fun c => ?_).still (by simp [State.linkEnded]) (by simp [State.linkEnded]) emptied
  rw [(statusIn_sameOrders faulted).feedsOf]

theorem State.linkEnded_faults (s : State) (st : Idx) (b : Bool) : FaultsTaken st [] false s (s.linkEnded st b) := by
  have down : FaultsTaken st [] false s (s.updLink st fun _ => { carrier := false, sending := none, waiting := s.framesAfterLoss st b }) :=
    .of_units st rfl rfl id
  have faulted : FaultsTaken st [] false s (s.linkFaulted st b) :=
    (down.trans (State.faultInFlight_faults _ st)).trans (l := []) (b := false) (.of_units st rfl rfl id)
  exact (faulted.trans (State.closeAbortSet_faults _ st)).trans (l := []) (b := false)
    (.of_units st (by simp [State.linkEnded]) (by simp [State.linkEnded]) (by simp [State.linkEnded]))

theorem State.linkEnded_stopReq (s : State) (st : Idx) (b : Bool) : (s.linkEnded st b).stopReq = s.stopReq := by
  have folded : ∀ t : State, (t.faultInFlight st).stopReq = t.stopReq := fun t => foldl_same State.stopReq _ (fun s e => by simp) _ t
  have set : ∀ t : State, (t.closeAbortSet st).stopReq = t.stopReq := fun t => by rw [(Orders.close_set_spec t st).2.2.2.2.2.2.2.2]
  simp [State.linkEnded, State.linkFaulted, folded, set]

theorem State.loseStationLink_ends (carrier : (s.links.get st).carrier = true) (b : Bool) :
    EndsHard st (.linkDown, none, none) (statusIn st (s.seqr.get st).abortSet .missed ∘ statusIn st (s.seqr.get st).unnamed .faulted)
      (fun c => s.feedsOf st c (s.seqr.get st).unnamed + s.feedsOf st c (s.seqr.get st).abortSet) s (s.loseStationLink st b) := by
  have trips := (s.loseStationLink_within st b).trips
  rw [State.loseStationLink_up carrier] at trips ⊢
  have ended := s.linkEnded_faults st b
  refine ⟨(s.linkEnded_closedAt st b).raised rfl, ⟨ended.trans (State.raise_hard_faults _ (ev := linkDown st) rfl rfl), trips⟩, fun steady => ?_⟩
  rw [ended.raise_stopReq rfl steady]
  exact s.linkEnded_stopReq st b

end

end Sys2Proof.Machine

end

section
/-! CLAIM. Aborts and link losses (O43; R79 to R84, R140). -/

namespace Sys2Proof.Machine

/-! ### The abort report as a whole (R81) -/

theorem abortStatus_faulted_iff {d : Decision} {found : AbortFound} : abortStatus d found = .faulted ↔ found = .contactMade ∧ d = .lift := by
  cases found <;> cases d <;> simp [abortStatus]

theorem TrackRecord.abortedAs_eq (x : TrackRecord) (st : Idx) (d : Decision) (found : AbortFound) (advanced : Four Nat) :
    x.abortedAs st d found advanced = x.updStation st fun f =>
      { f with status := if found = .notMade then .missed else if d = .lift then .faulted else .done,
               report := some { outcome := if found = .notMade then .noContact else .contact, e := none, advanced := advanced } } := by
  cases found <;> cases d <;> rfl

theorem foundOutcome_eq (found : AbortFound) : foundOutcome found = if found = .contactMade then .contactMade else .notMade := by
  cases found <;> rfl

theorem reportedOutcome_eq (o : ReportOutcome) : reportedOutcome o = if o = .contact then .contactMade else .notMade := by
  cases o <;> rfl

/-- What an abort report leaves of the track and the station's foil: its record is closed, what it advanced is consumed, and its feeds are
released (R81, R93). -/
structure AbortCompletes (st : Idx) (q : SeqNo) (r : TrackRecord) (found : AbortFound) (advanced : Four Nat) (s t : State) : Prop where
  track : ∃ mark : TrackRecord → Four Bool, t.track = s.track.map fun x =>
    { (if x.seq = q then x.updStation st fun f =>
        { f with status := if found = .notMade then .missed else if (r.st.get st).decision = .lift then .faulted else .done,
                 report := some { outcome := if found = .notMade then .noContact else .contact, e := none, advanced := advanced } }
      else x) with watchMark := mark x }
  elsewhere : SameElsewhere s t st
  foil : ∀ c, (t.lane st c).foil = ((s.lane st c).remaining - advanced.get c, (s.lane st c).reserved - s.feedsOf st c [q])

section
variable {s t u : State} {st : Idx} {q : SeqNo} {r : TrackRecord} {found : AbortFound} {advanced : Four Nat}

theorem AbortCompletes.still (a : AbortCompletes st q r found advanced s t) (track : u.track = t.track) (lanes : u.lanes = t.lanes)
    (elsewhere : SameElsewhere t u st) : AbortCompletes st q r found advanced s u :=
  ⟨by rw [track]; exact a.track, a.elsewhere.trans elsewhere, fun c => by rw [State.lane_of_lanes lanes]; exact a.foil c⟩

theorem State.abortReport_completes (record : s.record q = some r) (named : q ∈ (s.seqr.get st).abortSet) :
    AbortCompletes st q r found advanced s (s.abortReport st q found advanced) := by
  have closed : AbortCompletes st q r found advanced s (s.abortClosed st q found advanced) := by
    refine ⟨?_, State.abortClosed_elsewhere record, State.abortClosed_foil record⟩
    simpa only [TrackRecord.abortedAs_eq] using State.abortClosed_track (st := st) (found := found) (advanced := advanced) record
  rw [State.abortReport_named named]
  exact closed.still (by simp) (by simp) (State.completeAbort_elsewhere _ st)

/-- The foil of the lanes then. -/
theorem AbortCompletes.lanes {n : Four (BitVec 16)} (a : AbortCompletes st q r found (counts n) s t) (c : Idx) :
    ((t.lanes.get st).get c).remaining = ((s.lanes.get st).get c).remaining - (n.get c).toNat ∧
      ((t.lanes.get st).get c).reserved = ((s.lanes.get st).get c).reserved - s.feedsOf st c [q] := by
  have advanced : (counts n).get c = (n.get c).toNat := by simp [counts]
  have foil := a.foil c
  rw [advanced] at foil
  exact ⟨congrArg Prod.fst foil, congrArg Prod.snd foil⟩

/-- The unit trips with the abort complete: what is left in flight is named anew (R81, R84). -/
theorem State.abortReport_trips (mirrored : TripsMirrored s) (record : s.record q = some r) (named : q ∈ (s.seqr.get st).abortSet)
    (awaited : (s.seqr.get st).awaited = .abort) (mismatch : abortStatus (r.st.get st).decision found = .faulted)
    (hard : (s.units.get st).hard = true) (untripped : (s.units.get st).tripped = false)
    (stands : ∀ x, (s.seqr.get st).queue = some x →
      (∃ e ∈ (s.seqr.get st).inFlight.filter (fun e => decide (e.seq ≠ q)), e.seq = x) ∧ (s.record x).isSome = true)
    (empty : (s.seqr.get st).abortSet.filter (fun x => decide (x ≠ q)) = []) :
    ∃ t, (s.abortReport st q found advanced).done = .next t ∧ AbortCompletes st q r found advanced s t ∧
      TripTaken s t st ((s.seqr.get st).inFlight.filter fun e => decide (e.seq ≠ q)) ∧
      (t.seqr.get st).context = contextSettled (s.seqr.get st).context [q] (foundOutcome found) := by
  have event := State.abortReport_event (found := found) (advanced := advanced) record named
  rw [if_pos mismatch] at event
  have many : 2 ≤ (s.units.get st).hard.toNat + [((.driveMismatch, some q, none) : FaultKey)].length := by simp [hard]
  have out := State.completeAbort_goesOut (State.abortClosed_seqr (st := st) (found := found) (advanced := advanced) record) awaited
    (State.abortClosed_sameOrders record) (by simp) empty
  rw [← State.abortReport_named named] at out
  have abortable := out.abortable rfl stands
  have ⟨_, queue, unaborted, _⟩ := abortable
  obtain ⟨track, lanes, -⟩ := State.tripEffects_frame_unqueued queue unaborted
  exact ⟨_, event.trips_over mirrored untripped many,
    (State.abortReport_completes record named).still track lanes (State.tripEffects_elsewhere queue unaborted),
    event.tripTaken (.inl rfl) untripped many abortable, (State.tripEffects_keeps queue unaborted).2.1.trans out.rest.2.1⟩

/-- The unit trips with seqs left in the set: the trip joins the abort outstanding, and finds what it finds (R80, R84, R141). -/
theorem State.abortReport_trips_joined (mirrored : TripsMirrored s) (record : s.record q = some r) (named : q ∈ (s.seqr.get st).abortSet)
    (awaited : (s.seqr.get st).awaited = .abort) (mismatch : abortStatus (r.st.get st).decision found = .faulted)
    (hard : (s.units.get st).hard = true) (untripped : (s.units.get st).tripped = false)
    (remain : (s.seqr.get st).abortSet.filter (fun x => decide (x ≠ q)) ≠ []) :
    ∃ t, (s.abortReport st q found advanced).done = .next t ∧ AbortCompletes st q r found advanced s t ∧ UnitTripTaken s t st ∧
      t.seqr.get st = { (s.seqr.get st).settled q (foundOutcome found) with tripped := true, beforeTrip := (t.seqr.get st).beforeTrip } ∧
      (s.line = .run → (t.seqr.get st).beforeTrip = some
        { phased := (s.calcs.get st).phased, withdrawn := none,
          idleAt := if (s.seqr.get st).inFlight.filter (fun e => decide (e.seq ≠ q)) = [] then some s.web else none }) ∧
      t.links = s.links := by
  have event := State.abortReport_event (found := found) (advanced := advanced) record named
  rw [if_pos mismatch] at event
  have many : 2 ≤ (s.units.get st).hard.toNat + [((.driveMismatch, some q, none) : FaultKey)].length := by simp [hard]
  have completes := State.abortReport_completes (found := found) (advanced := advanced) record named
  obtain ⟨seqr, links, joins⟩ := State.abortReport_joined (found := found) (advanced := advanced) record named awaited remain
  have finds : (s.abortReport st q found advanced).tripFinds st = if s.line = .run then some
      { phased := (s.calcs.get st).phased, withdrawn := none,
        idleAt := if (s.seqr.get st).inFlight.filter (fun e => decide (e.seq ≠ q)) = [] then some s.web else none } else none := by
    have nothing : ((s.seqr.get st).settled q (foundOutcome found)).toWithdraw = none := if_pos (.inr awaited)
    unfold State.tripFinds
    dsimp only
    rw [seqr, nothing]
    simp [Sequencer.settled]
  have done := event.trips_over mirrored untripped many
  rw [joins, finds] at done
  refine ⟨_, done, completes.still rfl rfl ((State.updSeqr_elsewhere _ st _).trans (State.unphase_elsewhere _ st)),
    event.unitTripTaken (.inl rfl) untripped many rfl rfl ?_ ?_, ?_, fun run => ?_, links⟩
  · simp [State.unphase, State.updCalc, State.updSeqr]
  · simp [State.unphase, State.updCalc, State.updSeqr]
  · simp [State.unphase, State.updCalc, State.updSeqr, seqr]
  · simp [State.unphase, State.updCalc, State.updSeqr, run]

end

/-! ### The link after its loss (R52, R79) -/

/-- The frames left with the link: that of a queued order measured as PHASED, where the part sends it. -/
theorem State.framesAfterLoss_eq (s : State) (st : Idx) (b : Bool) : s.framesAfterLoss st b =
    (((s.seqr.get st).queue.filter fun q => !(s.seqr.get st).phasing q && !(s.seqr.get st).restruck q && b).bind s.record).toList.map
      fun r => .strikeOrder r.seq (r.st.get st).decision false ((r.st.get st).target.getD 0) ((r.st.get st).feed.getD (.all 0)) := by
  unfold State.framesAfterLoss Sequencer.queuedInPhase
  cases b
  · cases (s.seqr.get st).queue.filter (fun q => !(s.seqr.get st).phasing q && !(s.seqr.get st).restruck q) |>.bind s.record <;>
      cases (s.seqr.get st).queue <;> simp
  · simp only [Bool.and_true, if_true]
    cases ((s.seqr.get st).queue.filter fun q => !(s.seqr.get st).phasing q && !(s.seqr.get st).restruck q).bind s.record <;> rfl

/-- What the loss leaves of the sequencers, the links and the calculators (R79). -/
theorem State.loseStationLink_parts {s : State} {st : Idx} (carrier : (s.links.get st).carrier = true) (b : Bool) :
    (s.loseStationLink st b).seqr = s.seqr.set st { s.seqr.get st with
      inFlight := [], awaited := .none, queue := none, timer := none, abortSet := [], overdue := [],
      context := contextSettled (s.seqr.get st).context (s.seqr.get st).abortSet .unknown } ∧
    (s.loseStationLink st b).links =
      s.links.set st { carrier := false, sending := none, waiting := s.framesAfterLoss st b } ∧
    (s.loseStationLink st b).calcs = s.calcs.set st { s.calcs.get st with phased := false } := by
  obtain ⟨y, meaning, seqr, links, calcs⟩ := Aborts.link_lost s st b carrier
  rw [meaning]
  simp [seqr, links, calcs]

/-- An order that an abort names is MISSED, and any other one in flight FAULTED (R79). -/
theorem statusIn_missed_faulted (st : Idx) (sq : Sequencer) (x : TrackRecord) :
    (statusIn st sq.abortSet .missed ∘ statusIn st sq.unnamed .faulted) x =
      if x.seq ∈ sq.abortSet then x.updStation st fun f => { f with status := .missed }
      else if x.seq ∈ sq.unnamed then x.updStation st fun f => { f with status := .faulted } else x := by
  by_cases named : x.seq ∈ sq.abortSet
  · have apart : x.seq ∉ sq.unnamed := by simp [Sequencer.unnamed, named]
    simp [statusIn, named, apart]
  · by_cases faulted : x.seq ∈ sq.unnamed <;> simp [statusIn, named, faulted, TrackRecord.updStation]

/-- A trip with nothing in flight (R84). -/
theorem State.tripEffects_idle {s : State} {st : Idx} (idle : (s.seqr.get st).inFlight = []) :
    (s.tripEffects st).seqr.get st = { s.seqr.get st with tripped := true, beforeTrip := ((s.tripEffects st).seqr.get st).beforeTrip } ∧
      (s.tripEffects st).links = s.links := by
  have nothing : s.tripEffects st = (s.updSeqr st fun sq => { sq with tripped := true, beforeTrip := s.tripFinds st }).unphase st :=
    if_pos (.inl (by simp [State.unphase, State.updCalc, State.updSeqr, idle]))
  rw [nothing]
  simp [State.unphase, State.updCalc, State.updSeqr]

end Sys2Proof.Machine

open Sys2Proof Sys2Proof.Machine

/-- Settles O43: each way in which an abort or a link loss closes orders is a closing (`AbortCompletes`, `reportLeft`, `EndsHard`) and what
it does to the sequencer; the unit then stays, or trips. -/
theorem abortsAndLinkLossCloseOrders : Obligations.AbortsAndLinkLossCloseOrders := by
  unfold Obligations.AbortsAndLinkLossCloseOrders
  intro st s mirrored
  refine ⟨fun q found n outside => ?_, fun q found n r named awaited record => ⟨fun mismatch unsteady stands => ?_, fun steady => ?_⟩,
    fun fr r named awaited holds record unbroken clear => ?_,
    fun awaited => ⟨fun unsteady stands => ?_, fun steady => ?_⟩, fun carrier => ⟨fun unsteady => ?_, fun steady => ?_⟩⟩
  · have discarded : s.abortReport st q found (counts n) = s := if_neg (by simpa using outside)
    show (s.abortReport st q found (counts n)).done = _
    rw [discarded]
    exact State.done_of mirrored (fun _ => rfl) (fun _ => rfl)
  · have hard : (s.units.get st).hard = true := Bool.eq_true_of_not_eq_false fun h => unsteady (.inl h)
    have untripped : (s.units.get st).tripped = false := Bool.eq_false_of_not_eq_true fun h => unsteady (.inr h)
    have faulted := abortStatus_faulted_iff.2 mismatch
    by_cases empty : (s.seqr.get st).abortSet.filter (fun x => decide (x ≠ q)) = []
    · obtain ⟨t, done, completes, trip, context⟩ :=
        State.abortReport_trips (advanced := counts n) mirrored record named awaited faulted hard untripped stands empty
      refine ⟨t, done, ⟨completes.track, completes.elsewhere, completes.lanes⟩, trip.1, ?_, ?_⟩
      · rw [context, foundOutcome_eq]
      · rw [if_pos (by simpa using empty)]
        exact trip
    · obtain ⟨t, done, completes, trip, seqr, finds, links⟩ :=
        State.abortReport_trips_joined (advanced := counts n) mirrored record named awaited faulted hard untripped empty
      refine ⟨t, done, ⟨completes.track, completes.elsewhere, completes.lanes⟩, trip, ?_, ?_⟩
      · rw [seqr, ← foundOutcome_eq]
        rfl
      · rw [if_neg (by simpa using empty), ← foundOutcome_eq]
        exact ⟨seqr, finds, by rw [links]⟩
  · have event := State.abortReport_event (found := found) (advanced := counts n) record named
    have faulted := abortStatus_faulted_iff (d := (r.st.get st).decision) (found := found)
    have few : (s.units.get st).tripped = true ∨ (s.units.get st).hard.toNat +
        (if abortStatus (r.st.get st).decision found = .faulted then [((.driveMismatch, some q, none) : FaultKey)] else []).length < 2 := by
      obtain agree | clear | tripped := steady
      · rw [if_neg fun h => agree (faulted.1 h)]
        cases (s.units.get st).hard <;> simp
      · rw [clear]
        split <;> simp
      · exact .inl tripped
    obtain ⟨done, kept⟩ := event.steady mirrored few
    have completes := State.abortReport_completes (found := found) (advanced := counts n) record named
    have settled := State.completeAbort_settled (State.abortClosed_seqr (st := st) (found := found) (advanced := counts n) record) awaited
      (State.abortClosed_sameOrders record) (by simp)
    rw [← State.abortReport_named named, foundOutcome_eq] at settled
    refine ⟨_, done, ⟨completes.track, completes.elsewhere, completes.lanes⟩, settled, fun mismatch => ?_, fun agree => ?_, kept st, ?_⟩
    · rw [event.faults.hard, if_pos (faulted.2 mismatch)]
      simp
    · rw [event.faults.hard, if_neg fun h => agree (faulted.1 h)]
      simp
    · have lineUnit := event.faults.line
      apply State.ext_fields <;> simp [lineUnit]
  · have seq : r.seq = fr.seq := State.record_seq record
    have inTime : s.reportsInTime st fr.seq = true := (s.reportsInTime_iff st fr.seq).2 ⟨holds, .inr (.inl named)⟩
    have meaning : exec (.strikeReport st fr) s = (s.reportInTime st fr r).done :=
      congrArg State.done (State.strikeReport_inTime inTime record)
    rw [← seq] at named ⊢
    obtain ⟨hards, soft, few, event⟩ := State.reportInTime_event (fr := fr) (r := r) named unbroken
    obtain ⟨done, kept⟩ := event.steady mirrored (.inr (by rw [clear, Bool.toNat_false]; omega))
    have settled := State.completeAbort_settled (State.reportLeft_seqr (fr := fr) (r := r) awaited) awaited
      (s.reportLeft_sameOrders st fr r) (State.reportLeft_links awaited)
    have complete := State.reportInTime_named (fr := fr) named
    rw [reportedOutcome_eq] at settled
    refine ⟨(s.reportLeft st fr r).completeAbort st, by rw [meaning, done, complete], ?_,
      (s.reportLeft_elsewhere st fr r).trans (State.completeAbort_elsewhere _ st), settled, fun c => ?_, ?_⟩
    · rw [(State.completeAbort_frame _ st).2.2.1]
      have completed := s.reportLeft_track st fr r
      rw [Orders.report_status_eq] at completed
      exact completed
    · have foil := s.reportLeft_foil st fr r c
      have lanes : ((s.reportLeft st fr r).completeAbort st).lanes = (s.reportLeft st fr r).lanes := by simp
      rw [State.feedsOf_record (show s.record r.seq = some r by rw [seq]; exact record), lanes]
      exact ⟨congrArg Prod.fst foil, congrArg Prod.snd foil⟩
    · have lineUnit := event.faults.line
      rw [complete] at lineUnit
      simp only [State.completeAbort_frame] at lineUnit
      apply State.ext_fields <;> simp [lineUnit]
  · have hard : (s.units.get st).hard = true := Bool.eq_true_of_not_eq_false fun h => unsteady (.inl h)
    have untripped : (s.units.get st).tripped = false := Bool.eq_false_of_not_eq_true fun h => unsteady (.inr h)
    have out := State.abortTimeout_out awaited
    have abortable := out.abortable rfl stands
    have ⟨_, queue, unaborted, _⟩ := abortable
    obtain ⟨done, closed, trip⟩ := (State.abortTimeout_ends awaited).trips mirrored hard untripped abortable
    exact ⟨_, done, ⟨closed.track, fun c => (closed.lanes c).symm, closed.elsewhere⟩, trip,
      (State.tripEffects_keeps queue unaborted).2.1.trans out.rest.2.1⟩
  · have ends := State.abortTimeout_ends awaited
    obtain ⟨done, hard, tripped, -⟩ := ends.steady mirrored steady
    refine ⟨_, done, ⟨ends.closed.track, fun c => (ends.closed.lanes c).symm, ends.closed.elsewhere⟩, State.abortTimeout_out awaited, ?_,
      hard, tripped, ?_⟩
    · rw [State.abortTimeout_awaited awaited]
      simp [State.abortExpired, State.unphase, State.updCalc, Four.upd]
    · have lineUnit := ends.event.faults.line
      have stopReq := ends.stopReq steady
      rw [State.abortTimeout_awaited awaited] at lineUnit stopReq ⊢
      simp only [State.releaseQueue_frame] at lineUnit stopReq
      apply State.ext_fields <;> simp [lineUnit, stopReq]
  · have hard : (s.units.get st).hard = true := Bool.eq_true_of_not_eq_false fun h => unsteady (.inl h)
    have untripped : (s.units.get st).tripped = false := Bool.eq_false_of_not_eq_true fun h => unsteady (.inr h)
    obtain ⟨seqr, links, calcs⟩ := State.loseStationLink_parts carrier Config.linkLossSendsQueued
    have ends := State.loseStationLink_ends carrier Config.linkLossSendsQueued
    obtain ⟨done, closed, trip⟩ := ends.trips mirrored hard untripped (left := []) (by simp [seqr])
    obtain ⟨handed, link⟩ := State.tripEffects_idle (s := s.loseStationLink st Config.linkLossSendsQueued) (st := st) (by simp [seqr])
    refine ⟨_, done, ⟨?_, fun c => (closed.lanes c).symm, closed.elsewhere, ?_⟩, trip, ?_⟩
    · rw [closed.track]
      exact List.map_congr_left fun x _ => statusIn_missed_faulted st _ x
    · rw [link, links, Four.get_set_same, State.framesAfterLoss_eq]
    · rw [handed, seqr, Four.get_set_same]
  · obtain ⟨seqr, links, calcs⟩ := State.loseStationLink_parts carrier Config.linkLossSendsQueued
    have ends := State.loseStationLink_ends carrier Config.linkLossSendsQueued
    obtain ⟨done, hard, tripped, -⟩ := ends.steady mirrored steady
    refine ⟨_, done, ⟨?_, fun c => (ends.closed.lanes c).symm, ends.closed.elsewhere, ?_⟩, ?_, calcs, hard, tripped, ?_⟩
    · rw [ends.closed.track]
      exact List.map_congr_left fun x _ => statusIn_missed_faulted st _ x
    · rw [links, Four.get_set_same, State.framesAfterLoss_eq]
    · rw [seqr, Four.get_set_same]
    · have lineUnit := ends.event.faults.line
      have stopReq := ends.stopReq steady
      rw [State.loseStationLink_up carrier] at lineUnit stopReq ⊢
      apply State.ext_fields <;> simp [lineUnit, stopReq]

end

section
/-! SUPPORT. What a reset of a station does (O35, O36; R85, R94, R101): its orders end MISSED, its first-offs return to OPEN, its lanes keep
all but their reserved foil. -/

namespace Sys2Proof.Machine

/-! ### The lanes but for their reserved foil (R101) -/

/-- Every lane stands but for its reserved foil. -/
def StockKept (s t : State) : Prop := ∀ v c, { t.lane v c with reserved := 0 } = { s.lane v c with reserved := 0 }

theorem StockKept.of_lanes {s t : State} (lanes : t.lanes = s.lanes) : StockKept s t := fun v c => by rw [State.lane_of_lanes lanes]

theorem StockKept.trans {s t u : State} (a : StockKept s t) (b : StockKept t u) : StockKept s u := fun v c => (b v c).trans (a v c)

theorem StockKept.foldl {α : Type} (g : State → α → State) (h : ∀ s a, StockKept s (g s a)) (l : List α) (s : State) :
    StockKept s (l.foldl g s) := by
  induction l generalizing s with
  | nil => exact .of_lanes rfl
  | cons a l ih => exact (h s a).trans (ih _)

theorem State.release_stockKept (s : State) (st : Idx) (n : Four Nat) : StockKept s (s.release st n) := fun v c => by
  by_cases station : v = st
  · subst station
    simp [State.release, State.updLanes, State.lane]
  · simp [State.release, State.updLanes, State.lane, station]

theorem State.settleUnreported_stockKept (s : State) (st : Idx) (j : Slot) (q : SeqNo) (n : Four Nat) :
    StockKept s (s.settleUnreported st j q n) := (s.release_stockKept st n).trans (.of_lanes (by simp [State.settleUnreported]))

theorem State.closeAtReset_stockKept (s : State) (st : Idx) (q : SeqNo) : StockKept s (s.closeAtReset st q) := by
  unfold State.closeAtReset
  split
  · exact StockKept.trans (.of_lanes rfl) (State.settleUnreported_stockKept _ st _ _ _)
  · exact .of_lanes rfl

theorem State.missInFlight_stockKept (s : State) (st : Idx) : StockKept s (s.missInFlight st) :=
  StockKept.foldl (fun s (e : InFlight) => (s.closeAtReset st e.seq).settleContext st e.seq .unknown)
    (fun s e => (s.closeAtReset_stockKept st e.seq).trans (u := (s.closeAtReset st e.seq).settleContext st e.seq .unknown) (.of_lanes rfl))
    _ s

/-! ### Closing at a reset (R85) -/

section
variable (s : State) (st : Idx)

theorem State.settleUnreported_elsewhere (j : Slot) (q : SeqNo) (n : Four Nat) : SameElsewhere s (s.settleUnreported st j q n) st :=
  (s.release_elsewhere st n).trans (.of_same (t := s.settleUnreported st j q n) st (by simp) (by simp)
    (by simp [State.settleUnreported]) (by simp) (by simp))

theorem State.closeAtReset_closedAt (q : SeqNo) :
    ClosedAt st (statusAt st q .missed) (fun c => s.feedsOf st c [q]) s (s.closeAtReset st q) := by
  have left : ∀ t : State, SameElsewhere t (t.leaveInFlight st q) st := fun t => t.updSeqr_elsewhere st _
  unfold State.closeAtReset
  cases record : s.record q with
  | none =>
    refine ⟨(map_statusAt_of_absent record st .missed).symm, fun c => ?_, left s⟩
    rw [State.feedsOf_one, record]
    rfl
  | some r =>
    refine ⟨?_, fun c => ?_, ?_⟩
    · simp only [State.settleUnreported_frame]
      rfl
    · have lanes : ∀ t : State, (t.settleUnreported st r.slot q (r.st.get st).feeds).lanes = (t.release st (r.st.get st).feeds).lanes :=
        fun t => by simp [State.settleUnreported]
      rw [State.lane_of_lanes (lanes _), State.release_foil, if_pos rfl, State.feedsOf_record record]
      rfl
    · exact SameElsewhere.trans (.of_same st rfl rfl rfl rfl rfl) ((left _).trans (State.settleUnreported_elsewhere _ st _ _ _))

theorem State.missInFlight_closedAt : ClosedAt st (statusIn st ((s.seqr.get st).inFlight.map (·.seq)) .missed)
    (fun c => s.feedsOf st c ((s.seqr.get st).inFlight.map (·.seq))) s (s.missInFlight st) :=
  ClosedAt.foldl (st := st) (x := .missed) (·.seq) (fun s (e : InFlight) => (s.closeAtReset st e.seq).settleContext st e.seq .unknown)
    (fun s e => (s.closeAtReset_closedAt st e.seq).still (u := (s.closeAtReset st e.seq).settleContext st e.seq .unknown) rfl rfl (State.settleContext_elsewhere _ st e.seq _)) (s.seqr.get st).inFlight s

end

/-! ### The first-offs that return to OPEN (R94) -/

/-- Between the two states the descriptors of the station whose first-off awaits approval of one of the orders ended return to OPEN, and no
other descriptor changes. -/
def GivesUp (st : Idx) (ended : Slot → SeqNo → Prop) (s t : State) : Prop :=
  ∀ j v c d, s.descriptor j v c = some d →
    (v = st ∧ (∃ q, d.stage = .awaiting q ∧ ended j q) → t.descriptor j v c = some { d with stage := .vacant }) ∧
    (¬ (v = st ∧ ∃ q, d.stage = .awaiting q ∧ ended j q) → t.descriptor j v c = some d)

namespace GivesUp

variable {st : Idx} {s t u : State} {a b : Slot → SeqNo → Prop}

theorem of_slots (slots : t.slots = s.slots) (none : ∀ j q, ¬ a j q) : GivesUp st a s t := fun j v c d present =>
  ⟨fun ⟨_, q, _, h⟩ => absurd h (none j q), fun _ => by rw [State.descriptor_of_slots slots]; exact present⟩

theorem trans (x : GivesUp st a s t) (y : GivesUp st b t u) : GivesUp st (fun j q => a j q ∨ b j q) s u := by
  intro j v c d present
  obtain ⟨vacant, kept⟩ := x j v c d present
  by_cases first : v = st ∧ ∃ q, d.stage = .awaiting q ∧ a j q
  · have open' := (y j v c _ (vacant first)).2 (by simp)
    obtain ⟨station, q, awaits, ended⟩ := first
    exact ⟨fun _ => open', fun neither => absurd ⟨station, q, awaits, .inl ended⟩ neither⟩
  · obtain ⟨vacant', kept'⟩ := y j v c d (kept first)
    refine ⟨fun ⟨station, q, awaits, ended⟩ => vacant' ⟨station, q, awaits, ?_⟩,
      fun neither => kept' fun ⟨station, q, awaits, ended⟩ => neither ⟨station, q, awaits, .inr ended⟩⟩
    exact ended.resolve_left fun h => first ⟨station, q, awaits, h⟩

theorem congr (x : GivesUp st a s t) (same : ∀ j q, a j q ↔ b j q) : GivesUp st b s t := by
  have both : a = b := funext fun j => funext fun q => propext (same j q)
  exact both ▸ x

theorem after (x : GivesUp st a t u) (slots : t.slots = s.slots) : GivesUp st a s u := fun j v c d present =>
  x j v c d ((State.descriptor_of_slots slots j v c).trans present)

theorem still (x : GivesUp st a s t) (slots : u.slots = t.slots) : GivesUp st a s u := fun j v c d present => by
  rw [State.descriptor_of_slots slots]
  exact x j v c d present

end GivesUp

theorem State.giveUpFirstOff_givesUp (s : State) (j : Slot) (st : Idx) (q : SeqNo) :
    GivesUp st (fun i p => i = j ∧ p = q) s (s.giveUpFirstOff j st q) := by
  intro i v c d present
  rw [State.descriptor_eq] at present ⊢
  rw [State.giveUpFirstOff_entry]
  by_cases here : v = st ∧ i = j
  · rw [if_pos here]
    obtain ⟨rfl, rfl⟩ := here
    obtain ⟨ls, stored, rfl⟩ := Option.map_eq_some_iff.1 present
    obtain ⟨e, entry, lanes⟩ := Option.bind_eq_some_iff.1 stored
    have gave : (((s.entry i v).map (·.giveUp q)).bind (·.lanes)).map (·.get c) = some ((ls.get c).giveUp q) := by
      simp [entry, StationEntry.giveUp, lanes]
    rw [gave]
    unfold Descriptor.giveUp Descriptor.awaits
    by_cases awaits : (ls.get c).stage = .awaiting q <;> simp [awaits]
  · rw [if_neg here]
    exact ⟨fun ⟨station, p, _, slot, _⟩ => absurd ⟨station, slot⟩ here, fun _ => present⟩

/-- The orders of the records of some seqs, by slot. -/
def State.endedIn (s : State) (l : List SeqNo) (j : Slot) (q : SeqNo) : Prop := q ∈ l ∧ (s.record q).map (·.slot) = some j

theorem State.closeAtReset_givesUp (s : State) (st : Idx) (q : SeqNo) : GivesUp st (s.endedIn [q]) s (s.closeAtReset st q) := by
  unfold State.closeAtReset
  cases record : s.record q with
  | none =>
    refine .of_slots rfl fun j p ⟨member, slot⟩ => ?_
    rw [List.mem_singleton.1 member, record] at slot
    cases slot
  | some r =>
    have given := State.giveUpFirstOff_givesUp ((((s.updField q st fun f => { f with status := .missed }).leaveInFlight st q).release st
      (r.st.get st).feeds)) r.slot st q
    refine (given.after (s := s) (by simp)).congr fun j p => ?_
    unfold State.endedIn
    rw [List.mem_singleton]
    constructor
    · rintro ⟨rfl, rfl⟩
      exact ⟨rfl, by rw [record]; rfl⟩
    · rintro ⟨rfl, slot⟩
      rw [record] at slot
      exact ⟨(Option.some.inj slot).symm, rfl⟩

theorem statusAt_slots {st : Idx} {q : SeqNo} {x : Status} {m : Idx → Nat} {s t : State} (a : ClosedAt st (statusAt st q x) m s t)
    (p : SeqNo) : (t.record p).map (·.slot) = (s.record p).map (·.slot) := by
  have seq : ∀ r, (statusAt st q x r).seq = r.seq := fun r => congrArg (·.1) (statusAt_orderAt st q x r)
  have slot : (·.slot) ∘ statusAt st q x = (·.slot) := funext fun r => by unfold statusAt; dsimp only [Function.comp]; split <;> rfl
  rw [State.record, a.track, findRecord_map_of_seq seq, Option.map_map, slot]
  rfl

theorem State.missInFlight_givesUp (s : State) (st : Idx) :
    GivesUp st (s.endedIn ((s.seqr.get st).inFlight.map (·.seq))) s (s.missInFlight st) := by
  have each : ∀ (l : List InFlight) (s : State), GivesUp st (s.endedIn (l.map (·.seq))) s
      (l.foldl (fun s e => (s.closeAtReset st e.seq).settleContext st e.seq .unknown) s) := by
    intro l
    induction l with
    | nil => exact fun s => .of_slots rfl fun j q h => by simp [State.endedIn] at h
    | cons e es ih =>
      intro s
      let t := (s.closeAtReset st e.seq).settleContext st e.seq .unknown
      have first : GivesUp st (s.endedIn [e.seq]) s t := (s.closeAtReset_givesUp st e.seq).still rfl
      have slots : ∀ p, (t.record p).map (·.slot) = (s.record p).map (·.slot) :=
        fun p => (statusAt_slots (s.closeAtReset_closedAt st e.seq) p :)
      refine (first.trans (ih t)).congr fun j q => ?_
      simp only [State.endedIn, slots, List.map_cons, List.mem_cons, List.not_mem_nil, or_false]
      tauto
  exact each _ s

theorem State.emptyOverdue_givesUp (s : State) (st : Idx) :
    GivesUp st (fun j q => ∃ x ∈ (s.seqr.get st).overdue, x.seq = q ∧ x.slot = j) s (s.emptyOverdue st) := by
  have each : ∀ (l : List OverdueEntry) (s : State), GivesUp st (fun j q => ∃ x ∈ l, x.seq = q ∧ x.slot = j) s
      (l.foldl (fun s x => s.giveUpFirstOff x.slot st x.seq) s) := by
    intro l
    induction l with
    | nil => exact fun s => .of_slots rfl fun j q h => by simp at h
    | cons x xs ih =>
      intro s
      refine ((s.giveUpFirstOff_givesUp x.slot st x.seq).trans (ih _)).congr fun j q => ?_
      simp only [List.mem_cons, exists_eq_or_imp, eq_comm (a := j), eq_comm (a := q)]
      tauto
  exact (each _ s).still rfl

/-! ### The sequencer that is reset (R85) -/

/-- A sequencer but for its in-flight list and the entries of its hold context. -/
def Sequencer.outline (sq : Sequencer) : Sequencer :=
  { sq with inFlight := [], context := sq.context.map fun c => { c with entries := [] } }

theorem contextSettled_outline (c : Option HoldContext) (l : List SeqNo) (o : AbortOutcome) :
    (contextSettled c l o).map (fun c => ({ c with entries := [] } : HoldContext)) = c.map fun c => { c with entries := [] } := by
  cases c <;> rfl

theorem State.closeAtReset_seqr (s : State) (st : Idx) (q : SeqNo) : (s.closeAtReset st q).seqr = s.seqr.upd st fun sq =>
    { sq with inFlight := sq.inFlight.filter fun e => decide (e.seq ≠ q) } := by
  unfold State.closeAtReset
  split
  · simp only [State.settleUnreported_frame]
    rfl
  · rfl

theorem State.missInFlight_outline (s : State) (st : Idx) :
    ((s.missInFlight st).seqr.get st).outline = (s.seqr.get st).outline := by
  have each : ∀ (l : List InFlight) (s : State), ((l.foldl (fun s e => (s.closeAtReset st e.seq).settleContext st e.seq .unknown)
      s).seqr.get st).outline = (s.seqr.get st).outline := by
    intro l
    induction l with
    | nil => exact fun _ => rfl
    | cons e es ih =>
      intro s
      refine (ih _).trans ?_
      simp [Aborts.settleContext_seqr, State.closeAtReset_seqr, Sequencer.outline, contextSettled_outline]
  exact each _ s

/-! ### One station reset -/

section
variable (s : State) (st : Idx)

@[simp] theorem State.resetStation_faultless :
    (s.resetStation st).units = s.units ∧ (s.resetStation st).lineUnit = s.lineUnit ∧ (s.resetStation st).stopReq = s.stopReq ∧
    (s.resetStation st).ports = s.ports := by
  simp [State.resetStation, State.unreserve, State.unphase, State.updCalc]

theorem State.resetStation_seqr : (s.resetStation st).seqr.get st =
    { Sequencer.reset with context := ((s.missInFlight st).seqr.get st).context } := by
  simp [State.resetStation, State.unreserve, State.unphase, State.updCalc, State.updSeqr, Sequencer.cleared, Aborts.empty_overdue_seqr]

theorem State.resetStation_calcs : (s.resetStation st).calcs = s.calcs.upd st fun c => { c with phased := false } := by
  simp [State.resetStation, State.unreserve, State.unphase, State.updCalc]

theorem State.resetStation_elsewhere : SameElsewhere s (s.resetStation st) st := by
  have missed := (s.missInFlight_closedAt st).elsewhere
  intro v hv
  obtain ⟨seqr, calcs, lanes, units, links⟩ := missed v hv
  simp [State.resetStation, State.unreserve, State.unphase, State.updCalc, State.updSeqr, State.updLink, State.updLanes,
    Aborts.empty_overdue_seqr, hv, seqr, lanes]

theorem State.resetStation_track : (s.resetStation st).track =
    s.track.map (statusIn st ((s.seqr.get st).inFlight.map (·.seq)) .missed) := by
  rw [← (s.missInFlight_closedAt st).track]
  simp [State.resetStation, State.unreserve, State.unphase, State.updCalc]

/-- The lanes keep their state and what remains, with nothing reserved (R101). -/
theorem State.resetStation_lane (v c : Idx) :
    (s.resetStation st).lane v c = if v = st then { s.lane st c with reserved := 0 } else s.lane v c := by
  by_cases station : v = st
  · subst station
    rw [if_pos rfl, ← s.missInFlight_stockKept v v c]
    simp [State.resetStation, State.unreserve, State.unphase, State.updCalc, State.updLanes, State.lane]
  · rw [if_neg station, State.lane, (s.resetStation_elsewhere st v station).2.2.1]
    rfl

theorem State.resetStation_stockKept : StockKept s (s.resetStation st) := fun v c => by
  rw [State.resetStation_lane]
  split
  next same => rw [same]
  · rfl

theorem State.resetStation_givesUp : GivesUp st (fun j q => s.endedIn ((s.seqr.get st).inFlight.map (·.seq)) j q ∨
    ∃ x ∈ (s.seqr.get st).overdue, x.seq = q ∧ x.slot = j) s (s.resetStation st) := by
  have outlines := congrArg Sequencer.overdue (s.missInFlight_outline st)
  have overdue : ((s.missInFlight st).seqr.get st).overdue = (s.seqr.get st).overdue := outlines
  have emptied := (s.missInFlight st).emptyOverdue_givesUp st
  rw [overdue] at emptied
  exact ((s.missInFlight_givesUp st).trans emptied).still (by simp [State.resetStation, State.unreserve, State.unphase, State.updCalc])

end

end Sys2Proof.Machine

end

section
/-! CLAIM. STATION RESET (O36; R85, R94, R101, R150). -/

namespace Sys2Proof.Machine

section
variable (s : State) (st : Idx)

/-- The state of an accepted STATION RESET is that of one station reset, but for the unit and the context's entries. -/
theorem State.resetOne_eq : s.resetOne st =
    (({ s with units := s.units.set st (s.units.get st).stationReset } : State).resetStation st).updContext st fun c =>
      { c with entries := [] } := rfl

theorem State.resetOne_seqr : (s.resetOne st).seqr.get st =
    { Sequencer.reset with context := (s.seqr.get st).context.map fun c => { c with entries := [] } } := by
  have outline := congrArg Sequencer.context
    (({ s with units := s.units.set st (s.units.get st).stationReset } : State).missInFlight_outline st)
  rw [State.resetOne_eq]
  simp only [State.updContext, State.updSeqr, Four.get_upd, if_true, State.resetStation_seqr]
  exact congrArg (fun c => ({ Sequencer.reset with context := c } : Sequencer)) outline

theorem State.resetOne_elsewhere (v : Idx) (hv : v ≠ st) : (s.resetOne st).seqr.get v = s.seqr.get v ∧
    (s.resetOne st).calcs.get v = s.calcs.get v ∧ (s.resetOne st).lanes.get v = s.lanes.get v ∧
    (s.resetOne st).links.get v = s.links.get v := by
  obtain ⟨seqr, calcs, lanes, -, links⟩ :=
    ({ s with units := s.units.set st (s.units.get st).stationReset } : State).resetStation_elsewhere st v hv
  rw [State.resetOne_eq]
  refine ⟨?_, calcs, lanes, links⟩
  simp only [State.updContext, State.updSeqr, Four.get_upd, if_neg hv]
  exact seqr

theorem State.resetOne_calcs : (s.resetOne st).calcs.get st = { s.calcs.get st with phased := false } := by
  have calcs := ({ s with units := s.units.set st (s.units.get st).stationReset } : State).resetStation_calcs st
  have same : (s.resetOne st).calcs = s.calcs.upd st fun c => { c with phased := false } := calcs
  rw [same]
  simp

theorem State.resetOne_units : (s.resetOne st).units = s.units.set st
    { s.units.get st with soft := false, hard := false, tripped := false, first := none } := by
  simp [State.resetOne_eq, State.updContext, State.updSeqr, FaultUnit.stationReset]

@[simp] theorem State.resetOne_quiet :
    (s.resetOne st).lineUnit = s.lineUnit ∧ (s.resetOne st).stopReq = s.stopReq ∧ (s.resetOne st).ports = s.ports := by
  simp [State.resetOne_eq, State.updContext, State.updSeqr]

theorem State.resetOne_track : (s.resetOne st).track = s.track.map fun x =>
    if (s.seqr.get st).holds x.seq then x.updStation st fun f => { f with status := .missed } else x := by
  have track := ({ s with units := s.units.set st (s.units.get st).stationReset } : State).resetStation_track st
  refine track.trans (List.map_congr_left fun x _ => ?_)
  have held : x.seq ∈ (s.seqr.get st).inFlight.map (·.seq) ↔ (s.seqr.get st).holds x.seq = true := by
    simp [Sequencer.holds]
  unfold statusIn
  by_cases member : x.seq ∈ (s.seqr.get st).inFlight.map (·.seq)
  · rw [if_pos member, if_pos (held.1 member)]
  · rw [if_neg member, if_neg fun h => member (held.2 h)]

theorem State.resetOne_lane (c : Idx) : ((s.resetOne st).lanes.get st).get c = { (s.lanes.get st).get c with reserved := 0 } := by
  have lane := ({ s with units := s.units.set st (s.units.get st).stationReset } : State).resetStation_lane st st c
  rw [if_pos rfl] at lane
  exact lane

/-- The first-offs that await approval of an order in flight or overdue return to OPEN (R94). -/
theorem State.resetOne_givesUp : GivesUp st (fun j q => (∃ r, s.record q = some r ∧ (s.seqr.get st).holds q = true ∧ r.slot = j) ∨
    ∃ x ∈ (s.seqr.get st).overdue, x.seq = q ∧ x.slot = j) s (s.resetOne st) := by
  have reset := ({ s with units := s.units.set st (s.units.get st).stationReset } : State).resetStation_givesUp st
  have given : GivesUp st _ s (s.resetOne st) := (reset.after (s := s) rfl).still rfl
  refine given.congr fun j q => or_congr ?_ Iff.rfl
  show (q ∈ (s.seqr.get st).inFlight.map (·.seq) ∧ (s.record q).map (·.slot) = some j) ↔ _
  have held : q ∈ (s.seqr.get st).inFlight.map (·.seq) ↔ (s.seqr.get st).holds q = true := by simp [Sequencer.holds]
  rw [held, Option.map_eq_some_iff]
  constructor
  · rintro ⟨holds, r, record, slot⟩
    exact ⟨r, record, holds, slot⟩
  · rintro ⟨r, record, holds, slot⟩
    exact ⟨holds, r, record, slot⟩

theorem State.resetOne_mirrored (mirrored : TripsMirrored s) : TripsMirrored (s.resetOne st) := fun v => by
  rw [State.resetOne_units]
  by_cases station : v = st
  · subst station
    simp [State.resetOne_seqr, Sequencer.reset]
  · rw [(s.resetOne_elsewhere st v station).1, mirrored v]
    simp [station]

end

/-- A line request of the Line Port that is taken, answered with what it makes of the state with the port free. -/
theorem State.serve_line {s : State} {hdr : ReqHdr} {make : ReqHdr → Instr} {code : Byte} {take : State → State × Answer}
    (taken : s.takes hdr make) (port : hdr.port = .line) {u : State} {a : Answer}
    (result : take (s.updPort hdr.port PortState.free) = (u, a)) :
    s.serve hdr make code (lineRequest hdr take) = u.reply hdr.port hdr.tag code a := by
  rw [State.serve_taken taken, State.answer_eq, lineRequest, if_pos port, result]

theorem State.done_of_mirrored {t : State} (mirrored : TripsMirrored t) : t.done = .next t :=
  State.done_of mirrored (fun _ => rfl) fun _ => rfl

end Sys2Proof.Machine

open Sys2Proof Sys2Proof.Machine

/-- Settles O36: the accepted STATION RESET is `resetOne`, which reaches the station alone, and hands no trip over. -/
theorem stationResetClearsOneStation : Obligations.StationResetClearsOneStation := by
  unfold Obligations.StationResetClearsOneStation
  intro hdr sb st s taken port mirrored halted station
  let free := s.updPort hdr.port PortState.free
  let t := (free.resetOne st).reply hdr.port hdr.tag 6 ⟨.ok, .level s.line s.estop⟩
  have accepted : State.takeStationReset sb free = (free.resetOne st, ⟨.ok, .level s.line s.estop⟩) := by
    unfold State.takeStationReset
    rw [show free.line = s.line from rfl, if_neg halted, station]
    simp [State.accept, State.levelAnswer, free]
  have served : s.serve hdr (.stationReset · sb) 6 (lineRequest hdr (State.takeStationReset sb)) = t :=
    State.serve_line taken port accepted
  have meaning : exec (.stationReset hdr sb) s = (s.serve hdr (.stationReset · sb) 6 (lineRequest hdr (State.takeStationReset sb))).done := rfl
  have done : t.done = .next t := State.done_of_mirrored (free.resetOne_mirrored st mirrored)
  refine ⟨t, by rw [meaning, served, done], free.resetOne_units st, free.resetOne_seqr st, free.resetOne_calcs st, free.resetOne_track st,
    free.resetOne_lane st, free.resetOne_givesUp st, free.resetOne_elsewhere st, fun p => ?_, ?_, ?_⟩
  · simp only [t, State.reply]
    by_cases same : p = hdr.port <;> simp [free, State.updPort, PortState.free, same, Three.get_upd]
  · simp [t, State.reply, free, State.updPort, port, PortState.free]
  · apply State.ext_fields <;> simp [t, free]

end

section
/-! CLAIM. LINE RESET (O35; R32, R85, R101, R149). -/

namespace Sys2Proof.Machine

/-! ### Emptying the track leaves the lanes' stock (R32, R101) -/

theorem State.leaveHead_stockKept (s : State) (final : Status) : StockKept s (s.leaveHead final) := by
  cases track : s.track with
  | nil => rw [State.leaveHead_nil track]; exact .of_lanes rfl
  | cons r rs =>
    intro v c
    by_cases sent : (r.st.get v).sent
    · rw [(State.leaveHead_sent track final sent).1 c]
    · have lanes := (State.ordersAt_eq_iff.1 (State.leaveHead_unsent track final sent)).2.1
      simp only [State.lane, lanes]

theorem emptyLoop_stockKept (n : Nat) (s : State) : StockKept s (emptyLoop n s) := by
  induction n generalizing s with
  | zero => exact .of_lanes rfl
  | succ n ih => exact (s.leaveHead_stockKept .missed).trans (ih _)

/-! ### The four stations reset one after the other -/

/-- A station that has been reset: no order is left, nothing is reserved, it is UNPHASED. -/
structure IsReset (s : State) (st : Idx) : Prop where
  seqr : s.seqr.get st = { Sequencer.reset with context := (s.seqr.get st).context }
  unphased : (s.calcs.get st).phased = false
  unreserved : ∀ c, (s.lane st c).reserved = 0

theorem State.resetStation_isReset (s : State) (st : Idx) : IsReset (s.resetStation st) st where
  seqr := by rw [State.resetStation_seqr]
  unphased := by rw [State.resetStation_calcs]; simp
  unreserved c := by rw [State.resetStation_lane, if_pos rfl]

theorem IsReset.elsewhere {s t : State} {st v : Idx} (reset : IsReset s v) (other : v ≠ st) (same : SameElsewhere s t st) :
    IsReset t v := by
  obtain ⟨seqr, calcs, lanes, -, -⟩ := same v other
  refine ⟨?_, ?_, fun c => ?_⟩
  · rw [seqr]
    exact reset.seqr
  · rw [calcs]
    exact reset.unphased
  · rw [State.lane, lanes]
    exact reset.unreserved c

theorem Lane.of_unreserved {l : Lane} (h : l.reserved = 0) : { l with reserved := 0 } = l := by
  cases l
  cases h
  rfl

theorem Calc.of_unphased {c : Calc} (h : c.phased = false) : { c with phased := false } = c := by
  cases c
  cases h
  rfl

/-- The stations are reset in turn. -/
def State.stationsReset (s : State) (l : List Idx) : State := l.foldl (fun s st => s.resetStation st) s

theorem State.stationsReset_isReset (l : List Idx) (s : State) (v : Idx) (h : v ∈ l ∨ IsReset s v) : IsReset (s.stationsReset l) v := by
  induction l generalizing s with
  | nil => exact h.resolve_left (by simp)
  | cons x xs ih =>
    refine ih (s.resetStation x) ?_
    by_cases here : v = x
    · exact .inr (here ▸ s.resetStation_isReset x)
    · refine h.imp (fun member => (List.mem_cons.1 member).resolve_left here) fun reset => ?_
      exact reset.elsewhere here (s.resetStation_elsewhere x)

/-- What the resets leave of the state as a whole. -/
theorem State.stationsReset_frame (l : List Idx) (s : State) :
    let t := s.stationsReset l
    t.web = s.web ∧ t.reader = s.reader ∧ t.nextSeq = s.nextSeq ∧ t.outcomes = s.outcomes ∧ t.heat = s.heat ∧ t.splices = s.splices ∧
    t.settings = s.settings ∧ t.line = s.line ∧ t.estop = s.estop ∧ t.ports = s.ports ∧ t.pending = s.pending ∧
    (s.track = [] → t.track = []) := by
  induction l generalizing s with
  | nil => exact ⟨rfl, rfl, rfl, rfl, rfl, rfl, rfl, rfl, rfl, rfl, rfl, id⟩
  | cons x xs ih =>
    have rest := ih (s.resetStation x)
    have empty : s.track = [] → (s.resetStation x).track = [] := fun none => by rw [State.resetStation_track, none]; rfl
    simp only [State.resetStation_frame, State.resetStation_faultless] at rest
    obtain ⟨h1, h2, h3, h4, h5, h6, h7, h8, h9, h10, h11, track⟩ := rest
    exact ⟨h1, h2, h3, h4, h5, h6, h7, h8, h9, h10, h11, track ∘ empty⟩

theorem State.stationsReset_stockKept (l : List Idx) (s : State) : StockKept s (s.stationsReset l) :=
  StockKept.foldl _ (fun s st => s.resetStation_stockKept st) l s

/-- Of the calculators only the phase changes. -/
theorem State.stationsReset_calcs (l : List Idx) (s : State) (v : Idx) :
    { (s.stationsReset l).calcs.get v with phased := false } = { s.calcs.get v with phased := false } := by
  induction l generalizing s with
  | nil => rfl
  | cons x xs ih =>
    refine (ih (s.resetStation x)).trans ?_
    rw [State.resetStation_calcs, Four.get_upd]
    split
    next same => rw [same]
    · rfl

/-! ### The accepted LINE RESET -/

/-- The track emptied, with the reader and the Splice List. -/
def State.trackCleared (s : State) : State := { s.emptyTrack with reader := .reset, splices := [] }

theorem State.lineCleared_eq (s : State) : s.lineCleared = (s.trackCleared.stationsReset Idx.all).dropContexts := rfl

theorem State.trackCleared_track (s : State) : s.trackCleared.track = [] := (emptyLoop_outcomes _ s rfl).1

theorem State.lineCleared_seqr (s : State) (st : Idx) : s.lineCleared.seqr.get st = Sequencer.reset := by
  have reset := (State.stationsReset_isReset Idx.all s.trackCleared st (.inl (idx_mem_all st))).seqr
  rw [State.lineCleared_eq]
  simp only [State.dropContexts, Four.get_tab]
  rw [reset]
  rfl

theorem State.lineCleared_calcs (s : State) (st : Idx) : s.lineCleared.calcs.get st = { s.calcs.get st with phased := false } := by
  have unphased := (State.stationsReset_isReset Idx.all s.trackCleared st (.inl (idx_mem_all st))).unphased
  have kept := State.stationsReset_calcs Idx.all s.trackCleared st
  have before : s.trackCleared.calcs = s.calcs := (s.emptyTrack_frame).2.2.2.1
  rw [before] at kept
  rw [State.lineCleared_eq, (State.dropContexts_frame _).2.2.2.2.2.1, ← kept, Calc.of_unphased unphased]

theorem State.lineCleared_lane (s : State) (st c : Idx) : s.lineCleared.lane st c = { s.lane st c with reserved := 0 } := by
  have unreserved := (State.stationsReset_isReset Idx.all s.trackCleared st (.inl (idx_mem_all st))).unreserved c
  have emptied : StockKept s s.trackCleared := (emptyLoop_stockKept s.track.length s).trans (.of_lanes rfl)
  have kept := emptied.trans (State.stationsReset_stockKept Idx.all s.trackCleared) st c
  have lanes : s.lineCleared.lane st c = (s.trackCleared.stationsReset Idx.all).lane st c :=
    State.lane_of_lanes (by rw [State.lineCleared_eq, (State.dropContexts_frame _).2.2.2.2.2.2.1]) st c
  rw [lanes, ← kept, Lane.of_unreserved unreserved]

theorem State.lineCleared_frame (s : State) :
    s.lineCleared.web = s.web ∧ s.lineCleared.nextSeq = s.nextSeq ∧ s.lineCleared.heat = s.heat ∧
    s.lineCleared.settings = s.settings ∧ s.lineCleared.line = s.line ∧ s.lineCleared.estop = s.estop ∧
    s.lineCleared.pending = s.pending ∧ s.lineCleared.reader = .reset ∧ s.lineCleared.splices = [] ∧ s.lineCleared.track = [] := by
  obtain ⟨web, reader, nextSeq, -, heat, splices, settings, line, estop, -, pending, track⟩ :=
    State.stationsReset_frame Idx.all s.trackCleared
  rw [State.lineCleared_eq]
  simp only [State.dropContexts_frame, web, reader, nextSeq, heat, splices, settings, line, estop, pending, track s.trackCleared_track]
  simp [State.trackCleared]

theorem State.lineCleared_outcomes (s : State) :
    s.lineCleared.outcomes = s.track.foldl (fun o r => o.append (s.outcomeOf (r.finalize .missed))) s.outcomes := by
  have reset := (State.stationsReset_frame Idx.all s.trackCleared).2.2.2.1
  rw [State.lineCleared_eq, (State.dropContexts_frame _).2.2.2.2.1, reset]
  exact (emptyLoop_outcomes _ s rfl).2

theorem State.lineCleared_tx (s : State) (p : Port) : (s.lineCleared.ports.get p).tx = (s.ports.get p).tx := by
  have reset := (State.stationsReset_frame Idx.all s.trackCleared).2.2.2.2.2.2.2.2.2.1
  rw [State.lineCleared_eq, (State.dropContexts_frame _).2.2.2.2.2.2.2.2.2.2.2.2.2.2.2.2.2.1, reset]
  exact emptyLoop_tx _ s p

/-- An accepted LINE RESET, item by item. -/
theorem State.resetLine_parts (s : State) :
    s.resetLine.track = [] ∧ s.resetLine.splices = [] ∧ s.resetLine.reader = .reset ∧
    s.resetLine.outcomes = s.track.foldl (fun o r => o.append (s.outcomeOf (r.finalize .missed))) s.outcomes ∧
    (∀ st, s.resetLine.seqr.get st = Sequencer.reset) ∧ (∀ st, s.resetLine.calcs.get st = { s.calcs.get st with phased := false }) ∧
    (∀ st c, (s.resetLine.lanes.get st).get c = { (s.lanes.get st).get c with reserved := 0 }) ∧
    (∀ p, (s.resetLine.ports.get p).tx = (s.ports.get p).tx) ∧
    s.resetLine.units = .all .reset ∧ s.resetLine.lineUnit = .reset ∧
    s.resetLine.stopReq = { asserted := false, trip := false, trackFull := false, watch := false } := by
  obtain ⟨-, -, -, -, -, -, -, reader, splices, track⟩ := s.lineCleared_frame
  have outcomes := s.lineCleared_outcomes
  have seqr := s.lineCleared_seqr
  have calcs := s.lineCleared_calcs
  have lanes := s.lineCleared_lane
  have tx := s.lineCleared_tx
  rw [State.resetLine_eq]
  generalize s.lineCleared = t at *
  exact ⟨track, splices, reader, outcomes, seqr, calcs, lanes, tx, rfl, rfl, rfl⟩

end Sys2Proof.Machine

open Sys2Proof Sys2Proof.Machine

/-- Settles O35: the accepted LINE RESET is the track emptied, the four stations reset in turn, and the fault units cleared. -/
theorem lineResetClearsTheLine : Obligations.LineResetClearsTheLine := by
  unfold Obligations.LineResetClearsTheLine
  intro hdr s taken port stopped
  have parts := (s.updPort hdr.port PortState.free).resetLine_parts
  have frame := (s.updPort hdr.port PortState.free).resetLine_frame
  have accepted : State.takeLineReset (s.updPort hdr.port PortState.free) =
      ((s.updPort hdr.port PortState.free).resetLine, ⟨.ok, .level .stopped s.estop⟩) := by
    have here : (s.updPort hdr.port PortState.free).line = .stopped := stopped
    unfold State.takeLineReset
    rw [if_pos here]
    simp only [State.accept, State.levelAnswer, State.resetLine_frame, here]
    rfl
  have served := State.serve_line (code := 5) taken port accepted
  generalize (s.updPort hdr.port PortState.free).resetLine = u at parts frame served
  obtain ⟨track, splices, reader, outcomes, seqr, calcs, lanes, tx, units, lineUnit, stopReq⟩ := parts
  obtain ⟨web, nextSeq, heat, settings, line, estop, pending⟩ := frame
  have mirrored : TripsMirrored (u.reply hdr.port hdr.tag 5 ⟨.ok, .level .stopped s.estop⟩) := fun st => by
    simp [State.reply, State.updPort, seqr, units, Sequencer.reset, FaultUnit.reset]
  have meaning : exec (.lineReset hdr) s = (s.serve hdr .lineReset 5 (lineRequest hdr State.takeLineReset)).done := rfl
  refine ⟨u.reply hdr.port hdr.tag 5 ⟨.ok, .level .stopped s.estop⟩, by rw [meaning, served, State.done_of_mirrored mirrored],
    line.trans stopped, track, splices, outcomes.trans ?_, reader, seqr, calcs, lanes, fun v => ?_, stopReq, ?_, ?_⟩
  · simp only [TrackRecord.finalize_missed]
    rfl
  · cases v <;> simp [State.unit, units, lineUnit, FaultUnit.reset]
  · have kept := tx .line
    simpa [State.reply, State.updPort, port, PortState.free] using kept
  · apply State.ext_fields <;> simp [web, nextSeq, heat, settings, line, estop, pending]

end

section
/-! SUPPORT. Notices that stay pending (R165): what is handed over to the ports after a notice leaves it in every pending set that it joined. -/

namespace Sys2Proof.Machine

/-- Every notice that was pending is pending still, and the routing tables stand. -/
def NoticesKept (s t : State) : Prop :=
  ∀ p, (t.ports.get p).routing = (s.ports.get p).routing ∧
    ∀ x ∈ (s.ports.get p).pending, ∃ y ∈ (t.ports.get p).pending, y.notice = x.notice

/-- A notice is pending at every port that is routed its kind. -/
def Noticed (s : State) (n : Notice) : Prop :=
  ∀ p, (s.ports.get p).routing.cls n.kind ≠ .off → ∃ x ∈ (s.ports.get p).pending, x.notice = n

theorem NoticesKept.of_ports {s t : State} (h : t.ports = s.ports) : NoticesKept s t := fun p => by
  rw [h]
  exact ⟨rfl, fun x hx => ⟨x, hx, rfl⟩⟩

theorem NoticesKept.refl (s : State) : NoticesKept s s := .of_ports rfl

theorem NoticesKept.trans {s t u : State} (a : NoticesKept s t) (b : NoticesKept t u) : NoticesKept s u := fun p => by
  refine ⟨(b p).1.trans (a p).1, fun x hx => ?_⟩
  obtain ⟨y, hy, same⟩ := (a p).2 x hx
  obtain ⟨z, hz, same'⟩ := (b p).2 y hy
  exact ⟨z, hz, same'.trans same⟩

theorem NoticesKept.foldl {α : Type} (g : State → α → State) (h : ∀ s x, NoticesKept s (g s x)) (l : List α) :
    ∀ s, NoticesKept s (l.foldl g s) := by
  induction l with
  | nil => exact .refl
  | cons x xs ih => exact fun s => (h s x).trans (ih _)

theorem Noticed.kept {s t : State} {n : Notice} (a : Noticed s n) (b : NoticesKept s t) : Noticed t n := fun p routed => by
  obtain ⟨x, hx, same⟩ := a p (by rwa [(b p).1] at routed)
  obtain ⟨y, hy, same'⟩ := (b p).2 x hx
  exact ⟨y, hy, same'.trans same⟩

/-- What is noticed is pending wherever the routing tables of an earlier state send it. -/
theorem Noticed.since {s t : State} {n : Notice} (a : Noticed t n) (b : NoticesKept s t) (p : Port)
    (routed : (s.ports.get p).routing.cls n.kind ≠ .off) : ∃ x ∈ (t.ports.get p).pending, x.notice = n :=
  a p (by rwa [(b p).1])

theorem mem_joinNotice (n : Notice) (u : Bool) (l : List PendingNotice) : ∃ x ∈ joinNotice n u l, x.notice = n := by
  induction l with
  | nil => exact ⟨⟨n, u⟩, by simp [joinNotice], rfl⟩
  | cons x xs ih =>
    rw [joinNotice]
    split
    · exact ⟨_, List.mem_cons_self, rfl⟩
    · split
      · exact ⟨_, List.mem_cons_self, rfl⟩
      · obtain ⟨y, hy, same⟩ := ih
        exact ⟨y, List.mem_cons_of_mem _ hy, same⟩

theorem joinNotice_keeps (n : Notice) (u : Bool) (l : List PendingNotice) : ∀ x ∈ l, ∃ y ∈ joinNotice n u l, y.notice = x.notice := by
  induction l with
  | nil => simp
  | cons x xs ih =>
    intro y hy
    rw [joinNotice]
    split
    next same =>
      obtain rfl | later := List.mem_cons.1 hy
      · exact ⟨_, List.mem_cons_self, same.symm⟩
      · exact ⟨y, List.mem_cons_of_mem _ later, rfl⟩
    · split
      · exact ⟨y, List.mem_cons_of_mem _ hy, rfl⟩
      · obtain rfl | later := List.mem_cons.1 hy
        · exact ⟨y, List.mem_cons_self, rfl⟩
        · obtain ⟨z, hz, same⟩ := ih y later
          exact ⟨z, List.mem_cons_of_mem _ hz, same⟩

theorem PortState.offer_keeps_notices (p : PortState) (n : Notice) :
    (p.offer n).routing = p.routing ∧ ∀ x ∈ p.pending, ∃ y ∈ (p.offer n).pending, y.notice = x.notice := by
  unfold PortState.offer
  split
  · exact ⟨rfl, fun x hx => ⟨x, hx, rfl⟩⟩
  · exact ⟨rfl, joinNotice_keeps n false p.pending⟩
  · exact ⟨rfl, joinNotice_keeps n true p.pending⟩

theorem State.offer_notices (s : State) (n : Notice) : NoticesKept s (s.offer n) := fun p => by
  simpa [State.offer] using (s.ports.get p).offer_keeps_notices n

theorem State.offer_noticed (s : State) (n : Notice) : Noticed (s.offer n) n := fun p routed => by
  have table : ((s.offer n).ports.get p).routing = (s.ports.get p).routing := (s.offer_notices n p).1
  rw [table] at routed
  have meaning : (s.offer n).ports.get p = (s.ports.get p).offer n := by simp [State.offer]
  rw [meaning, PortState.offer]
  cases cls : (s.ports.get p).routing.cls n.kind with
  | off => exact absurd cls routed
  | routine => exact mem_joinNotice n false _
  | urgent => exact mem_joinNotice n true _

theorem State.offerTo_notices (s : State) (p : Port) (n : Notice) : NoticesKept s (s.offerTo p n) := fun q => by
  by_cases here : q = p
  · subst here
    simpa [State.offerTo] using (s.ports.get q).offer_keeps_notices n
  · have other : (s.offerTo p n).ports.get q = s.ports.get q := by simp [State.offerTo, Three.get_set, here]
    rw [other]
    exact ⟨rfl, fun x hx => ⟨x, hx, rfl⟩⟩

/-! ### Faults and warnings -/

theorem State.raiseHard_notices (s : State) (ev : FaultEvent) : NoticesKept s (s.raiseHard ev) := by
  unfold State.raiseHard
  dsimp only
  split
  · exact (NoticesKept.of_ports (by simp)).trans (State.offer_notices _ _)
  · refine NoticesKept.trans ?_ (State.offer_notices _ _)
    exact (NoticesKept.of_ports (by simp)).trans (State.offer_notices _ .stopAsserted)
  · exact .of_ports (by simp)

theorem State.raise_notices (s : State) (ev : FaultEvent) : NoticesKept s (s.raise ev) := by
  unfold State.raise
  split
  · exact .of_ports (by simp)
  · split
    · exact (NoticesKept.of_ports (by simp)).trans (State.offer_notices _ _)
    · exact (s.raiseHard_notices ev).trans (.of_ports (by simp))
  · exact s.raiseHard_notices ev

/-! ### Watch units -/

theorem State.meetWatch_notices (s : State) (w : Idx) (q : Option SeqNo) : NoticesKept s (s.meetWatch w q) := by
  unfold State.meetWatch
  dsimp only
  generalize touched : s.updWatch w _ = u
  have met : NoticesKept s u := .of_ports (by rw [← touched]; rfl)
  split
  · cases (s.watches.get w).action with
    | none => exact met
    | some a =>
      cases a with
      | notice =>
        cases (s.watches.get w).owner with
        | none => exact met
        | some p => exact met.trans (u.offerTo_notices p _)
      | mark =>
        cases q with
        | none => exact met
        | some x => exact met.trans (.of_ports (by simp))
      | stop => exact met.trans (NoticesKept.trans (.of_ports rfl) (State.offer_notices _ .stopAsserted))
  · exact met

theorem State.testLevel_notices (s : State) (w : Idx) (b : Bool) : NoticesKept s (s.testLevel w b) := by
  unfold State.testLevel
  repeat' split
  · exact .refl s
  · exact s.meetWatch_notices w _
  · exact .of_ports rfl

theorem State.commitWatched_notices (s : State) (st : Idx) (q : SeqNo) : NoticesKept s (s.commitWatched st q) := by
  refine NoticesKept.foldl _ (fun s w => ?_) _ s
  dsimp only
  split
  · exact s.meetWatch_notices w _
  · exact .refl s

theorem State.trimChanged_notices (s : State) (st : Idx) : NoticesKept s (s.trimChanged st) := by
  refine NoticesKept.foldl _ (fun s w => ?_) _ s
  repeat' split
  · exact s.testLevel_notices w _
  · exact .refl s
  · exact .refl s

end Sys2Proof.Machine

end

section
/-! SUPPORT. Foil that a feed asks for (O33, O46; R89 to R92, R100): lanes that come short run out, and the feeds that are kept are reserved with
the effects of their codes. -/

namespace Sys2Proof.Machine

/-! ### Lanes that run out (R90) -/

/-- Some lanes of a station run out at the order of one seq, one after the other. -/
def State.runOuts (s : State) (st : Idx) (q : SeqNo) (l : List Idx) : State := l.foldl (fun s c => s.runOut st c q) s

/-- The hard fault of a lane that runs out. -/
def foilOutAt (st c : Idx) (q : SeqNo) : FaultEvent := { kind := .foilOut, unit := .station st, seq := some q, column := some c }

/-- A lane is OUT. -/
def State.laneOut (s : State) (st c : Idx) : State := s.updLane st c fun l => { l with state := .out }

theorem State.runOut_eq (s : State) (st c : Idx) (q : SeqNo) :
    s.runOut st c q = ((s.laneOut st c).raise (foilOutAt st c q)).offer (.foilOut st c) := rfl

theorem State.runOut_lane (s : State) (st c : Idx) (q : SeqNo) (v k : Idx) : (s.runOut st c q).lane v k =
    if v = st ∧ k = c then { s.lane v k with state := .out } else s.lane v k := by
  simp only [State.runOut_eq, State.laneOut, State.lane, State.offer_frame, State.raise_frame, State.updLane, Four.get_upd]
  by_cases station : v = st
  · subst station
    by_cases column : k = c <;> simp [column]
  · simp [station]

theorem State.runOut_elsewhere (s : State) (st c : Idx) (q : SeqNo) : SameElsewhere s (s.runOut st c q) st := by
  have out : SameElsewhere s (s.laneOut st c) st := s.updLane_elsewhere st c _
  have raised := State.raise_elsewhere (s.laneOut st c) (ev := foilOutAt st c q) (st := st) rfl
  rw [State.runOut_eq]
  exact (out.trans raised).trans (.of_same st (by simp) (by simp) (by simp) (by simp) (by simp))

theorem State.runOut_faults (s : State) (st c : Idx) (q : SeqNo) : FaultsTaken st [(.foilOut, some q, some c)] false s (s.runOut st c q) := by
  have out : FaultsTaken st [] false s (s.laneOut st c) := s.updLane_faults st c _
  have raised := State.raise_hard_faults (s.laneOut st c) (st := st) (ev := foilOutAt st c q) rfl rfl
  rw [State.runOut_eq]
  exact (out.trans raised).trans (l := []) (.of_units st (by simp) (by simp) (by simp))

theorem State.runOut_notices (s : State) (st c : Idx) (q : SeqNo) : NoticesKept s (s.runOut st c q) := by
  have out : NoticesKept s (s.laneOut st c) := .of_ports rfl
  rw [State.runOut_eq]
  exact (out.trans (State.raise_notices _ _)).trans (State.offer_notices _ _)

theorem State.runOut_noticed (s : State) (st c : Idx) (q : SeqNo) : Noticed (s.runOut st c q) (.foilOut st c) := State.offer_noticed _ _

section
variable (s : State) (st : Idx) (q : SeqNo) (l : List Idx)

@[simp] theorem State.runOuts_frame :
    (s.runOuts st q l).web = s.web ∧ (s.runOuts st q l).reader = s.reader ∧ (s.runOuts st q l).track = s.track ∧
    (s.runOuts st q l).nextSeq = s.nextSeq ∧ (s.runOuts st q l).outcomes = s.outcomes ∧ (s.runOuts st q l).calcs = s.calcs ∧
    (s.runOuts st q l).seqr = s.seqr ∧ (s.runOuts st q l).heat = s.heat ∧ (s.runOuts st q l).splices = s.splices ∧
    (s.runOuts st q l).watches = s.watches ∧ (s.runOuts st q l).slots = s.slots ∧ (s.runOuts st q l).settings = s.settings ∧
    (s.runOuts st q l).line = s.line ∧ (s.runOuts st q l).estop = s.estop ∧ (s.runOuts st q l).links = s.links ∧
    (s.runOuts st q l).pending = s.pending := by
  induction l generalizing s with
  | nil => simp [State.runOuts]
  | cons c cs ih => simpa [State.runOuts] using ih (s.runOut st c q)

theorem State.runOuts_lane (v k : Idx) : (s.runOuts st q l).lane v k =
    if v = st ∧ k ∈ l then { s.lane v k with state := .out } else s.lane v k := by
  induction l generalizing s with
  | nil => simp [State.runOuts]
  | cons c cs ih =>
    have rest := ih (s.runOut st c q)
    rw [State.runOut_lane] at rest
    refine rest.trans ?_
    by_cases station : v = st
    · by_cases column : k = c <;> by_cases later : k ∈ cs <;> simp [station, column, later]
    · simp [station]

theorem State.runOuts_elsewhere : SameElsewhere s (s.runOuts st q l) st :=
  SameElsewhere.foldl (fun s c => s.runOut st c q) (fun s c => s.runOut_elsewhere st c q) l s

theorem State.runOuts_faults : FaultsTaken st (l.map fun c => (.foilOut, some q, some c)) false s (s.runOuts st q l) := by
  induction l generalizing s with
  | nil => exact .refl st s
  | cons c cs ih => exact (s.runOut_faults st c q).trans (ih (s.runOut st c q))

theorem State.runOuts_notices : NoticesKept s (s.runOuts st q l) :=
  NoticesKept.foldl (fun s c => s.runOut st c q) (fun s c => s.runOut_notices st c q) l s

theorem State.runOuts_noticed {c : Idx} (h : c ∈ l) : Noticed (s.runOuts st q l) (.foilOut st c) := by
  induction l generalizing s with
  | nil => simp at h
  | cons k ks ih =>
    obtain rfl | later := List.mem_cons.1 h
    · exact (s.runOut_noticed st c q).kept (State.runOuts_notices _ st q ks)
    · exact ih (s.runOut st k q) later

end

/-- A column where a lane comes short runs out, and the others stay. -/
def State.runOutIf (s : State) (st : Idx) (q : SeqNo) (short : Idx → Bool) (c : Idx) : State :=
  if short c then s.runOut st c q else s

theorem State.runOutIf_slots (s : State) (st : Idx) (q : SeqNo) (short : Idx → Bool) (c : Idx) :
    (s.runOutIf st q short c).slots = s.slots := by
  unfold State.runOutIf
  split <;> simp

theorem State.runOutIf_lane (s : State) (st : Idx) (q : SeqNo) (short : Idx → Bool) {c k : Idx} (h : k ≠ c) :
    (s.runOutIf st q short c).lane st k = s.lane st k := by
  unfold State.runOutIf
  split
  · rw [State.runOut_lane, if_neg fun both => h both.2]
  · rfl

/-- Four feeds computed column by column: where each depends on its own lane and on the job slots alone, the lanes that come short run out,
and the feeds are those of the state in which the first was computed. -/
theorem feeds_of_columns {s : State} {st : Idx} {q : SeqNo} {step : State → Idx → State × Nat} {short : Idx → Bool} {fed : Idx → Nat}
    (column : ∀ t c, t.slots = s.slots → t.lane st c = s.lane st c → step t c = (t.runOutIf st q short c, fed c)) :
    let f0 := step s .i0
    let f1 := step f0.1 .i1
    let f2 := step f1.1 .i2
    let f3 := step f2.1 .i3
    (f3.1, (⟨f0.2, f1.2, f2.2, f3.2⟩ : Four Nat)) = (s.runOuts st q (Idx.all.filter short), .tab fed) := by
  have chain : s.runOuts st q (Idx.all.filter short) = Idx.all.foldl (fun t c => t.runOutIf st q short c) s := List.foldl_filter
  have c0 := column s .i0 rfl rfl
  have c1 := column (s.runOutIf st q short .i0) .i1 (by simp [State.runOutIf_slots]) (by simp [State.runOutIf_lane])
  have c2 := column ((s.runOutIf st q short .i0).runOutIf st q short .i1) .i2 (by simp [State.runOutIf_slots])
    (by simp [State.runOutIf_lane])
  have c3 := column (((s.runOutIf st q short .i0).runOutIf st q short .i1).runOutIf st q short .i2) .i3
    (by simp [State.runOutIf_slots]) (by simp [State.runOutIf_lane])
  rw [chain]
  simp only [c0, c1, c2, c3, Idx.all, List.foldl_cons, List.foldl_nil]
  rfl

/-! ### The effects of the codes (R91, R92) -/

/-- The record with the first-off feeds of one station joined. -/
def TrackRecord.joinFirstOff (x : TrackRecord) (st : Idx) (starts : Idx → Bool) : TrackRecord :=
  { x with firstOff := x.firstOff.upd st fun row => .tab fun c => row.get c || starts c }

/-- Of the job slots the effects of a code write the descriptor of the lane, where there is one that they change. -/
theorem State.feedEffect_slots (s : State) (st : Idx) (j : Slot) (q : SeqNo) (c : Idx) {n : Nat} (fed : 0 < n) :
    (s.feedEffect st j q c).slots = s.slots ∧ (∀ d, s.descriptor j st c = some d → fedDescriptor d q n = d) ∨
      ∃ d, s.descriptor j st c = some d ∧ (s.feedEffect st j q c).slots = (s.setDescriptor j st c (fedDescriptor d q n)).slots := by
  unfold State.feedEffect
  cases there : s.descriptor j st c with
  | none => exact .inl ⟨rfl, by simp⟩
  | some d =>
    dsimp only
    split
    next code stage => exact .inr ⟨d, rfl, by simp [fedDescriptor, startsFirstOff, fed, code, stage]⟩
    next _ code => exact .inr ⟨d, rfl, by simp [fedDescriptor, startsFirstOff, fed, code]⟩
    next report first =>
      have silent : ¬ (d.code = .firstOff ∧ d.stage = .vacant) := fun both => first both.1 both.2
      have quiet : d.code ≠ .onReport := report
      exact .inl ⟨rfl, by simp [fedDescriptor, startsFirstOff, quiet, fed, silent]⟩

theorem State.feedEffect_descriptor (s : State) (st : Idx) (j : Slot) (q : SeqNo) (c : Idx) {n : Nat} (fed : 0 < n) (i : Slot) (v k : Idx) :
    (s.feedEffect st j q c).descriptor i v k =
      (s.descriptor i v k).map fun d => if i = j ∧ v = st ∧ k = c then fedDescriptor d q n else d := by
  obtain ⟨slots, same⟩ | ⟨d, there, slots⟩ := s.feedEffect_slots st j q c fed
  · rw [State.descriptor_of_slots slots]
    by_cases here : i = j ∧ v = st ∧ k = c
    · obtain ⟨rfl, rfl, rfl⟩ := here
      cases there : s.descriptor i v k with
      | none => rfl
      | some d => simp [same d there]
    · simp [here]
  · rw [State.descriptor_of_slots slots, State.setDescriptor_descriptor there]
    by_cases here : i = j ∧ v = st ∧ k = c
    · obtain ⟨rfl, rfl, rfl⟩ := here
      simp [there]
    · simp [here]

theorem State.feedEffect_sameButEntries (s : State) (st : Idx) (j : Slot) (q : SeqNo) (c : Idx) {n : Nat} (fed : 0 < n) :
    SameButEntries s (s.feedEffect st j q c) := by
  obtain ⟨slots, -⟩ | ⟨d, -, slots⟩ := s.feedEffect_slots st j q c fed
  · exact .of_slots slots
  · exact (s.setDescriptor_sameButEntries j st c _).trans (.of_slots slots)

/-- Only the entry of the station in the order's slot is written. -/
theorem State.feedEffect_entry (s : State) (st : Idx) (j : Slot) (q : SeqNo) (c : Idx) {n : Nat} (fed : 0 < n) {i : Slot} {v : Idx}
    (apart : ¬ (i = j ∧ v = st)) : (s.feedEffect st j q c).entry i v = s.entry i v := by
  obtain ⟨slots, -⟩ | ⟨d, there, slots⟩ := s.feedEffect_slots st j q c fed
  · simp only [State.entry_eq, slots]
  · have same : (s.feedEffect st j q c).entry i v = (s.setDescriptor j st c (fedDescriptor d q n)).entry i v := by
      simp only [State.entry_eq, slots]
    rw [same, State.setDescriptor]
    split
    next e entry => rw [State.setEntry_entry entry, if_neg apart]
    · rfl

theorem TrackRecord.joinFirstOff_none (x : TrackRecord) (st : Idx) {starts : Idx → Bool} (h : ∀ k, starts k = false) :
    x.joinFirstOff st starts = x := by
  have row : (x.firstOff.upd st fun row => Four.tab fun c => row.get c || starts c) = x.firstOff :=
    Four.upd_same (Four.ext_get fun k => by simp [h])
  simp only [TrackRecord.joinFirstOff, row]

theorem TrackRecord.joinFirstOff_join (x : TrackRecord) (st : Idx) (a b : Idx → Bool) :
    (x.joinFirstOff st a).joinFirstOff st b = x.joinFirstOff st fun k => a k || b k := by
  simp [TrackRecord.joinFirstOff, Four.upd_upd, Bool.or_assoc]

theorem State.feedEffect_track (s : State) (st : Idx) (j : Slot) (q : SeqNo) (c : Idx) {n : Nat} (fed : 0 < n) :
    (s.feedEffect st j q c).track = s.track.map fun x =>
      if x.seq = q then x.joinFirstOff st fun k => decide (k = c) && startsFirstOff (s.descriptor j st c) n else x := by
  have stays : ∀ starts : Idx → Bool, (∀ k, starts k = false) →
      (s.track.map fun x => if x.seq = q then x.joinFirstOff st starts else x) = s.track := fun starts none => by
    refine (List.map_congr_left fun x _ => ?_).trans (List.map_id _)
    rw [x.joinFirstOff_none st none, ite_self]
    rfl
  unfold State.feedEffect
  cases there : s.descriptor j st c with
  | none => exact (stays _ fun k => by simp [startsFirstOff]).symm
  | some d =>
    dsimp only
    split
    next code stage =>
      have joined : ∀ row : Four Bool, row.set c true = .tab fun k => row.get k || decide (k = c) := fun row => Four.ext_get fun k => by
        by_cases here : k = c <;> simp [here]
      simp [State.updRecord, TrackRecord.joinFirstOff, startsFirstOff, fed, code, stage, joined]
    next _ code => rw [stays _ fun k => by simp [startsFirstOff, code]]; simp
    next report first =>
      have silent : ¬ (d.code = .firstOff ∧ d.stage = .vacant) := fun both => first both.1 both.2
      exact (stays _ fun k => by simpa [startsFirstOff] using fun _ _ code stage => silent ⟨code, stage⟩).symm

theorem State.feedEffect_notices (s : State) (st : Idx) (j : Slot) (q : SeqNo) (c : Idx) : NoticesKept s (s.feedEffect st j q c) := by
  unfold State.feedEffect
  repeat' split
  · exact (NoticesKept.of_ports (by simp)).trans (State.offer_notices _ _)
  · exact (NoticesKept.of_ports (by simp)).trans (State.offer_notices _ _)
  · exact .refl s
  · exact .refl s

theorem State.feedEffect_noticed (s : State) (st : Idx) (j : Slot) (q : SeqNo) (c : Idx) {d : Descriptor}
    (there : s.descriptor j st c = some d) :
    (d.code = .firstOff → d.stage = .vacant → Noticed (s.feedEffect st j q c) (.firstOffStruck st c)) ∧
      (d.code = .onReport → Noticed (s.feedEffect st j q c) (.laneAttn st c)) := by
  unfold State.feedEffect
  rw [there]
  dsimp only
  refine ⟨fun code stage => ?_, fun code => ?_⟩
  · simp only [code, stage]
    exact State.offer_noticed _ _
  · simp only [code]
    exact State.offer_noticed _ _

/-- One column of an order's feeds: the effects of its code where something is fed. -/
def State.feedColumn (s : State) (st : Idx) (j : Slot) (q : SeqNo) (feed : Four Nat) (c : Idx) : State :=
  if 0 < feed.get c then s.feedEffect st j q c else s

section
variable (s : State) (st : Idx) (j : Slot) (q : SeqNo) (feed : Four Nat)

theorem fedDescriptor_zero (d : Descriptor) : fedDescriptor d q 0 = d := by simp [fedDescriptor, startsFirstOff]

theorem startsFirstOff_zero (d : Option Descriptor) : startsFirstOff d 0 = false := by cases d <;> simp [startsFirstOff]

theorem State.feedColumn_descriptor (c : Idx) (i : Slot) (v k : Idx) : (s.feedColumn st j q feed c).descriptor i v k =
    (s.descriptor i v k).map fun d => if i = j ∧ v = st ∧ k = c then fedDescriptor d q (feed.get c) else d := by
  unfold State.feedColumn
  split
  next fed => exact s.feedEffect_descriptor st j q c fed i v k
  next none => simp [Nat.eq_zero_of_not_pos none, fedDescriptor_zero]

theorem State.feedColumn_track (c : Idx) : (s.feedColumn st j q feed c).track = s.track.map fun x =>
    if x.seq = q then x.joinFirstOff st fun k => decide (k = c) && startsFirstOff (s.descriptor j st c) (feed.get c) else x := by
  unfold State.feedColumn
  split
  next fed => exact s.feedEffect_track st j q c fed
  next none =>
    refine ((List.map_congr_left fun x _ => ?_).trans (List.map_id _)).symm
    rw [x.joinFirstOff_none st fun k => by simp [Nat.eq_zero_of_not_pos none, startsFirstOff_zero], ite_self]
    rfl

theorem State.feedColumn_sameButEntries (c : Idx) : SameButEntries s (s.feedColumn st j q feed c) := by
  unfold State.feedColumn
  split
  next fed => exact s.feedEffect_sameButEntries st j q c fed
  · exact .of_slots rfl

theorem State.feedColumn_entry (c : Idx) {i : Slot} {v : Idx} (apart : ¬ (i = j ∧ v = st)) :
    (s.feedColumn st j q feed c).entry i v = s.entry i v := by
  unfold State.feedColumn
  split
  next fed => exact s.feedEffect_entry st j q c fed apart
  · rfl

theorem State.feedColumn_lanes (c : Idx) : (s.feedColumn st j q feed c).lanes = s.lanes := by
  unfold State.feedColumn
  split <;> simp

theorem State.feedColumn_notices (c : Idx) : NoticesKept s (s.feedColumn st j q feed c) := by
  unfold State.feedColumn
  split
  · exact s.feedEffect_notices st j q c
  · exact .refl s

/-- The columns of a list, each once. -/
def State.feedColumns (l : List Idx) : State := l.foldl (fun s c => s.feedColumn st j q feed c) s

theorem State.feedColumns_cons (c : Idx) (l : List Idx) :
    s.feedColumns st j q feed (c :: l) = (s.feedColumn st j q feed c).feedColumns st j q feed l := rfl

theorem State.feedColumns_notices (l : List Idx) : NoticesKept s (s.feedColumns st j q feed l) :=
  NoticesKept.foldl (fun s c => s.feedColumn st j q feed c) (fun s c => s.feedColumn_notices st j q feed c) l s

theorem State.feedColumns_descriptor {l : List Idx} (once : l.Nodup) (i : Slot) (v k : Idx) :
    (s.feedColumns st j q feed l).descriptor i v k =
      (s.descriptor i v k).map fun d => if i = j ∧ v = st ∧ k ∈ l then fedDescriptor d q (feed.get k) else d := by
  induction l generalizing s with
  | nil => simp [State.feedColumns]
  | cons c cs ih =>
    obtain ⟨new, once'⟩ := List.nodup_cons.1 once
    refine (ih (s.feedColumn st j q feed c) once').trans ?_
    rw [State.feedColumn_descriptor, Option.map_map]
    congr 1
    funext d
    by_cases here : i = j ∧ v = st
    · obtain ⟨rfl, rfl⟩ := here
      by_cases column : k = c
      · subst column
        simp [new]
      · simp [column]
    · have apart : ∀ P : Prop, ¬ (i = j ∧ v = st ∧ P) := fun _ h => here ⟨h.1, h.2.1⟩
      simp [apart]

theorem State.feedColumns_track {l : List Idx} (once : l.Nodup) : (s.feedColumns st j q feed l).track = s.track.map fun x =>
    if x.seq = q then x.joinFirstOff st fun k => decide (k ∈ l) && startsFirstOff (s.descriptor j st k) (feed.get k) else x := by
  induction l generalizing s with
  | nil =>
    refine ((List.map_congr_left fun x _ => ?_).trans (List.map_id _)).symm
    rw [x.joinFirstOff_none st fun k => by simp, ite_self]
    rfl
  | cons c cs ih =>
    obtain ⟨new, once'⟩ := List.nodup_cons.1 once
    refine (ih (s.feedColumn st j q feed c) once').trans ?_
    rw [State.feedColumn_track, List.map_map]
    refine List.map_congr_left fun x _ => ?_
    by_cases seq : x.seq = q
    · have kept : ∀ starts, (x.joinFirstOff st starts).seq = q := fun _ => seq
      simp only [Function.comp, seq, kept, if_true, TrackRecord.joinFirstOff_join]
      congr 1
      funext k
      rw [State.feedColumn_descriptor]
      by_cases column : k = c
      · subst column
        simp [new]
      · simp [column]
    · simp [seq]

theorem State.feedColumns_noticed {l : List Idx} (once : l.Nodup) {c : Idx} (h : c ∈ l) (fed : 0 < feed.get c) {d : Descriptor}
    (there : s.descriptor j st c = some d) :
    (d.code = .firstOff → d.stage = .vacant → Noticed (s.feedColumns st j q feed l) (.firstOffStruck st c)) ∧
      (d.code = .onReport → Noticed (s.feedColumns st j q feed l) (.laneAttn st c)) := by
  induction l generalizing s with
  | nil => simp at h
  | cons k ks ih =>
    obtain ⟨new, once'⟩ := List.nodup_cons.1 once
    obtain rfl | later := List.mem_cons.1 h
    · have column : s.feedColumn st j q feed c = s.feedEffect st j q c := if_pos fed
      have kept : NoticesKept (s.feedEffect st j q c) (s.feedColumns st j q feed (c :: ks)) := by
        rw [State.feedColumns_cons, column]
        exact State.feedColumns_notices _ st j q feed ks
      obtain ⟨first, report⟩ := s.feedEffect_noticed st j q c there
      exact ⟨fun code stage => (first code stage).kept kept, fun code => (report code).kept kept⟩
    · have other : c ≠ k := fun same => new (same ▸ later)
      exact ih (s.feedColumn st j q feed k) once' later (by simp [State.feedColumn_descriptor, there, other])

/-! ### The feeds of an order (R91, R92) -/

theorem State.orderFoil_columns : s.orderFoil st j q feed = (s.reserve st feed).feedColumns st j q feed Idx.all := rfl

theorem State.reserve_lane (v c : Idx) : (s.reserve st feed).lane v c =
    if v = st then { s.lane v c with reserved := (s.lane v c).reserved + feed.get c } else s.lane v c := by
  unfold State.reserve State.updLanes State.lane
  by_cases station : v = st <;> simp [station]

theorem State.orderFoil_lanes : (s.orderFoil st j q feed).lanes = (s.reserve st feed).lanes := by
  have kept : ∀ l : List Idx, ∀ t : State, (t.feedColumns st j q feed l).lanes = t.lanes := fun l => by
    induction l with
    | nil => exact fun t => rfl
    | cons c cs ih => exact fun t => (ih _).trans (t.feedColumn_lanes st j q feed c)
  exact kept Idx.all _

theorem State.orderFoil_lane (c : Idx) : (s.orderFoil st j q feed).lane st c =
    { s.lane st c with reserved := (s.lane st c).reserved + feed.get c } := by
  rw [State.lane_of_lanes (s.orderFoil_lanes st j q feed), State.reserve_lane, if_pos rfl]

theorem State.orderFoil_descriptor (i : Slot) (v k : Idx) : (s.orderFoil st j q feed).descriptor i v k =
    (s.descriptor i v k).map fun d => if i = j ∧ v = st then fedDescriptor d q (feed.get k) else d := by
  have all : k ∈ Idx.all := by cases k <;> decide
  rw [State.orderFoil_columns, State.feedColumns_descriptor _ st j q feed (by decide)]
  simp only [all, and_true]
  rfl

theorem State.orderFoil_track : (s.orderFoil st j q feed).track = s.track.map fun x =>
    if x.seq = q then x.joinFirstOff st fun k => startsFirstOff (s.descriptor j st k) (feed.get k) else x := by
  have all : ∀ k : Idx, k ∈ Idx.all := fun k => by cases k <;> decide
  rw [State.orderFoil_columns, State.feedColumns_track _ st j q feed (by decide)]
  simp only [all, decide_true, Bool.true_and]
  rfl

theorem State.orderFoil_noticed {c : Idx} (fed : 0 < feed.get c) {d : Descriptor} (there : s.descriptor j st c = some d) :
    (d.code = .firstOff → d.stage = .vacant → Noticed (s.orderFoil st j q feed) (.firstOffStruck st c)) ∧
      (d.code = .onReport → Noticed (s.orderFoil st j q feed) (.laneAttn st c)) :=
  (s.reserve st feed).feedColumns_noticed st j q feed (l := Idx.all) (by decide) (by cases c <;> decide) fed there

theorem State.orderFoil_notices : NoticesKept s (s.orderFoil st j q feed) :=
  NoticesKept.trans (.of_ports rfl)
    ((s.reserve st feed).feedColumns_notices st j q feed Idx.all)

theorem State.orderFoil_sameButEntries : SameButEntries s (s.orderFoil st j q feed) :=
  SameButEntries.trans (.of_slots rfl)
    (SameButEntries.foldl (fun s c => s.feedColumn st j q feed c) (fun s c => s.feedColumn_sameButEntries st j q feed c) Idx.all
      (s.reserve st feed))

theorem State.orderFoil_entry {i : Slot} {v : Idx} (apart : ¬ (i = j ∧ v = st)) : (s.orderFoil st j q feed).entry i v = s.entry i v := by
  have kept : ∀ l : List Idx, ∀ t : State, (t.feedColumns st j q feed l).entry i v = t.entry i v := fun l => by
    induction l with
    | nil => exact fun t => rfl
    | cons c cs ih => exact fun t => (ih _).trans (t.feedColumn_entry st j q feed c apart)
  exact kept Idx.all _

theorem State.orderFoil_elsewhere : SameElsewhere s (s.orderFoil st j q feed) st := fun v hv => by
  have lanes : (s.orderFoil st j q feed).lanes.get v = s.lanes.get v := by
    rw [State.orderFoil_lanes]
    simp [State.reserve, State.updLanes, hv]
  simp [lanes]

end

end Sys2Proof.Machine

end

section
/-! SUPPORT. The commit at a foil station that reaches case 11 (O46; R66 to R68, R89 to R92): its four feeds, and the order that carries them. -/

namespace Sys2Proof.Machine

/-! ### The feed rule (R89, R90) -/

theorem Descriptor.allows_eq (d : Descriptor) :
    d.allows = decide (d.code = .on ∨ d.code = .onReport ∨ (d.code = .firstOff ∧ d.stage = .vacant)) := by
  unfold Descriptor.allows
  cases d.code <;> simp

theorem verdictAllows_eq (v : Option Verdict) (unknown : Bool) :
    verdictAllows v unknown = decide (v = some .good ∨ (v = some .unknown ∧ unknown = true)) := by
  cases v with
  | none => simp [verdictAllows]
  | some v => cases v <;> simp [verdictAllows]

theorem LaneState.usable_eq (x : LaneState) : x.usable = decide (x = .ready ∨ x = .low) := by cases x <;> rfl

/-- The code, the verdict and the state of a lane allow a feed for a record (R89). -/
def State.feedAllowed (s : State) (st : Idx) (r : TrackRecord) (ds : Four Descriptor) (c : Idx) : Bool :=
  (s.globals r.slot).uses c &&
    decide ((ds.get c).code = .on ∨ (ds.get c).code = .onReport ∨ ((ds.get c).code = .firstOff ∧ (ds.get c).stage = .vacant)) &&
    decide (r.verdict.get c = some .good ∨ (r.verdict.get c = some .unknown ∧ (s.globals r.slot).unknownFeed = true)) &&
    decide (((s.lanes.get st).get c).state = .ready ∨ ((s.lanes.get st).get c).state = .low)

/-- A feed is allowed on the lane, and too little of its remaining foil is unpromised (R90). -/
def State.feedShort (s : State) (st : Idx) (r : TrackRecord) (ds : Four Descriptor) (c : Idx) : Bool :=
  s.feedAllowed st r ds c &&
    decide (((s.lanes.get st).get c).remaining < ((s.lanes.get st).get c).reserved + ((ds.get c).lf + (ds.get c).gf))

/-- The feed of a lane for a record (R89). -/
def State.feedGiven (s : State) (st : Idx) (r : TrackRecord) (ds : Four Descriptor) (c : Idx) : Nat :=
  if s.feedAllowed st r ds c && !s.feedShort st r ds c then (ds.get c).lf + (ds.get c).gf else 0

section
variable {s : State} {st : Idx} {r : TrackRecord} {ds : Four Descriptor}

/-- The lanes of the station that come short at the record's commit. -/
def State.feedShorts (s : State) (st : Idx) (r : TrackRecord) (ds : Four Descriptor) : List Idx := Idx.all.filter (s.feedShort st r ds)

theorem State.mem_feedShorts {c : Idx} : c ∈ s.feedShorts st r ds ↔ s.feedShort st r ds c = true := by
  have all : c ∈ Idx.all := by cases c <;> decide
  simp [State.feedShorts, all]

theorem State.laneFeed_eq {t : State} {c : Idx} (codes : ∀ k, s.descriptor r.slot st k = some (ds.get k)) (slots : t.slots = s.slots)
    (lane : t.lane st c = s.lane st c) :
    t.laneFeed st r c = (t.runOutIf st r.seq (s.feedShort st r ds) c, s.feedGiven st r ds c) := by
  have globals : t.globals r.slot = s.globals r.slot := by simp only [State.globals, slots]
  have allowed : ((s.globals r.slot).uses c = true ∧ (ds.get c).allows = true ∧
      verdictAllows (r.verdict.get c) (s.globals r.slot).unknownFeed = true ∧ (s.lane st c).state.usable = true) ↔
        s.feedAllowed st r ds c = true := by
    have here : s.lane st c = (s.lanes.get st).get c := rfl
    rw [here, Descriptor.allows_eq, verdictAllows_eq, LaneState.usable_eq]
    simp only [State.feedAllowed, Bool.and_eq_true, decide_eq_true_eq, and_assoc]
  unfold State.laneFeed State.runOutIf State.feedGiven State.feedShort
  rw [State.descriptor_of_slots slots, codes]
  dsimp only
  rw [globals, lane]
  simp only [allowed]
  cases s.feedAllowed st r ds c with
  | false => simp
  | true =>
    by_cases enough : (s.lane st c).reserved + ((ds.get c).lf + (ds.get c).gf) ≤ (s.lane st c).remaining
    · have room : ¬ ((s.lanes.get st).get c).remaining < ((s.lanes.get st).get c).reserved + ((ds.get c).lf + (ds.get c).gf) :=
        Nat.not_lt.2 enough
      simp [enough, room, Descriptor.feed]
    · have short : ((s.lanes.get st).get c).remaining < ((s.lanes.get st).get c).reserved + ((ds.get c).lf + (ds.get c).gf) :=
        Nat.not_le.1 enough
      simp [enough, short, Descriptor.feed]

theorem State.laneFeeds_eq (codes : ∀ k, s.descriptor r.slot st k = some (ds.get k)) :
    s.laneFeeds st r = (s.runOuts st r.seq (s.feedShorts st r ds), .tab (s.feedGiven st r ds)) :=
  feeds_of_columns (step := fun t c => t.laneFeed st r c) fun _ _ slots lane => State.laneFeed_eq codes slots lane

/-- A first-off feed starts where the code is FIRST_OFF and something is fed: its stage was OPEN, or nothing had been allowed. -/
theorem State.startsFirstOff_given (c : Idx) : startsFirstOff (some (ds.get c)) (s.feedGiven st r ds c) =
    (decide ((ds.get c).code = .firstOff) && decide (0 < s.feedGiven st r ds c)) := by
  by_cases fed : 0 < s.feedGiven st r ds c
  · by_cases code : (ds.get c).code = .firstOff
    · have allowed : s.feedAllowed st r ds c = true := by
        rw [State.feedGiven] at fed
        by_contra no
        simp [no] at fed
      have stage : (ds.get c).stage = .vacant := by
        simp only [State.feedAllowed, Bool.and_eq_true, decide_eq_true_eq, code, reduceCtorEq, true_and, false_or] at allowed
        exact allowed.1.1.2
      simp [startsFirstOff, fed, code, stage]
    · simp [startsFirstOff, code]
  · simp [startsFirstOff, fed]

theorem State.fedDescriptor_given (q : SeqNo) (c : Idx) : fedDescriptor (ds.get c) q (s.feedGiven st r ds c) =
    { ds.get c with
      stage := if (ds.get c).code = .firstOff ∧ 0 < s.feedGiven st r ds c then .awaiting q else (ds.get c).stage
      attn := (ds.get c).attn ||
        (decide ((ds.get c).code = .firstOff ∨ (ds.get c).code = .onReport) && decide (0 < s.feedGiven st r ds c)) } := by
  unfold fedDescriptor
  rw [State.startsFirstOff_given]
  by_cases fed : 0 < s.feedGiven st r ds c
  · by_cases first : (ds.get c).code = .firstOff
    · simp [fed, first]
    · by_cases report : (ds.get c).code = .onReport <;> simp [fed, first, report]
  · simp [fed]

end

/-! ### The order (R67, R68) -/

/-- A commit inside STEP_MAX with its feeds, before the commit is handed to the watch units. -/
def State.orderFed (s : State) (st : Idx) (r : TrackRecord) (target : Pos) (d : Decision) (feed : Four Nat) (shorts : List Idx) : State :=
  (((((s.runOuts st r.seq shorts).updField r.seq st fun f =>
      { f with decision := d, status := .committed, target := some target, feed := some feed }).orderFoil st r.slot r.seq feed).updCalc st
        fun c => { c with last := some { target := target, seq := r.seq, slot := r.slot }, missed := 0 }).launch st r.seq false)

section
variable (s : State) (st : Idx) (r : TrackRecord) (target : Pos) (d : Decision) (feed : Four Nat) (shorts : List Idx)

/-- The record that the commit of an order with feeds leaves. -/
def TrackRecord.committedWith (x : TrackRecord) (st : Idx) (target : Pos) (d : Decision) (feed : Four Nat) (starts : Idx → Bool) :
    TrackRecord :=
  (x.updStation st fun f => { f with decision := d, status := .committed, target := some target, feed := some feed }).joinFirstOff st starts

@[simp] theorem State.orderFed_frame :
    let t := s.orderFed st r target d feed shorts
    t.web = s.web ∧ t.reader = s.reader ∧ t.nextSeq = s.nextSeq ∧ t.outcomes = s.outcomes ∧ t.heat = s.heat ∧ t.splices = s.splices ∧
      t.settings = s.settings ∧ t.line = s.line ∧ t.estop = s.estop ∧ t.pending = s.pending ∧ t.watches = s.watches ∧
      t.units = (s.runOuts st r.seq shorts).units ∧ t.lineUnit = (s.runOuts st r.seq shorts).lineUnit ∧
      t.stopReq = (s.runOuts st r.seq shorts).stopReq := by
  simp [State.orderFed]

theorem State.orderFed_track : (s.orderFed st r target d feed shorts).track = s.track.map fun x =>
    if x.seq = r.seq then x.committedWith st target d feed fun c => startsFirstOff (s.descriptor r.slot st c) (feed.get c) else x := by
  have slots : ((s.runOuts st r.seq shorts).updField r.seq st fun f =>
      { f with decision := d, status := .committed, target := some target, feed := some feed }).slots = s.slots := by simp
  simp only [State.orderFed, State.launch_frame, State.updCalc_frame, State.orderFoil_track, State.descriptor_of_slots slots]
  simp only [State.updField, State.updRecord, State.runOuts_frame, List.map_map]
  refine List.map_congr_left fun x _ => ?_
  by_cases seq : x.seq = r.seq
  · have kept : ∀ f, (x.updStation st f).seq = r.seq := fun _ => seq
    simp [seq, kept, TrackRecord.committedWith]
  · simp [seq]

theorem State.orderFed_calcs : (s.orderFed st r target d feed shorts).calcs = s.calcs.set st
    { s.calcs.get st with last := some { target := target, seq := r.seq, slot := r.slot }, missed := 0 } := by
  simp [State.orderFed, State.updCalc, Four.upd]

theorem State.orderFed_lane (c : Idx) : (s.orderFed st r target d feed shorts).lane st c =
    { s.lane st c with
      state := if c ∈ shorts then .out else (s.lane st c).state, reserved := (s.lane st c).reserved + feed.get c } := by
  have lanes : (s.orderFed st r target d feed shorts).lanes = (((s.runOuts st r.seq shorts).updField r.seq st fun f =>
      { f with decision := d, status := .committed, target := some target, feed := some feed }).orderFoil st r.slot r.seq feed).lanes := by
    simp [State.orderFed]
  have before := State.lane_of_lanes (s := s.runOuts st r.seq shorts) (t := (s.runOuts st r.seq shorts).updField r.seq st fun f =>
      { f with decision := d, status := .committed, target := some target, feed := some feed }) (by simp) st c
  rw [State.lane_of_lanes lanes, State.orderFoil_lane, before, State.runOuts_lane]
  by_cases short : c ∈ shorts <;> simp [short]

theorem State.orderFed_slots : (s.orderFed st r target d feed shorts).slots = (((s.runOuts st r.seq shorts).updField r.seq st fun f =>
    { f with decision := d, status := .committed, target := some target, feed := some feed }).orderFoil st r.slot r.seq feed).slots := by
  simp [State.orderFed]

theorem State.orderFed_descriptor (i : Slot) (v k : Idx) : (s.orderFed st r target d feed shorts).descriptor i v k =
    (s.descriptor i v k).map fun x => if i = r.slot ∧ v = st then fedDescriptor x r.seq (feed.get k) else x := by
  rw [State.descriptor_of_slots (s.orderFed_slots st r target d feed shorts), State.orderFoil_descriptor]
  exact congrArg _ (State.descriptor_of_slots (by simp) i v k)

theorem State.entry_of_slots {s t : State} (h : t.slots = s.slots) (j : Slot) (v : Idx) : t.entry j v = s.entry j v := by
  simp only [State.entry_eq, h]

theorem State.orderFed_entry {i : Slot} {v : Idx} (apart : ¬ (i = r.slot ∧ v = st)) :
    (s.orderFed st r target d feed shorts).entry i v = s.entry i v := by
  rw [State.entry_of_slots (s.orderFed_slots st r target d feed shorts), State.orderFoil_entry _ st r.slot r.seq feed apart]
  exact State.entry_of_slots (by simp) i v

theorem State.orderFed_sameButEntries : SameButEntries s (s.orderFed st r target d feed shorts) := by
  have out : SameButEntries s ((s.runOuts st r.seq shorts).updField r.seq st fun f =>
    { f with decision := d, status := .committed, target := some target, feed := some feed }) := .of_slots (by simp)
  exact (out.trans (State.orderFoil_sameButEntries _ st r.slot r.seq feed)).trans
    (.of_slots (s.orderFed_slots st r target d feed shorts))

theorem State.orderFed_elsewhere : SameElsewhere s (s.orderFed st r target d feed shorts) st := by
  have out : SameElsewhere s ((s.runOuts st r.seq shorts).updField r.seq st fun f =>
      { f with decision := d, status := .committed, target := some target, feed := some feed }) st :=
    (s.runOuts_elsewhere st r.seq shorts).trans (.of_same st rfl rfl rfl rfl rfl)
  exact ((out.trans (State.orderFoil_elsewhere _ st r.slot r.seq feed)).trans (State.updCalc_elsewhere _ st _)).trans
    (State.launch_elsewhere _ st r.seq false false)

theorem State.orderFed_issued {s : State} {r : TrackRecord} (found : s.record r.seq = some r)
    (new : ∀ x ∈ (s.seqr.get st).inFlight, x.seq ≠ r.seq) :
    OrderIssued s (s.orderFed st r target d feed shorts) st r.seq false (.strikeOrder r.seq d false target feed) := by
  let u := (((s.runOuts st r.seq shorts).updField r.seq st fun f =>
      { f with decision := d, status := .committed, target := some target, feed := some feed }).orderFoil st r.slot r.seq feed).updCalc st
    fun c => { c with last := some { target := target, seq := r.seq, slot := r.slot }, missed := 0 }
  let starts (c : Idx) : Bool := startsFirstOff (s.descriptor r.slot st c) (feed.get c)
  have track : u.track = (s.orderFed st r target d feed shorts).track := by simp [State.orderFed, u]
  have record : u.record r.seq = some (r.committedWith st target d feed starts) := by
    have seq : ∀ x : TrackRecord, (if x.seq = r.seq then x.committedWith st target d feed starts else x).seq = x.seq := fun x => by
      split <;> rfl
    have searched := findRecord_map_of_seq seq r.seq s.track
    have stored : findRecord r.seq s.track = some r := found
    rw [stored, Option.map_some, if_pos rfl] at searched
    unfold State.record
    rw [track, State.orderFed_track]
    exact searched
  have frame : (r.committedWith st target d feed starts).strikeOrder st false = .strikeOrder r.seq d false target feed := by
    simp [TrackRecord.strikeOrder, TrackRecord.committedWith, TrackRecord.joinFirstOff, TrackRecord.updStation, StationField.issued,
      StationField.feeds]
  have issued := State.launch_issued (s := u) record (by simpa [u] using new) false
  rw [frame] at issued
  exact issued.congr (by simp [u]) (by simp [u]) rfl rfl

theorem State.orderFed_faults :
    FaultsTaken st (shorts.map fun c => (.foilOut, some r.seq, some c)) false s (s.orderFed st r target d feed shorts) := by
  have rest : FaultsTaken st [] false (s.runOuts st r.seq shorts) (s.orderFed st r target d feed shorts) :=
    .of_units st (by simp) (by simp) (by simp)
  simpa using (s.runOuts_faults st r.seq shorts).trans rest

/-- What the order is handed over with after the lanes have run out keeps the notices. -/
theorem State.orderFed_notices :
    NoticesKept s (s.runOuts st r.seq shorts) ∧ NoticesKept (s.runOuts st r.seq shorts) (s.orderFed st r target d feed shorts) := by
  refine ⟨s.runOuts_notices st r.seq shorts, ?_⟩
  have stored : NoticesKept (s.runOuts st r.seq shorts) ((s.runOuts st r.seq shorts).updField r.seq st fun f =>
      { f with decision := d, status := .committed, target := some target, feed := some feed }) := .of_ports (by simp)
  exact (stored.trans (State.orderFoil_notices _ st r.slot r.seq feed)).trans (.of_ports (by simp [State.orderFed]))

theorem State.orderFed_noticed {c : Idx} (fed : 0 < feed.get c) {x : Descriptor} (there : s.descriptor r.slot st c = some x) :
    (x.code = .firstOff → x.stage = .vacant → Noticed (s.orderFed st r target d feed shorts) (.firstOffStruck st c)) ∧
      (x.code = .onReport → Noticed (s.orderFed st r target d feed shorts) (.laneAttn st c)) := by
  let u := (s.runOuts st r.seq shorts).updField r.seq st fun f =>
    { f with decision := d, status := .committed, target := some target, feed := some feed }
  have stands : u.descriptor r.slot st c = some x := (State.descriptor_of_slots (by simp [u]) _ _ _).trans there
  have kept : NoticesKept (u.orderFoil st r.slot r.seq feed) (s.orderFed st r target d feed shorts) :=
    .of_ports (by simp [State.orderFed, u])
  obtain ⟨first, report⟩ := u.orderFoil_noticed st r.slot r.seq feed fed stands
  exact ⟨fun code stage => (first code stage).kept kept, fun code => (report code).kept kept⟩

end

theorem State.commitWatched_faults (s : State) (st : Idx) (q : SeqNo) : FaultsTaken st [] false s (s.commitWatched st q) := by
  refine FaultsTaken.foldl _ (fun s w => ?_) _ s
  dsimp only
  split
  · refine .of_units st (by simp) (by simp) fun h => ?_
    unfold State.meetWatch State.assertStop
    dsimp only
    (repeat' split) <;> simp [h, StopRequest.add]
  · exact .refl st s

theorem State.commitOrder_fed {s : State} {st : Idx} {r : TrackRecord} {e : StationEntry} {target : Pos} {ds : Four Descriptor}
    (aim : (s.calcs.get st).aim r e (s.globals r.slot).p = { target := target, phasing := false, residual := .withinStep })
    (table : s.liftCase st r e { target := target, phasing := false, residual := .withinStep } = none) (foil : isFoil e.type = true)
    (codes : ∀ k, s.descriptor r.slot st k = some (ds.get k)) :
    s.commitOrder st r e = (s.orderFed st r target
      (if (Idx.all.any fun c => decide (0 < s.feedGiven st r ds c)) then .strike else .dry) (.tab (s.feedGiven st r ds))
      (s.feedShorts st r ds)).commitWatched st r.seq := by
  have some : (Four.tab (s.feedGiven st r ds)).any (fun n => decide (0 < n)) = Idx.all.any fun c => decide (0 < s.feedGiven st r ds c) := by
    simp only [Four.any, Idx.all, List.any_cons, List.any_nil, Bool.or_false, Bool.or_assoc]
    rfl
  unfold State.commitOrder State.decide5
  dsimp only
  rw [aim]
  dsimp only
  rw [if_neg (by simp), table]
  dsimp only
  rw [if_pos foil, State.laneFeeds_eq codes, some]
  rfl

theorem SameButEntries.slot_eq {s t : State} (h : SameButEntries s t) {j : Slot} (entries : ∀ st, t.entry j st = s.entry j st) :
    t.slots.get j = s.slots.get j := by
  rw [h j]
  simp only [entries, s.job_entries]

/-- Of lanes that come short one at most is one column, or none. -/
theorem columns_of_one {p : Idx → Bool} (one : ∀ c c', p c = true → p c' = true → c = c') :
    Idx.all.filter p = [] ∨ ∃ c, p c = true ∧ Idx.all.filter p = [c] := by
  cases found : Idx.all.filter p with
  | nil => exact .inl rfl
  | cons c cs =>
    have nodup : (c :: cs).Nodup := found ▸ List.Nodup.filter p (by decide)
    have short : ∀ k ∈ c :: cs, p k = true := fun k hk => (List.mem_filter.1 (found ▸ hk)).2
    refine .inr ⟨c, short c List.mem_cons_self, ?_⟩
    cases cs with
    | nil => rfl
    | cons k ks =>
      have same := one c k (short c (by simp)) (short k (by simp))
      simp [same] at nodup

end Sys2Proof.Machine

open Sys2Proof Sys2Proof.Machine

/-- Settles O46: the feeds are computed lane by lane, so the commit is one order with what they leave of the lanes and the descriptors; with
one lane short at most and HARD clear there, no unit trips. -/
theorem foilCommitsFeedTheirLanes : Obligations.FoilCommitsFeedTheirLanes := by
  intro st r s e l ds mirrored turn found run ready line room new entry type lanes lift phased last gap few slot unflagged real locked fast hot
    g target near lane length allowed short fed one clear decision noticed
  have codes : ∀ k, s.descriptor r.slot st k = some (ds.get k) := fun k => by simp [State.descriptor_eq, entry, lanes]
  have aim : (s.calcs.get st).aim r e (s.globals r.slot).p = { target := target, phasing := false, residual := .withinStep } := by
    rw [Calc.aim_of_phased _ phased last (gapTestFails_eq_false gap few slot)]
    exact phaseStep_within near
  have table : s.liftCase st r e { target := target, phasing := false, residual := .withinStep } = none := by
    rw [State.liftCase_eq _ _ _ _ rfl]
    simp [unflagged, real, locked, Nat.not_lt.2 fast, hot, lift]
  have foil : isFoil e.type = true := by
    cases kind : e.type <;> simp_all [isFoil]
  let feed : Four Nat := .tab fed
  let shorts : List Idx := Idx.all.filter short
  let u := s.orderFed st r target decision feed shorts
  let t := u.commitWatched st r.seq
  have ordered : s.commitRecord st r = t := by
    rw [State.commitRecord_order run ((mirrored st).trans ready) line room entry, State.commitOrder_fed aim table foil codes]
    rfl
  have shorted : ∀ c, c ∈ shorts ↔ short c = true := fun c => State.mem_feedShorts
  have faults : FaultsTaken st (shorts.map fun c => (.foilOut, some r.seq, some c)) false s t := by
    simpa using (s.orderFed_faults st r target decision feed shorts).trans (State.commitWatched_faults u st r.seq)
  have event : EventAt st (shorts.map fun c => (.foilOut, some r.seq, some c)) false s t :=
    ⟨faults, by rw [← ordered]; exact (s.commitRecord_within st r).trips⟩
  have steady : (s.units.get st).hard.toNat + (shorts.map fun c => ((.foilOut, some r.seq, some c) : FaultKey)).length < 2 := by
    obtain none | ⟨c, out, only⟩ := columns_of_one one
    · have few := Bool.toNat_le (s.units.get st).hard
      simp only [shorts, none, List.map_nil, List.length_nil]
      omega
    · simp [shorts, only, clear c out]
  have kept : NoticesKept u t := State.commitWatched_notices u st r.seq
  obtain ⟨ranOut, sent⟩ := s.orderFed_notices st r target decision feed shorts
  have since : NoticesKept s t := ranOut.trans (sent.trans kept)
  have starts : ∀ c, startsFirstOff (s.descriptor r.slot st c) (feed.get c) = (decide ((ds.get c).code = .firstOff) && decide (0 < fed c)) :=
    fun c => by
      rw [codes, Four.get_tab]
      exact State.startsFirstOff_given c
  refine ⟨t, ?_, ?_, ?_, ?_, ?_, ?_, ?_, ?_, ?_, ?_, ?_, ?_, ?_⟩
  · rw [exec_commit_turn turn, ordered]
    exact (event.steady mirrored (.inr steady)).1
  · refine RecordBecomes.marked ⟨fun x => x.watchMark, ?_⟩ (u.commitWatched_becomes st r.seq) fun x => rfl
    have track := s.orderFed_track st r target decision feed shorts
    simp only [starts] at track
    exact track
  · intro c
    have lane := s.orderFed_lane st r target decision feed shorts c
    simp only [shorted, feed, Four.get_tab] at lane
    have stays : t.lanes = u.lanes := by simp [t]
    rw [stays]
    exact lane
  · exact (State.orderFed_issued st target decision feed shorts found new).congr rfl rfl (by simp [t, u]) (by simp [t, u])
  · exact (s.orderFed_elsewhere st r target decision feed shorts).trans (u.commitWatched_elsewhere st r.seq)
  · intro c
    have same : t.descriptor r.slot st c = u.descriptor r.slot st c := State.descriptor_of_slots (by simp [t]) _ _ _
    rw [same, State.orderFed_descriptor, codes, Option.map_some, if_pos ⟨rfl, rfl⟩, Four.get_tab]
    exact congrArg some (State.fedDescriptor_given r.seq c)
  · intro v other
    exact (State.entry_of_slots (s := u) (by simp [t]) _ _).trans (s.orderFed_entry st r target decision feed shorts fun both => other both.2)
  · have slots : t.slots = u.slots := by simp [t]
    rw [slots]
    refine (s.orderFed_sameButEntries st r target decision feed shorts).slot_eq fun v => ?_
    exact s.orderFed_entry st r target decision feed shorts fun both => by cases j : r.slot <;> simp [j, Slot.other] at both
  · intro c some
    obtain ⟨first, report⟩ := s.orderFed_noticed st r target decision feed shorts (c := c) (by simpa [feed] using some) (codes c)
    refine ⟨fun code => ?_, fun code => ((report code).kept kept).since since⟩
    have stage : (ds.get c).stage = .vacant := by
      have starting := starts c
      rw [codes, code] at starting
      by_contra taken
      simp [startsFirstOff, taken, some] at starting
    exact ((first code stage).kept kept).since since
  · intro c out
    have only : ∃ k, shorts = [k] := by
      obtain none | ⟨k, -, only⟩ := columns_of_one one
      · have listed := (shorted c).2 out
        simp only [shorts, none] at listed
        cases listed
      · exact ⟨k, only⟩
    obtain ⟨k, only⟩ := only
    refine ⟨?_, ?_, ?_, ?_⟩
    · exact (((s.runOuts_noticed st r.seq shorts ((shorted c).2 out)).kept sent).kept kept).since since
    · simp [faults.hard, only]
    · have first := faults.first
      rw [only] at first
      intro none
      rw [none] at first
      cases (s.units.get st).first <;> simp at first
    · rw [(event.steady mirrored (.inr steady)).2 st, ready]
  · intro none
    have empty : shorts = [] := List.filter_eq_nil_iff.2 fun c _ => by simp [none c]
    have units : t.units = (s.runOuts st r.seq shorts).units := by simp [t, u]
    rw [units, empty]
    rfl
  · simp [t, u, State.orderFed_calcs]
  · have lineUnit := faults.line
    refine State.ext_fields ?_ ?_ ?_ ?_ ?_ ?_ ?_ ?_ ?_ ?_ ?_ ?_ ?_ ?_ ?_ ?_ ?_ ?_ ?_ ?_ ?_
    case refine_12 => exact lineUnit
    all_goals simp [t, u]

end

section
/-! SUPPORT. The state at which a trip and hold entry do not commute (O30; R141, log entry 42). -/

namespace Sys2Proof.Machine

/-- Station S0 was PHASED with nothing in flight when its unit tripped in RUN, and the web has not moved since: the station is TRIPPED and
UNPHASED, and what the trip found still waits for a hold entry. -/
def tripJustTaken : State := { State.reset with
  line := .run
  units := State.reset.units.upd .i0 fun u => { u with hard := true, tripped := true }
  seqr := State.reset.seqr.upd .i0 fun q =>
    { q with tripped := true, beforeTrip := some { phased := true, withdrawn := none, idleAt := some State.reset.web } } }

theorem tripJustTaken_mirrored : TripsMirrored tripJustTaken := fun st => by cases st <;> rfl

/-- A second trip puts what it finds itself in the place of what the first one found: the station UNPHASED. -/
theorem tripJustTaken_tripsAgain :
    ((tripJustTaken.tripEffects .i0).enterHold.seqr.get .i0).context.map (·.phased) = some false := by decide

/-- Hold entry first saves the phase state that the first trip found. -/
theorem tripJustTaken_enterHold :
    ((tripJustTaken.enterHold.tripEffects .i0).seqr.get .i0).context.map (·.phased) = some true := by decide

end Sys2Proof.Machine

open Sys2Proof Sys2Proof.Machine

/-- Refutes O30: its last clause does not ask that the unit has not tripped yet. At a station whose unit has just tripped with nothing in
flight, a further trip forgets the phase state that the first one found, where hold entry taken first has saved it. -/
theorem not_holdEntrySavesAndAborts : ¬ Obligations.HoldEntrySavesAndAborts := by
  intro h
  obtain ⟨-, -, commute⟩ := (h tripJustTaken tripJustTaken_mirrored).1 rfl
  have same : ((tripJustTaken.tripEffects .i0).enterHold.seqr.get .i0).context =
      ((tripJustTaken.enterHold.tripEffects .i0).seqr.get .i0).context := commute .i0 (by decide) (.inl rfl)
  have phased := congrArg (Option.map (·.phased)) same
  rw [tripJustTaken_tripsAgain, tripJustTaken_enterHold] at phased
  cases phased

end

section
/-! SUPPORT. One restrike (O33; R100, R147): the recheck of its feeds, and the order that carries what is kept of them. -/

namespace Sys2Proof.Machine

/-! ### The recheck (R100) -/

section
variable {s : State} {st : Idx} {e : ContextEntry}

/-- The lanes that come short at the recheck of an entry's feeds. -/
def State.recheckShorts (s : State) (st : Idx) (e : ContextEntry) : List Idx :=
  Idx.all.filter fun c => restrikeShort (s.lane st c) (e.feed.get c)

/-- The feed of a lane that the recheck of an entry keeps. -/
def State.recheckKept (s : State) (st : Idx) (e : ContextEntry) (c : Idx) : Nat :=
  restrikeFeed (s.lane st c) (s.descriptor e.slot st c) e.seq (e.feed.get c)

theorem restrikeFeed_zero (l : Lane) (d : Option Descriptor) (q : SeqNo) : restrikeFeed l d q 0 = 0 := by simp [restrikeFeed]

theorem State.recheckFeed_eq {t : State} {c : Idx} (slots : t.slots = s.slots) (lane : t.lane st c = s.lane st c) :
    t.recheckFeed st e c =
      (t.runOutIf st e.seq (fun c => restrikeShort (s.lane st c) (e.feed.get c)) c, s.recheckKept st e c) := by
  unfold State.recheckFeed State.runOutIf State.recheckKept
  rw [State.descriptor_of_slots slots]
  dsimp only
  rw [lane, LaneState.usable_eq]
  by_cases none : e.feed.get c = 0
  · simp [none, restrikeShort, restrikeFeed_zero]
  · have some : 0 < e.feed.get c := Nat.pos_of_ne_zero none
    by_cases usable : (s.lane st c).state = .ready ∨ (s.lane st c).state = .low
    · by_cases short : (s.lane st c).remaining < (s.lane st c).reserved + e.feed.get c
      · simp [none, some, usable, short, restrikeShort, restrikeFeed]
      · have feeds : ¬ ((s.lane st c).state ≠ .ready ∧ (s.lane st c).state ≠ .low) := fun h => usable.elim h.1 h.2
        rw [if_neg (by simp [none, usable]), if_neg short]
        cases s.descriptor e.slot st c with
        | none => simp [feeds, short, restrikeShort, restrikeFeed]
        | some d =>
          cases code : d.code <;> cases stage : d.stage <;> simp [feeds, short, restrikeShort, restrikeFeed, code, stage]
          next q => by_cases same : q = e.seq <;> simp [same]
    · have unusable : (s.lane st c).state ≠ .ready ∧ (s.lane st c).state ≠ .low := not_or.1 usable
      simp [unusable, restrikeShort, restrikeFeed]

theorem State.recheckFeeds_eq :
    s.recheckFeeds st e = (s.runOuts st e.seq (s.recheckShorts st e), .tab (s.recheckKept st e)) :=
  feeds_of_columns (step := fun t c => t.recheckFeed st e c) fun _ _ slots lane => State.recheckFeed_eq slots lane

end

/-! ### The station entries (R180) -/

theorem State.setDescriptor_type (s : State) (j : Slot) (st c : Idx) (d : Descriptor) (i : Slot) (v : Idx) :
    ((s.setDescriptor j st c d).entry i v).map (·.type) = (s.entry i v).map (·.type) := by
  unfold State.setDescriptor
  cases entry : s.entry j st with
  | none => rfl
  | some e =>
    dsimp only
    rw [State.setEntry_entry entry]
    by_cases here : i = j ∧ v = st
    · obtain ⟨rfl, rfl⟩ := here
      simp [entry]
    · rw [if_neg here]

theorem State.orderFoil_type (s : State) (st : Idx) (j : Slot) (q : SeqNo) (feed : Four Nat) (i : Slot) (v : Idx) :
    ((s.orderFoil st j q feed).entry i v).map (·.type) = (s.entry i v).map (·.type) := by
  have column : ∀ (t : State) (c : Idx), ((t.feedColumn st j q feed c).entry i v).map (·.type) = (t.entry i v).map (·.type) := fun t c => by
    unfold State.feedColumn
    split
    next fed =>
      obtain ⟨slots, -⟩ | ⟨d, -, slots⟩ := t.feedEffect_slots st j q c fed
      · rw [State.entry_of_slots slots]
      · rw [State.entry_of_slots slots, State.setDescriptor_type]
    · rfl
  have kept : ∀ l : List Idx, ∀ t : State, ((t.feedColumns st j q feed l).entry i v).map (·.type) = (t.entry i v).map (·.type) := fun l => by
    induction l with
    | nil => exact fun t => rfl
    | cons c cs ih => exact fun t => (ih _).trans (column t c)
  exact kept Idx.all _

/-! ### The order (R147) -/

/-- The record that a restrike leaves. -/
def TrackRecord.restruckAs (x : TrackRecord) (st : Idx) (e : ContextEntry) (d : Decision) (feed : Four Nat) (starts : Idx → Bool) :
    TrackRecord :=
  (x.joinFirstOff st starts).updStation st fun f =>
    { f with decision := d, status := .committed, target := some e.target, feed := some feed, report := none }

/-- The foil and the record of a restrike, before it is issued. -/
def State.restrikeMade (s : State) (st : Idx) (e : ContextEntry) : State :=
  ((s.runOuts st e.seq (s.recheckShorts st e)).orderFoil st e.slot e.seq (.tab (s.recheckKept st e))).updField e.seq st fun f =>
    { f with decision := s.restrikeDecision st e (.tab (s.recheckKept st e)), status := .committed, target := some e.target,
             feed := some (.tab (s.recheckKept st e)), report := none }

section
variable (s : State) (st : Idx) (e : ContextEntry)

theorem State.restrike_eq : s.restrike st e = (s.restrikeMade st e).launch st e.seq false true := by
  unfold State.restrike
  rw [State.recheckFeeds_eq]
  rfl

@[simp] theorem State.restrikeMade_frame :
    let t := s.restrikeMade st e
    let u := s.runOuts st e.seq (s.recheckShorts st e)
    t.web = s.web ∧ t.reader = s.reader ∧ t.nextSeq = s.nextSeq ∧ t.outcomes = s.outcomes ∧ t.heat = s.heat ∧ t.splices = s.splices ∧
      t.settings = s.settings ∧ t.line = s.line ∧ t.estop = s.estop ∧ t.pending = s.pending ∧ t.watches = s.watches ∧
      t.calcs = s.calcs ∧ t.seqr = s.seqr ∧ t.links = s.links ∧ t.units = u.units ∧ t.lineUnit = u.lineUnit ∧ t.stopReq = u.stopReq := by
  simp [State.restrikeMade]

theorem State.restrike_track : (s.restrike st e).track = s.track.map fun x =>
    if x.seq = e.seq then x.restruckAs st e (s.restrikeDecision st e (.tab (s.recheckKept st e))) (.tab (s.recheckKept st e)) fun c =>
      startsFirstOff (s.descriptor e.slot st c) (s.recheckKept st e c)
    else x := by
  have slots : (s.runOuts st e.seq (s.recheckShorts st e)).slots = s.slots := by simp
  rw [State.restrike_eq]
  simp only [State.launch_frame, State.restrikeMade, State.updField, State.updRecord, State.orderFoil_track, State.runOuts_frame,
    State.descriptor_of_slots slots, List.map_map, Four.get_tab]
  refine List.map_congr_left fun x _ => ?_
  by_cases seq : x.seq = e.seq
  · have kept : ∀ starts, (x.joinFirstOff st starts).seq = e.seq := fun _ => seq
    simp [seq, kept, TrackRecord.restruckAs]
  · simp [seq]

theorem State.restrike_record (q : SeqNo) : (s.restrike st e).record q = (s.record q).map fun x =>
    if x.seq = e.seq then x.restruckAs st e (s.restrikeDecision st e (.tab (s.recheckKept st e))) (.tab (s.recheckKept st e)) fun c =>
      startsFirstOff (s.descriptor e.slot st c) (s.recheckKept st e c)
    else x := by
  have meaning : (s.restrike st e).record q = findRecord q (s.restrike st e).track := rfl
  rw [meaning, State.restrike_track]
  exact findRecord_map_of_seq (fun x => by split <;> rfl) q s.track

theorem State.restrike_lane (c : Idx) : (s.restrike st e).lane st c =
    restrikeLane (s.lane st c) (s.descriptor e.slot st c) e.seq (e.feed.get c) := by
  have all : c ∈ Idx.all := by cases c <;> decide
  have lanes : (s.restrike st e).lanes =
      ((s.runOuts st e.seq (s.recheckShorts st e)).orderFoil st e.slot e.seq (.tab (s.recheckKept st e))).lanes := by
    simp [State.restrike_eq, State.restrikeMade]
  rw [State.lane_of_lanes lanes, State.orderFoil_lane, State.runOuts_lane, Four.get_tab]
  by_cases short : restrikeShort (s.lane st c) (e.feed.get c) = true <;>
    simp [State.recheckShorts, all, short, restrikeLane, State.recheckKept]

theorem State.restrike_slots : (s.restrike st e).slots =
    ((s.runOuts st e.seq (s.recheckShorts st e)).orderFoil st e.slot e.seq (.tab (s.recheckKept st e))).slots := by
  simp [State.restrike_eq, State.restrikeMade]

theorem State.restrike_descriptor (i : Slot) (v k : Idx) : (s.restrike st e).descriptor i v k =
    (s.descriptor i v k).map fun x => if i = e.slot ∧ v = st then fedDescriptor x e.seq (s.recheckKept st e k) else x := by
  rw [State.descriptor_of_slots (s.restrike_slots st e), State.orderFoil_descriptor, Four.get_tab]
  exact congrArg _ (State.descriptor_of_slots (by simp) i v k)

theorem State.restrike_type (i : Slot) (v : Idx) : ((s.restrike st e).entry i v).map (·.type) = (s.entry i v).map (·.type) := by
  rw [State.entry_of_slots (s.restrike_slots st e), State.orderFoil_type]
  exact congrArg _ (State.entry_of_slots (by simp) i v)

theorem State.restrike_elsewhere : SameElsewhere s (s.restrike st e) st := by
  have out := s.runOuts_elsewhere st e.seq (s.recheckShorts st e)
  have made : SameElsewhere s (s.restrikeMade st e) st :=
    (out.trans (State.orderFoil_elsewhere _ st e.slot e.seq _)).trans (.of_same st rfl rfl rfl rfl rfl)
  rw [State.restrike_eq]
  exact made.trans (State.launch_elsewhere _ st e.seq false true)

theorem State.restrike_faults :
    FaultsTaken st ((s.recheckShorts st e).map fun c => (.foilOut, some e.seq, some c)) false s (s.restrike st e) := by
  have rest : FaultsTaken st [] false (s.runOuts st e.seq (s.recheckShorts st e)) (s.restrike st e) := by
    rw [State.restrike_eq]
    exact .of_units st (by simp) (by simp) (by simp)
  simpa using (s.runOuts_faults st e.seq (s.recheckShorts st e)).trans rest

/-- What follows the lanes that run out keeps the notices. -/
theorem State.restrike_notices : NoticesKept s (s.runOuts st e.seq (s.recheckShorts st e)) ∧
    NoticesKept (s.runOuts st e.seq (s.recheckShorts st e)) (s.restrike st e) := by
  refine ⟨State.runOuts_notices _ _ _ _, (State.orderFoil_notices _ st e.slot e.seq (.tab (s.recheckKept st e))).trans ?_⟩
  exact .of_ports (by simp [State.restrike_eq, State.restrikeMade])

theorem State.restrike_noticed_out {c : Idx} (short : restrikeShort (s.lane st c) (e.feed.get c) = true) :
    Noticed (s.restrike st e) (.foilOut st c) := by
  have all : c ∈ Idx.all := by cases c <;> decide
  exact (State.runOuts_noticed s st e.seq _ (by simp [State.recheckShorts, all, short])).kept (s.restrike_notices st e).2

theorem State.restrike_noticed (c : Idx) :
    (startsFirstOff (s.descriptor e.slot st c) (s.recheckKept st e c) = true → Noticed (s.restrike st e) (.firstOffStruck st c)) ∧
      ((∃ d ∈ s.descriptor e.slot st c, d.code = .onReport) → 0 < s.recheckKept st e c → Noticed (s.restrike st e) (.laneAttn st c)) := by
  let u := s.runOuts st e.seq (s.recheckShorts st e)
  have stands : u.descriptor e.slot st c = s.descriptor e.slot st c := State.descriptor_of_slots (by simp [u]) _ _ _
  have kept : NoticesKept (u.orderFoil st e.slot e.seq (.tab (s.recheckKept st e))) (s.restrike st e) :=
    .of_ports (by simp [State.restrike_eq, State.restrikeMade, u])
  have noticed : ∀ d, s.descriptor e.slot st c = some d → 0 < s.recheckKept st e c → _ := fun d there fed =>
    u.orderFoil_noticed st e.slot e.seq (.tab (s.recheckKept st e)) (c := c) (by rwa [Four.get_tab]) (stands.trans there)
  refine ⟨fun starts => ?_, fun ⟨d, there, code⟩ fed => ((noticed d there fed).2 code).kept kept⟩
  cases there : s.descriptor e.slot st c with
  | none => simp [there, startsFirstOff] at starts
  | some d =>
    simp only [there, startsFirstOff, Bool.and_eq_true, decide_eq_true_eq] at starts
    obtain ⟨⟨fed, code⟩, stage⟩ := starts
    exact ((noticed d there fed).1 code stage).kept kept

theorem State.restrike_restrikes (x : ContextEntry) : (s.restrike st e).restrikes x = s.restrikes x := by
  simp [State.restrikes, State.restrike_record]

end

/-! ### The frame of the order (R68, R147) -/

section
variable {s : State} {st : Idx} {e : ContextEntry} {r : TrackRecord}

theorem State.restrikeMade_record (record : s.record e.seq = some r) : (s.restrikeMade st e).record e.seq =
    some (r.restruckAs st e (s.restrikeDecision st e (.tab (s.recheckKept st e))) (.tab (s.recheckKept st e)) fun c =>
      startsFirstOff (s.descriptor e.slot st c) (s.recheckKept st e c)) := by
  have track : (s.restrikeMade st e).track = (s.restrike st e).track := by simp [State.restrike_eq]
  have meaning : (s.restrikeMade st e).record e.seq = (s.restrike st e).record e.seq := by simp only [State.record, track]
  rw [meaning, State.restrike_record, record, Option.map_some, if_pos (State.record_seq record)]

/-- Where nothing is awaited and nothing in flight, the order goes out and is awaited. -/
theorem State.restrike_sent (record : s.record e.seq = some r) (idle : (s.seqr.get st).awaited = .none)
    (empty : (s.seqr.get st).inFlight = []) :
    (s.restrike st e).seqr.get st = { s.seqr.get st with
      inFlight := [{ seq := e.seq, phasing := false, restrike := true }], awaited := .order e.seq, queue := none, timer := some 500 } ∧
    (s.restrike st e).links.get st = (s.links.get st).hand
      (.strikeOrder e.seq (s.restrikeDecision st e (.tab (s.recheckKept st e))) false e.target (.tab (s.recheckKept st e))) := by
  have seq := State.record_seq record
  have found : ((s.restrikeMade st e).updSeqr st fun sq =>
      { sq with inFlight := sq.inFlight ++ [{ seq := e.seq, phasing := false, restrike := true }] }).record e.seq = _ :=
    State.restrikeMade_record record
  rw [State.restrike_eq, State.launch, State.issue, if_pos (by simp [State.updSeqr, idle]), State.transmit, found]
  simp [State.updSeqr, State.updLink, empty, Sequencer.phasing, TrackRecord.strikeOrder, TrackRecord.restruckAs, TrackRecord.updStation,
    TrackRecord.joinFirstOff, StationField.issued, StationField.feeds, Config.ackTimeout, seq]

/-- Where an order is awaited, it waits in the link queue. -/
theorem State.restrike_queued (awaits : (s.seqr.get st).awaited ≠ .none) :
    (s.restrike st e).seqr.get st = { s.seqr.get st with
      inFlight := (s.seqr.get st).inFlight ++ [{ seq := e.seq, phasing := false, restrike := true }], queue := some e.seq } ∧
    (s.restrike st e).links.get st = s.links.get st := by
  rw [State.restrike_eq, State.launch, State.issue, if_neg (by simpa [State.updSeqr] using awaits)]
  simp [State.updSeqr]

theorem State.restrikeDecision_eq {types : Option StationEntry} (type : (s.entry e.slot st).map (·.type) = types.map (·.type))
    (fed : Idx → Nat) : s.restrikeDecision st e (.tab fed) =
      if e.decision = .strike ∧ (∃ p ∈ types, p.type ≠ .emboss) ∧ Idx.all.all (fun c => fed c == 0) then .dry else e.decision := by
  have zero : (Four.tab fed = .all 0) ↔ Idx.all.all (fun c => fed c == 0) = true := by
    constructor
    · intro same
      have each : ∀ c, fed c = 0 := fun c => by simpa using congrArg (fun f : Four Nat => f.get c) same
      simp [each]
    · intro each
      simp only [List.all_eq_true, beq_iff_eq] at each
      exact Four.ext_get fun c => by simpa using each c (by cases c <;> decide)
  have foil : ∀ x : StationType, isFoil x = true ↔ x ≠ .emboss := fun x => by cases x <;> simp [isFoil]
  unfold State.restrikeDecision
  cases entry : s.entry e.slot st with
  | none =>
    rw [entry] at type
    have absent : types = none := by simpa using type.symm
    simp [absent]
  | some p =>
    rw [entry] at type
    obtain ⟨p', there, same⟩ : ∃ p', types = some p' ∧ p'.type = p.type := by simpa using type.symm
    simp [there, foil, same, zero]

end

end Sys2Proof.Machine

end

section
/-! SUPPORT. The restrikes of a station's context, one after the other (O33; R100, R146, R147). -/

namespace Sys2Proof.Machine

/-! ### The foil that the rechecks see (R100) -/

/-- The lanes of a station, and its descriptors in both slots. -/
abbrev StationFoil := (Idx → Lane) × (Slot → Idx → Option Descriptor)

def State.foilAt (s : State) (st : Idx) : StationFoil := (s.lane st, fun j c => s.descriptor j st c)

/-- The feed that the recheck of an entry keeps on a lane. -/
def feedKept (f : StationFoil) (e : ContextEntry) (c : Idx) : Nat := restrikeFeed (f.1 c) (f.2 e.slot c) e.seq (e.feed.get c)

/-- The foil after an entry has been ordered again. -/
def foilAfter (f : StationFoil) (e : ContextEntry) : StationFoil :=
  (fun c => restrikeLane (f.1 c) (f.2 e.slot c) e.seq (e.feed.get c),
   fun j c => (f.2 j c).map fun d => if j = e.slot then fedDescriptor d e.seq (feedKept f e c) else d)

/-- The faults of the lanes that run out at the rechecks of some entries. -/
def recheckFaults (f : StationFoil) : List ContextEntry → List FaultKey
  | [] => []
  | e :: es =>
    (Idx.all.filter fun c => restrikeShort (f.1 c) (e.feed.get c)).map (fun c => (.foilOut, some e.seq, some c)) ++
      recheckFaults (foilAfter f e) es

theorem State.restrike_foilAt (s : State) (st : Idx) (e : ContextEntry) : (s.restrike st e).foilAt st = foilAfter (s.foilAt st) e := by
  refine Prod.ext (funext fun c => s.restrike_lane st e c) (funext fun j => funext fun c => ?_)
  refine (s.restrike_descriptor st e j st c).trans (congrArg (fun f => Option.map f _) (funext fun d => ?_))
  simp only [and_true]
  rfl

/-- A lane that has run out at one recheck does not run out at the next. -/
theorem restrikeShort_after (f : StationFoil) (e x : ContextEntry) (c : Idx) (short : restrikeShort (f.1 c) (e.feed.get c) = true) :
    restrikeShort ((foilAfter f e).1 c) (x.feed.get c) = false := by
  have out : ((foilAfter f e).1 c).state = .out := by simp [foilAfter, restrikeLane, short]
  simp [restrikeShort, out]

theorem length_filter_or {p q : Idx → Bool} (apart : ∀ c, p c = true → q c = false) (l : List Idx) :
    (l.filter p).length + (l.filter q).length = (l.filter fun c => p c || q c).length := by
  induction l with
  | nil => rfl
  | cons c cs ih =>
    cases first : p c
    · cases second : q c <;> simp [first, second] <;> omega
    · simp [first, apart c first]
      omega

theorem recheckFaults_length (f : StationFoil) (e : ContextEntry) {rest : List ContextEntry} (few : rest.length ≤ 1) :
    (recheckFaults f (e :: rest)).length = (Idx.all.filter fun c => restrikeShort (f.1 c) (e.feed.get c) ||
      rest.any fun x => restrikeShort ((foilAfter f e).1 c) (x.feed.get c)).length := by
  match rest, few with
  | [], _ => simp [recheckFaults]
  | [x], _ =>
    have both := length_filter_or (p := fun c => restrikeShort (f.1 c) (e.feed.get c))
      (q := fun c => restrikeShort ((foilAfter f e).1 c) (x.feed.get c)) (fun c => restrikeShort_after f e x c) Idx.all
    simpa [recheckFaults] using both

/-! ### The entries in turn -/

/-- Some entries of a station's context are ordered again, one after the other. -/
def State.restrikeAll (s : State) (st : Idx) (l : List ContextEntry) : State := l.foldl (fun s e => s.restrike st e) s

section
variable (s : State) (st : Idx) (l : List ContextEntry)

@[simp] theorem State.restrikeAll_frame :
    (s.restrikeAll st l).web = s.web ∧ (s.restrikeAll st l).reader = s.reader ∧ (s.restrikeAll st l).nextSeq = s.nextSeq ∧
    (s.restrikeAll st l).outcomes = s.outcomes ∧ (s.restrikeAll st l).calcs = s.calcs ∧ (s.restrikeAll st l).heat = s.heat ∧
    (s.restrikeAll st l).splices = s.splices ∧ (s.restrikeAll st l).watches = s.watches ∧
    (s.restrikeAll st l).settings = s.settings ∧ (s.restrikeAll st l).line = s.line ∧ (s.restrikeAll st l).estop = s.estop ∧
    (s.restrikeAll st l).pending = s.pending := by
  induction l generalizing s with
  | nil => simp [State.restrikeAll]
  | cons e es ih => simpa [State.restrikeAll] using ih (s.restrike st e)

theorem State.restrikeAll_foilAt : (s.restrikeAll st l).foilAt st = l.foldl foilAfter (s.foilAt st) := by
  induction l generalizing s with
  | nil => rfl
  | cons e es ih =>
    have rest := ih (s.restrike st e)
    rw [State.restrike_foilAt] at rest
    exact rest

theorem State.restrikeAll_elsewhere : SameElsewhere s (s.restrikeAll st l) st :=
  SameElsewhere.foldl (fun s e => s.restrike st e) (fun s e => s.restrike_elsewhere st e) l s

theorem State.restrikeAll_faults : FaultsTaken st (recheckFaults (s.foilAt st) l) false s (s.restrikeAll st l) := by
  induction l generalizing s with
  | nil => exact .refl st s
  | cons e es ih =>
    have rest := ih (s.restrike st e)
    rw [State.restrike_foilAt] at rest
    exact (s.restrike_faults st e).trans rest

theorem State.restrikeAll_units (none : recheckFaults (s.foilAt st) l = []) : (s.restrikeAll st l).units = s.units := by
  induction l generalizing s with
  | nil => rfl
  | cons e es ih =>
    obtain ⟨now, later⟩ := List.append_eq_nil_iff.1 none
    rw [← State.restrike_foilAt] at later
    have out : s.recheckShorts st e = [] := List.map_eq_nil_iff.1 now
    have here : (s.restrike st e).units = (s.runOuts st e.seq (s.recheckShorts st e)).units := by simp [State.restrike_eq]
    rw [out] at here
    exact (ih (s.restrike st e) later).trans here

theorem State.restrikeAll_notices : NoticesKept s (s.restrikeAll st l) :=
  NoticesKept.foldl (fun s e => s.restrike st e) (fun s e => (s.restrike_notices st e).1.trans (s.restrike_notices st e).2) l s

/-- The entries that stand to be re-ordered stay so, one restrike after the other. -/
theorem State.restrikeAll_filter {p : ContextEntry → Bool} (h : ∀ x, s.restrikes x = p x) :
    l.foldl (fun s e => if s.restrikes e then s.restrike st e else s) s = s.restrikeAll st (l.filter p) := by
  induction l generalizing s with
  | nil => rfl
  | cons e es ih =>
    rw [List.foldl_cons, h e]
    cases stands : p e with
    | false =>
      rw [List.filter_cons_of_neg (by simp [stands])]
      exact ih s h
    | true =>
      rw [List.filter_cons_of_pos stands]
      exact ih (s.restrike st e) fun x => (s.restrike_restrikes st e x).trans (h x)

end

/-! ### What of a record an order writes (R24, R92) -/

/-- The fields of a station and the first-off feeds of a record of the track. -/
def State.sentAt (s : State) (st : Idx) (q : SeqNo) : Option (StationField × Four (Four Bool)) :=
  (s.record q).map fun r => (r.st.get st, r.firstOff)

theorem State.sentAt_of_marked {s t : State} (h : Marked s t) (st : Idx) (q : SeqNo) : t.sentAt st q = s.sentAt st q := by
  obtain ⟨mark, track⟩ := h
  have found : t.record q = (s.record q).map fun x => { x with watchMark := mark x } := by
    unfold State.record
    rw [track]
    exact findRecord_map_of_seq (g := fun x => { x with watchMark := mark x }) (fun _ => rfl) q s.track
  rw [State.sentAt, found, Option.map_map]
  rfl

section
variable (s : State) (st : Idx)

theorem State.restrike_sentAt (e : ContextEntry) : (s.restrike st e).sentAt st e.seq = (s.sentAt st e.seq).map fun p =>
    ({ p.1 with decision := s.restrikeDecision st e (.tab (s.recheckKept st e)), status := .committed, target := some e.target,
                feed := some (.tab (s.recheckKept st e)), report := none },
     p.2.upd st fun row => .tab fun c => row.get c || startsFirstOff (s.descriptor e.slot st c) (s.recheckKept st e c)) := by
  rw [State.sentAt, State.sentAt, State.restrike_record]
  cases found : s.record e.seq with
  | none => rfl
  | some r => simp [State.record_seq found, TrackRecord.restruckAs, TrackRecord.updStation, TrackRecord.joinFirstOff]

theorem State.restrike_sentAt_other {e : ContextEntry} {q : SeqNo} (other : q ≠ e.seq) :
    (s.restrike st e).sentAt st q = s.sentAt st q := by
  rw [State.sentAt, State.sentAt, State.restrike_record]
  cases found : s.record q with
  | none => rfl
  | some r => simp [State.record_seq found, other]

theorem State.restrikeAll_sentAt_other {l : List ContextEntry} {q : SeqNo} (other : ∀ e ∈ l, q ≠ e.seq) :
    (s.restrikeAll st l).sentAt st q = s.sentAt st q := by
  induction l generalizing s with
  | nil => rfl
  | cons e es ih =>
    exact (ih (s.restrike st e) fun x hx => other x (by simp [hx])).trans (s.restrike_sentAt_other st (other e (by simp)))

end

end Sys2Proof.Machine

end

section
/-! SUPPORT. The RESUME that orders one or two entries again, and the trip of the station at which it does (O33; R80, R84, R146, R155). -/

namespace Sys2Proof.Machine

/-! ### RESUME with entries at one station (R145, R146) -/

section
variable {s : State} {st : Idx}

theorem foldl_restrikeStation (others : ∀ v, v ≠ st → s.entries v = []) :
    Idx.all.foldl (fun s v => s.restrikeStation v) s = s.restrikeStation st := by
  have quiet : ∀ (t : State) (l : List Idx), (∀ v ∈ l, t.entries v = []) → l.foldl (fun s v => s.restrikeStation v) t = t :=
    fun t l none => foldl_fixed_of_mem fun v hv => State.restrikeStation_quiet fun e he => by
      rw [none v hv] at he
      cases he
  have member : st ∈ Idx.all := by cases st <;> decide
  obtain ⟨before, after, all⟩ := List.append_of_mem member
  have nodup : (before ++ st :: after).Nodup := all ▸ (by decide : Idx.all.Nodup)
  have apart : st ∉ before ∧ st ∉ after := by
    rw [List.nodup_append, List.nodup_cons] at nodup
    exact ⟨fun h => nodup.2.2 st h st (by simp) rfl, nodup.2.1.1⟩
  have elsewhere : SameElsewhere s (s.restrikeStation st) st :=
    SameElsewhere.foldl (fun s e => if s.restrikes e then s.restrike st e else s) (fun s e => by
      split
      · exact s.restrike_elsewhere st e
      · exact .of_same st rfl rfl rfl rfl rfl) _ s
  rw [all, List.foldl_append, List.foldl_cons, quiet s before fun v hv => others v fun same => apart.1 (same ▸ hv)]
  refine quiet _ after fun v hv => ?_
  have other : v ≠ st := fun same => apart.2 (same ▸ hv)
  have kept := others v other
  unfold State.entries at kept ⊢
  rwa [(elsewhere v other).1]

theorem State.resumeLine_of_one (others : ∀ v, v ≠ st → s.entries v = []) :
    s.resumeLine = (s.trimsLoaded.restrikeAll st ((s.entries st).filter s.restrikes)).dropContexts.reversalTest := by
  have entries : ∀ v, s.trimsLoaded.entries v = s.entries v := fun v => by simp [State.entries]
  have station := foldl_restrikeStation (s := s.trimsLoaded) (st := st) fun v hv => (entries v).trans (others v hv)
  have turns : s.trimsLoaded.restrikeStation st = s.trimsLoaded.restrikeAll st ((s.entries st).filter s.restrikes) := by
    rw [← entries]
    exact State.restrikeAll_filter _ st _ s.trimsLoaded_restrikes
  rw [turns] at station
  exact congrArg (fun t : State => t.dropContexts.reversalTest) station

theorem State.firstInvalid_of_one (others : ∀ v, v ≠ st → s.entries v = []) (valid : s.restrikeCause st = none) :
    s.firstInvalid = none := by
  rw [s.firstInvalid_eq]
  refine List.findSome?_eq_none_iff.2 fun x hx => ?_
  have entry := State.mem_listed.1 hx
  have station : x.1 = st := by
    by_contra other
    rw [others x.1 other] at entry
    cases entry
  simp [State.judged, station, valid]

theorem State.trimsLoaded_marked (s : State) : Marked s s.trimsLoaded := by
  refine Marked.trans (t := { s with line := .run }) (.of_track rfl) (Marked.foldl _ (fun s v => ?_) _ _)
  unfold State.loadTrim
  split
  · exact s.setTrim_marked v _
  · exact .of_track rfl

theorem State.trimsLoaded_notices (s : State) : NoticesKept s s.trimsLoaded := by
  refine NoticesKept.trans (t := { s with line := .run }) (.of_ports rfl) (NoticesKept.foldl _ (fun s v => ?_) _ _)
  unfold State.loadTrim State.setTrim
  split
  · split
    · exact .refl s
    · exact NoticesKept.trans (.of_ports rfl) (State.trimChanged_notices _ v)
  · exact .refl s

theorem State.trimsLoaded_faults (s : State) (st : Idx) : FaultsTaken st [] false s s.trimsLoaded := by
  have run : FaultsTaken st [] false s { s with line := .run } := .of_units st rfl rfl id
  refine run.trans (l := []) (b := false) (FaultsTaken.foldl (fun s v => s.loadTrim v) (fun t v => ?_) Idx.all { s with line := .run })
  unfold State.loadTrim State.setTrim
  split
  next c _ =>
    have loads : FaultsTaken st [] false t (t.updCalc v fun x => { x with trim := clampAbs (t.trimLimit v) c.trim }) :=
      .of_units st rfl rfl id
    split
    · exact .refl st t
    · exact loads.trans (State.trimChanged_faults _ st v)
  · exact .refl st t

theorem State.reversalTest_notices (s : State) : NoticesKept s s.reversalTest := by
  unfold State.reversalTest
  split
  · exact NoticesKept.trans (.of_ports rfl) (State.raise_notices _ _)
  · exact .refl s

/-- STOP REQUEST stays asserted for a trip at the reversal test. -/
theorem State.reversalTest_stays (s : State) (h : s.stopReq.asserted = true ∧ s.stopReq.trip = true) :
    s.reversalTest.stopReq.asserted = true ∧ s.reversalTest.stopReq.trip = true := by
  unfold State.reversalTest
  split
  · unfold State.raise State.raiseHard State.assertStop State.writeLatest
    dsimp only
    (repeat' split) <;> simp [h, StopRequest.add]
  · exact h

end

/-! ### The queued order that a trip withdraws (R80, R84) -/

section
variable {s : State} {st : Idx}

theorem State.withdrawQueued_of_queue {q : SeqNo} (queue : (s.seqr.get st).queue = some q) :
    s.withdrawQueued st = (s.updSeqr st fun sq => { sq with queue := none }).closeByAbort st q .notMade (.all 0) := by
  unfold State.withdrawQueued
  rw [queue]

theorem State.withdrawQueued_unqueued (queue : (s.seqr.get st).queue = none) : s.withdrawQueued st = s := by
  unfold State.withdrawQueued
  rw [queue]

/-- What is withdrawn leaves the queue and the in-flight list; no unit takes a fault, and no other station changes. -/
theorem State.withdrawQueued_leaves (stands : ∀ q, (s.seqr.get st).queue = some q → (s.record q).isSome = true) :
    ((s.withdrawQueued st).seqr.get st).inFlight =
        (s.seqr.get st).inFlight.filter (fun x => decide ((s.seqr.get st).queue ≠ some x.seq)) ∧
      ((s.withdrawQueued st).seqr.get st).queue = none ∧
      ((s.withdrawQueued st).seqr.get st).tripped = (s.seqr.get st).tripped ∧
      FaultsTaken st [] false s (s.withdrawQueued st) ∧ SameElsewhere s (s.withdrawQueued st) st := by
  cases queue : (s.seqr.get st).queue with
  | none =>
    rw [State.withdrawQueued_unqueued queue]
    exact ⟨by simp, queue, rfl, .refl st s, .of_same st rfl rfl rfl rfl rfl⟩
  | some q =>
    let u := s.updSeqr st fun sq => { sq with queue := none }
    obtain ⟨r, record⟩ := Option.isSome_iff_exists.1 (stands q queue)
    have found : u.record q = some r := record
    have seqr := congrArg (·.get st) (State.closeByAbort_seqr (st := st) (found := .notMade) (advanced := .all 0) found)
    have faults := State.closeByAbort_faults (st := st) (found := .notMade) (advanced := .all 0) found
    have missed : abortStatus (r.st.get st).decision .notMade = .missed := by cases (r.st.get st).decision <;> rfl
    rw [missed, if_neg (by simp)] at faults
    have taken : FaultsTaken st [] false s u := .of_units st rfl rfl id
    rw [State.withdrawQueued_of_queue queue]
    dsimp only [u] at seqr
    refine ⟨?_, ?_, ?_, taken.trans faults, (s.updSeqr_elsewhere st _).trans (State.closeByAbort_elsewhere found)⟩
    · rw [seqr]
      simp [State.updSeqr, eq_comm]
    · rw [seqr]
      simp [State.updSeqr]
    · rw [seqr]
      simp [State.updSeqr]

theorem State.withdrawQueued_sentAt {q : SeqNo} (queue : (s.seqr.get st).queue = some q) (stands : (s.record q).isSome = true) (x : SeqNo) :
    ((s.withdrawQueued st).sentAt st x).map (fun p => (p.1.status, p.1.target)) =
      (s.sentAt st x).map fun p => (if x = q then .missed else p.1.status, p.1.target) := by
  let u := s.updSeqr st fun sq => { sq with queue := none }
  obtain ⟨r, record⟩ := Option.isSome_iff_exists.1 stands
  have found : u.record q = some r := record
  obtain ⟨mark, track⟩ := State.closeByAbort_track (st := st) (found := .notMade) (advanced := .all 0) found
  have missed : abortStatus (r.st.get st).decision .notMade = .missed := by cases (r.st.get st).decision <;> rfl
  have searched : ((s.withdrawQueued st).record x) = (s.record x).map fun y =>
      { (if y.seq = q then y.abortedAs st (r.st.get st).decision .notMade (.all 0) else y) with watchMark := mark y } := by
    rw [State.withdrawQueued_of_queue queue]
    unfold State.record
    rw [track]
    exact findRecord_map_of_seq (g := fun y =>
      { (if y.seq = q then y.abortedAs st (r.st.get st).decision .notMade (.all 0) else y) with watchMark := mark y })
      (fun y => by dsimp only; split <;> rfl) x s.track
  rw [State.sentAt, State.sentAt, searched]
  cases there : s.record x with
  | none => rfl
  | some y =>
    by_cases same : x = q
    · simp [State.record_seq there, same, TrackRecord.abortedAs, TrackRecord.updStation, missed]
    · simp [State.record_seq there, same]

/-- The state in which a trip requests the abort: the station TRIPPED and UNPHASED. -/
def State.tripTold (s : State) (st : Idx) : State :=
  (s.updSeqr st fun sq => { sq with tripped := true, beforeTrip := s.tripFinds st }).unphase st

theorem State.tripEffects_withdraws (flight : (s.seqr.get st).inFlight ≠ []) (unaborted : (s.seqr.get st).awaited ≠ .abort) :
    s.tripEffects st = ((s.tripTold st).withdrawQueued st).sendAbort st := by
  unfold State.tripEffects State.requestAbort
  rw [if_neg (by simp [State.unphase, State.updCalc, State.updSeqr, flight, unaborted])]
  rfl

theorem State.sendAbort_names {left : List InFlight} (inFlight : (s.seqr.get st).inFlight = left) (some : left ≠ []) :
    (s.sendAbort st).seqr.get st =
      { s.seqr.get st with awaited := .abort, abortSet := left.map (·.seq), timer := Option.some 500 } := by
  unfold State.sendAbort
  dsimp only
  rw [inFlight, if_neg (by simpa using some)]
  simp [State.updSeqr, State.updLink, Config.ackTimeout, inFlight]

/-- A trip whose abort withdraws the queued order: the orders left are named, no unit takes a fault more, and no other station changes. -/
theorem State.tripEffects_leaves (flight : (s.seqr.get st).inFlight ≠ []) (unaborted : (s.seqr.get st).awaited ≠ .abort)
    (stands : ∀ q, (s.seqr.get st).queue = some q → (s.record q).isSome = true) {left : List InFlight}
    (remain : (s.seqr.get st).inFlight.filter (fun x => decide ((s.seqr.get st).queue ≠ some x.seq)) = left) (some : left ≠ []) :
    FaultsTaken st [] false s (s.tripEffects st) ∧ SameElsewhere s (s.tripEffects st) st ∧
      ((s.tripEffects st).calcs.get st).phased = false ∧
      ((s.tripEffects st).seqr.get st).tripped = true ∧ ((s.tripEffects st).seqr.get st).inFlight = left ∧
      ((s.tripEffects st).seqr.get st).queue = none ∧ ((s.tripEffects st).seqr.get st).awaited = .abort ∧
      ((s.tripEffects st).seqr.get st).abortSet = left.map (·.seq) ∧ ((s.tripEffects st).seqr.get st).timer = Option.some 500 := by
  have told : (s.tripTold st).seqr.get st = { s.seqr.get st with tripped := true, beforeTrip := s.tripFinds st } := by
    simp [State.tripTold, State.unphase, State.updCalc, State.updSeqr]
  have tells : FaultsTaken st [] false s (s.tripTold st) := .of_units st rfl rfl id
  have alone : SameElsewhere s (s.tripTold st) st := (s.updSeqr_elsewhere st _).trans (State.updCalc_elsewhere _ st _)
  obtain ⟨inFlight, queue, tripped, faults, elsewhere⟩ :=
    State.withdrawQueued_leaves (s := s.tripTold st) (st := st) (by rw [told]; exact stands)
  rw [told] at inFlight tripped
  have names := State.sendAbort_names (inFlight.trans remain) some
  have sends : FaultsTaken st [] false ((s.tripTold st).withdrawQueued st) (((s.tripTold st).withdrawQueued st).sendAbort st) :=
    .of_units st (by simp) (by simp) (by simp)
  rw [State.tripEffects_withdraws flight unaborted]
  refine ⟨(tells.trans faults).trans sends, (alone.trans elsewhere).trans (State.sendAbort_elsewhere _ st), ?_, ?_, ?_, ?_, ?_, ?_, ?_⟩
  · simp [State.tripTold, State.unphase, State.updCalc, State.updSeqr]
  · rw [names]
    exact tripped
  · rw [names]
    exact inFlight.trans remain
  · rw [names]
    exact queue
  all_goals rw [names]

theorem State.tripEffects_sentAt (flight : (s.seqr.get st).inFlight ≠ []) (unaborted : (s.seqr.get st).awaited ≠ .abort)
    (stands : ∀ q, (s.seqr.get st).queue = some q → (s.record q).isSome = true) (x : SeqNo) :
    ((s.tripEffects st).sentAt st x).map (fun p => (p.1.status, p.1.target)) =
      (s.sentAt st x).map fun p => (if (s.seqr.get st).queue = some x then .missed else p.1.status, p.1.target) := by
  have told : (s.tripTold st).seqr.get st = { s.seqr.get st with tripped := true, beforeTrip := s.tripFinds st } := by
    simp [State.tripTold, State.unphase, State.updCalc, State.updSeqr]
  have sent : (((s.tripTold st).withdrawQueued st).sendAbort st).sentAt st x = ((s.tripTold st).withdrawQueued st).sentAt st x := by
    simp [State.sentAt, State.record]
  rw [State.tripEffects_withdraws flight unaborted, sent]
  cases queue : (s.seqr.get st).queue with
  | none =>
    rw [State.withdrawQueued_unqueued (by rw [told]; exact queue)]
    simp
    rfl
  | some q =>
    rw [State.withdrawQueued_sentAt (s := s.tripTold st) (by rw [told]; exact queue) (stands q queue)]
    simp only [Option.some.injEq, eq_comm (a := q)]
    rfl

end

end Sys2Proof.Machine

end

section
/-! SUPPORT. The orders that a RESUME sends again from a station at rest, one or two of them (O33; R68, R100, R147). -/

namespace Sys2Proof.Machine

/-- The decision with which an entry is ordered again (R100). -/
def State.decidedAgain (s : State) (st : Idx) (x : ContextEntry) (fed : Idx → Nat) : Decision :=
  if x.decision = .strike ∧ (∃ p ∈ s.entry x.slot st, p.type ≠ .emboss) ∧ Idx.all.all (fun c => fed c == 0) then .dry else x.decision

/-- Between the two states an entry has been ordered again: what of its record is written, and what its feeds have noticed. -/
structure EntrySent (s t : State) (st : Idx) (x : ContextEntry) (f : StationFoil) : Prop where
  record : t.sentAt st x.seq = (s.sentAt st x.seq).map fun p =>
    ({ p.1 with decision := s.decidedAgain st x (feedKept f x), status := .committed, target := some x.target,
                feed := some (.tab (feedKept f x)), report := none },
     p.2.upd st fun row => .tab fun c => row.get c || startsFirstOff (f.2 x.slot c) (feedKept f x c))
  firstOff : ∀ c, startsFirstOff (f.2 x.slot c) (feedKept f x c) = true → Noticed t (.firstOffStruck st c)
  onReport : ∀ c, (∃ d ∈ f.2 x.slot c, d.code = .onReport) → 0 < feedKept f x c → Noticed t (.laneAttn st c)

section
variable {s v : State} {st : Idx} {x : ContextEntry} {f : StationFoil}

theorem EntrySent.kept {t u : State} (a : EntrySent s t st x f) (sentAt : u.sentAt st x.seq = t.sentAt st x.seq) (notices : NoticesKept t u) :
    EntrySent s u st x f :=
  ⟨sentAt.trans a.record, fun c starts => (a.firstOff c starts).kept notices, fun c code fed => (a.onReport c code fed).kept notices⟩

theorem State.restrike_entrySent (sentAt : v.sentAt st x.seq = s.sentAt st x.seq) (foil : v.foilAt st = f)
    (type : ∀ j, (v.entry j st).map (·.type) = (s.entry j st).map (·.type)) : EntrySent s (v.restrike st x) st x f := by
  subst foil
  refine ⟨?_, fun c => (v.restrike_noticed st x c).1, fun c => (v.restrike_noticed st x c).2⟩
  rw [State.restrike_sentAt, sentAt, State.restrikeDecision_eq (type x.slot)]
  rfl

end

/-- The lanes that run out at the rechecks of an entry and of those that follow it. -/
def shortAt (f : StationFoil) (e : ContextEntry) (rest : List ContextEntry) (c : Idx) : Bool :=
  restrikeShort (f.1 c) (e.feed.get c) || rest.any fun x => restrikeShort ((foilAfter f e).1 c) (x.feed.get c)

/-- Between the two states the line has resumed as far as the orders: the trims are loaded, and the entries of one station are ordered
again. -/
structure RestrikesTaken (s d : State) (st : Idx) (e : ContextEntry) (rest : List ContextEntry) : Prop where
  foil : d.foilAt st = rest.foldl foilAfter (foilAfter (s.foilAt st) e)
  station : d.seqr.get st = { s.seqr.get st with
    inFlight := { seq := e.seq, phasing := false, restrike := true } ::
      rest.map (fun x => { seq := x.seq, phasing := false, restrike := true }),
    awaited := .order e.seq, timer := some 500, queue := rest.head?.map (·.seq) }
  link : d.links.get st = (s.links.get st).hand
    (.strikeOrder e.seq (s.decidedAgain st e (feedKept (s.foilAt st) e)) false e.target (.tab (feedKept (s.foilAt st) e)))
  elsewhere : ∀ v, v ≠ st → d.seqr.get v = s.seqr.get v ∧ d.lanes.get v = s.lanes.get v ∧ d.units.get v = s.units.get v ∧
    d.links.get v = s.links.get v
  calcs : ∀ v, d.calcs.get v = s.loadedCalc v
  faults : FaultsTaken st (recheckFaults (s.foilAt st) (e :: rest)) false s d
  units : recheckFaults (s.foilAt st) (e :: rest) = [] → d.units = s.units
  sent : EntrySent s d st e (s.foilAt st)
  next : ∀ x ∈ rest, EntrySent s d st x (foilAfter (s.foilAt st) e)
  out : ∀ c, shortAt (s.foilAt st) e rest c = true → Noticed d (.foilOut st c)
  notices : NoticesKept s d

section
variable {a s : State} {st : Idx} {e : ContextEntry} {rest : List ContextEntry}

/-- The first order goes out and is awaited, and the second waits in the link queue. -/
theorem State.restrikeAll_sent (few : rest.length ≤ 1) (idle : (a.seqr.get st).awaited = .none) (empty : (a.seqr.get st).inFlight = [])
    (stands : (a.record e.seq).isSome = true) :
    (a.restrikeAll st (e :: rest)).seqr.get st = { a.seqr.get st with
      inFlight := { seq := e.seq, phasing := false, restrike := true } ::
        rest.map (fun x => { seq := x.seq, phasing := false, restrike := true }),
      awaited := .order e.seq, timer := some 500, queue := rest.head?.map (·.seq) } ∧
    (a.restrikeAll st (e :: rest)).links.get st = (a.links.get st).hand
      (.strikeOrder e.seq (a.restrikeDecision st e (.tab (a.recheckKept st e))) false e.target (.tab (a.recheckKept st e))) := by
  obtain ⟨r, record⟩ := Option.isSome_iff_exists.1 stands
  obtain ⟨seqr, links⟩ := State.restrike_sent (st := st) record idle empty
  match rest, few with
  | [], _ => exact ⟨seqr, links⟩
  | [x], _ =>
    obtain ⟨seqr', links'⟩ := State.restrike_queued (s := a.restrike st e) (st := st) (e := x) (by rw [seqr]; simp)
    refine ⟨?_, links'.trans links⟩
    rw [seqr] at seqr'
    exact seqr'

theorem State.restrikeAll_noticed_out {c : Idx} (short : shortAt (a.foilAt st) e rest c = true) (few : rest.length ≤ 1) :
    Noticed (a.restrikeAll st (e :: rest)) (.foilOut st c) := by
  rw [shortAt, Bool.or_eq_true] at short
  obtain first | second := short
  · exact (a.restrike_noticed_out st e first).kept (State.restrikeAll_notices _ st rest)
  · match rest, few with
    | [], _ => simp at second
    | [x], _ =>
      have lane : (a.restrike st e).lane st c = (foilAfter (a.foilAt st) e).1 c := congrFun (congrArg Prod.fst (a.restrike_foilAt st e)) c
      exact State.restrike_noticed_out _ st x (by rw [lane]; simpa using second)

theorem State.restrikeAll_taken (few : rest.length ≤ 1) (distinct : ∀ x ∈ rest, x.seq ≠ e.seq) (idle : (s.seqr.get st).awaited = .none)
    (empty : (s.seqr.get st).inFlight = []) (stands : (s.record e.seq).isSome = true) :
    RestrikesTaken s (s.trimsLoaded.restrikeAll st (e :: rest)) st e rest := by
  have foil : s.trimsLoaded.foilAt st = s.foilAt st :=
    Prod.ext (funext fun c => State.lane_of_lanes (by simp) st c)
      (funext fun j => funext fun c => State.descriptor_of_slots (by simp) j st c)
  have sentAt : ∀ q, s.trimsLoaded.sentAt st q = s.sentAt st q := State.sentAt_of_marked s.trimsLoaded_marked st
  have types : ∀ j, (s.trimsLoaded.entry j st).map (·.type) = (s.entry j st).map (·.type) := fun j => by
    rw [State.entry_of_slots (s := s) (by simp)]
  have there : (s.trimsLoaded.record e.seq).isSome = true := by
    have same := congrArg Option.isSome (sentAt e.seq)
    simp only [State.sentAt, Option.isSome_map] at same
    rw [same, stands]
  obtain ⟨station, link⟩ := State.restrikeAll_sent (a := s.trimsLoaded) (st := st) few (by simpa using idle) (by simpa using empty) there
  have kept : s.trimsLoaded.recheckKept st e = feedKept (s.foilAt st) e := by rw [← foil]; rfl
  have sent : EntrySent s (s.trimsLoaded.restrike st e) st e (s.foilAt st) := State.restrike_entrySent (sentAt e.seq) foil types
  have elsewhere := s.trimsLoaded.restrikeAll_elsewhere st (e :: rest)
  constructor
  case foil =>
    have all := s.trimsLoaded.restrikeAll_foilAt st (e :: rest)
    rw [foil] at all
    exact all
  case station => simpa using station
  case link =>
    rw [kept, State.restrikeDecision_eq (types e.slot)] at link
    simp only [State.trimsLoaded_frame] at link
    exact link
  case elsewhere =>
    intro v other
    obtain ⟨seqr, -, lanes, units, links⟩ := elsewhere v other
    simp only [State.trimsLoaded_frame] at seqr lanes units links
    exact ⟨seqr, lanes, units, links⟩
  case calcs =>
    intro v
    rw [(State.restrikeAll_frame _ st _).2.2.2.2.1, s.trimsLoaded_calcs]
  case faults =>
    have faults := s.trimsLoaded.restrikeAll_faults st (e :: rest)
    rw [foil] at faults
    exact (s.trimsLoaded_faults st).trans faults
  case units =>
    intro none
    rw [State.restrikeAll_units _ st _ (by rwa [foil])]
    simp
  case sent =>
    exact sent.kept (State.restrikeAll_sentAt_other _ st fun x hx => (distinct x hx).symm) (State.restrikeAll_notices _ st rest)
  case next =>
    intro x hx
    obtain rfl : rest = [x] := by
      match rest, few, hx with
      | [y], _, hx => rw [List.mem_singleton.1 hx]
    refine State.restrike_entrySent ?_ ?_ fun j => ?_
    · rw [State.restrike_sentAt_other _ st (distinct x hx), sentAt]
    · rw [State.restrike_foilAt, foil]
    · rw [State.restrike_type, types]
  case out => exact fun c short => State.restrikeAll_noticed_out (by rwa [foil]) few
  case notices => exact s.trimsLoaded_notices.trans (State.restrikeAll_notices _ st _)

end

end Sys2Proof.Machine

end

section
/-! CLAIM. RESUME re-orders a restrike (O33; R80, R84, R90 to R92, R100, R146, R147, R155). -/

namespace Sys2Proof.Machine

/-! ### The end of RESUME (R135, R146) -/

/-- What RESUME makes of the state in which the orders are sent: the contexts are dropped, the reversal test is taken, and the request is
answered. -/
def State.resumeEnds (d : State) (hdr : ReqHdr) (told : Idx → Restruck) : State :=
  d.dropContexts.reversalTest.reply hdr.port hdr.tag 3 ⟨.ok, .resumed .run false (.tab told)⟩

section
variable (d : State) (hdr : ReqHdr) (told : Idx → Restruck)

@[simp] theorem State.resumeEnds_frame :
    let t := d.resumeEnds hdr told
    t.reader = d.reader ∧ t.track = d.track ∧ t.nextSeq = d.nextSeq ∧ t.outcomes = d.outcomes ∧ t.calcs = d.calcs ∧ t.lanes = d.lanes ∧
      t.heat = d.heat ∧ t.splices = d.splices ∧ t.units = d.units ∧ t.watches = d.watches ∧ t.slots = d.slots ∧
      t.settings = d.settings ∧ t.line = d.line ∧ t.estop = d.estop ∧ t.links = d.links ∧ t.pending = d.pending := by
  simp [State.resumeEnds, State.reversalTest_units]

theorem State.resumeEnds_seqr (v : Idx) : (d.resumeEnds hdr told).seqr.get v = { d.seqr.get v with context := none } := by
  simp [State.resumeEnds, State.dropContexts]

theorem State.updPort_notices (s : State) (p : Port) {f : PortState → PortState}
    (keeps : ∀ x, (f x).routing = x.routing ∧ (f x).pending = x.pending) : NoticesKept s (s.updPort p f) := fun q => by
  by_cases here : q = p
  · subst here
    obtain ⟨routing, pending⟩ := keeps (s.ports.get q)
    have here : (s.updPort q f).ports.get q = f (s.ports.get q) := by simp [State.updPort]
    rw [here, routing, pending]
    exact ⟨rfl, fun x hx => ⟨x, hx, rfl⟩⟩
  · have other : (s.updPort p f).ports.get q = s.ports.get q := by simp [State.updPort, Three.get_upd, here]
    rw [other]
    exact ⟨rfl, fun x hx => ⟨x, hx, rfl⟩⟩

theorem State.resumeEnds_notices : NoticesKept d (d.resumeEnds hdr told) :=
  ((NoticesKept.of_ports (by simp)).trans d.dropContexts.reversalTest_notices).trans (State.updPort_notices _ _ fun _ => ⟨rfl, rfl⟩)

theorem State.resumeEnds_stays (h : d.stopReq.asserted = true ∧ d.stopReq.trip = true) :
    (d.resumeEnds hdr told).stopReq.asserted = true ∧ (d.resumeEnds hdr told).stopReq.trip = true := by
  have ends : (d.resumeEnds hdr told).stopReq = d.dropContexts.reversalTest.stopReq := by simp [State.resumeEnds]
  rw [ends]
  exact d.dropContexts.reversalTest_stays (by simpa using h)

end

/-- What RESUME answers of the stations where the entries of one are ordered again. -/
def State.restruckAt (s : State) (st : Idx) (stands : ContextEntry → Bool) (l : List ContextEntry) (v : Idx) : Restruck :=
  { ordered := if v = st then l.map (·.seq) else []
    passed := ((s.entries v).filter fun x => decide (x.action = .restrike) && !stands x).map (·.seq) }

section
variable {s : State} {st : Idx} {hdr : ReqHdr} {stands : ContextEntry → Bool} {l : List ContextEntry}

theorem State.restruck_of_one (others : ∀ v, v ≠ st → s.entries v = []) (stood : s.restrikes = stands)
    (listed : (s.entries st).filter stands = l) : s.restruck = s.restruckAt st stands l := funext fun v => by
  have ordered : ((s.entries v).filter stands).map (·.seq) = if v = st then l.map (·.seq) else [] := by
    by_cases station : v = st
    · subst station
      rw [if_pos rfl, listed]
    · rw [if_neg station, others v station]
      rfl
  unfold State.restruck State.restruckAt
  rw [stood, ← ordered]

theorem State.resumeLine_restrikes (others : ∀ v, v ≠ st → s.entries v = []) (stood : s.restrikes = stands)
    (listed : (s.entries st).filter stands = l) :
    s.resumeLine = (s.trimsLoaded.restrikeAll st l).dropContexts.reversalTest := by
  rw [State.resumeLine_of_one others, stood, listed]

/-- RESUME leaves what has been handed to the transmitter of a port (R187). -/
theorem State.resumeEnds_tx (others : ∀ v, v ≠ st → s.entries v = []) (stood : s.restrikes = stands)
    (listed : (s.entries st).filter stands = l) (port : hdr.port = .line) (told : Idx → Restruck) :
    (((s.trimsLoaded.restrikeAll st l).resumeEnds hdr told).ports.get .line).tx =
      (s.ports.get .line).tx ++ [{ tag := hdr.tag, code := 3, result := .ok, body := .resumed .run false (.tab told) }] := by
  have kept : (s.resumeLine.ports.get .line).tx = (s.ports.get .line).tx := congrArg (·.2.2.2) (s.resumeLine_within.ports .line)
  rw [State.resumeLine_restrikes others stood listed] at kept
  simp only [State.resumeEnds, State.reply, State.updPort, port, Three.get_upd_same, kept]

theorem execResume_restrikes (taken : s.takes hdr .resume) (port : hdr.port = .line) (hold : s.line = .hold) (clear : s.estop = false)
    (idle : ∀ v, (s.seqr.get v).awaited ≠ .abort) (others : ∀ v, v ≠ st → s.entries v = []) (valid : s.restrikeCause st = none)
    (stood : s.restrikes = stands) (listed : (s.entries st).filter stands = l) :
    exec (.resume hdr) s =
      (((s.updPort hdr.port PortState.free).trimsLoaded.restrikeAll st l).resumeEnds hdr (s.restruckAt st stands l)).done := by
  let u := s.updPort hdr.port PortState.free
  have resumed := State.resumeLine_restrikes (s := u) (stands := stands) (l := l) others stood listed
  have run : u.resumeLine.line = .run := by rw [resumed]; simp
  have restruck : u.restruck = s.restruckAt st stands l := State.restruck_of_one (s := u) others stood listed
  rw [execResume_taken taken port, State.takeResume_valid (s := u) hold clear idle (State.firstInvalid_of_one (s := u) others valid), run,
    resumed, restruck]
  rfl

end

/-! ### The foil after one entry or two, and the orders that a trip leaves -/

theorem foilAfter_lane (f : StationFoil) (c : Idx) (rest : List ContextEntry) : rest.length ≤ 1 → (rest.foldl foilAfter f).1 c =
    match rest with
    | [] => f.1 c
    | x :: _ => restrikeLane (f.1 c) (f.2 x.slot c) x.seq (x.feed.get c) :=
  match rest with
  | [] => fun _ => rfl
  | [_] => fun _ => rfl
  | _ :: _ :: _ => fun few => by simp at few

theorem foilAfter_descriptor (f : StationFoil) (j : Slot) (c : Idx) (rest : List ContextEntry) : rest.length ≤ 1 →
    (rest.foldl foilAfter f).2 j c =
      match rest with
      | [] => f.2 j c
      | x :: _ => (f.2 j c).map fun d => if j = x.slot then fedDescriptor d x.seq (feedKept f x c) else d :=
  match rest with
  | [] => fun _ => rfl
  | [_] => fun _ => rfl
  | _ :: _ :: _ => fun few => by simp at few

/-- Of one order or two, the second of which waits in the link queue, the first is left. -/
theorem ordersLeft {e : ContextEntry} {rest : List ContextEntry} (few : rest.length ≤ 1) (distinct : ∀ x ∈ rest, x.seq ≠ e.seq) :
    ((({ seq := e.seq, phasing := false, restrike := true } : InFlight) ::
      rest.map (fun x => { seq := x.seq, phasing := false, restrike := true })).filter fun x =>
        decide (rest.head?.map (·.seq) ≠ some x.seq)) = [{ seq := e.seq, phasing := false, restrike := true }] := by
  match rest, few with
  | [], _ => simp
  | [x], _ => simp [distinct x (by simp)]

theorem FaultsTaken.first_some {st : Idx} {hards : List FaultKey} {soft : Bool} {s t : State} (faults : FaultsTaken st hards soft s t)
    (some : 0 < hards.length) : (t.units.get st).first ≠ none := by
  obtain ⟨k, ks, faulted⟩ := List.exists_cons_of_length_pos some
  have first := faults.first
  rw [faulted] at first
  intro none
  rw [none] at first
  cases (s.units.get st).first <;> simp at first

theorem State.sentAt_status (s : State) (st : Idx) (q : SeqNo) :
    (s.record q).map (fun r => ((r.st.get st).status, (r.st.get st).target)) = (s.sentAt st q).map fun p => (p.1.status, p.1.target) := by
  rw [State.sentAt, Option.map_map]
  rfl

/-! ### The trip of the station that RESUME orders at (R80, R84, R155) -/

section
variable {s d : State} {st : Idx} {e : ContextEntry} {rest : List ContextEntry}

theorem RestrikesTaken.tripTaken (orders : RestrikesTaken s d st e rest) (few : rest.length ≤ 1) (distinct : ∀ x ∈ rest, x.seq ≠ e.seq)
    (found : ∀ x ∈ rest, (s.record x.seq).isSome = true) (first : (s.record e.seq).isSome = true) (ready : (s.units.get st).tripped = false)
    (many : 2 ≤ (s.units.get st).hard.toNat + (recheckFaults (s.foilAt st) (e :: rest)).length) (hdr : ReqHdr) (told : Idx → Restruck) :
    let y := d.resumeEnds hdr told
    let t := y.tripEffects st
    (y.units.get st).tripped = true ∧ TripTaken s t st [{ seq := e.seq, phasing := false, restrike := true }] ∧ SameElsewhere y t st ∧
      (t.record e.seq).map (fun r => ((r.st.get st).status, (r.st.get st).target)) = some (.committed, some e.target) ∧
      ∀ x ∈ rest, (t.record x.seq).map (fun r => (r.st.get st).status) = some .missed := by
  intro y t
  have units : y.units = d.units := by simp [y]
  have sequencer : y.seqr.get st = { d.seqr.get st with context := none } := d.resumeEnds_seqr hdr told st
  rw [orders.station] at sequencer
  have flight : (y.seqr.get st).inFlight ≠ [] := by rw [sequencer]; simp
  have unaborted : (y.seqr.get st).awaited ≠ .abort := by rw [sequencer]; simp
  have sentAt : ∀ q, y.sentAt st q = d.sentAt st q := fun q => by simp [State.sentAt, State.record, y]
  have queue : (y.seqr.get st).queue = rest.head?.map (·.seq) := by rw [sequencer]
  have stands : ∀ q, (y.seqr.get st).queue = some q → (y.record q).isSome = true := fun q queued => by
    rw [queue] at queued
    obtain ⟨x, head, rfl⟩ := Option.map_eq_some_iff.1 queued
    have member : x ∈ rest := List.mem_of_head? head
    have same := congrArg Option.isSome ((sentAt x.seq).trans (orders.next x member).record)
    simp only [State.sentAt, Option.isSome_map] at same
    rw [same, found x member]
  have remain : (y.seqr.get st).inFlight.filter (fun x => decide ((y.seqr.get st).queue ≠ some x.seq)) =
      [{ seq := e.seq, phasing := false, restrike := true }] := by
    rw [sequencer]
    exact ordersLeft few distinct
  obtain ⟨quiet, elsewhere, unphased, tripped, inFlight, queue', awaited, abortSet, timer⟩ :=
    State.tripEffects_leaves flight unaborted stands remain (by simp)
  have some : 0 < (recheckFaults (s.foilAt st) (e :: rest)).length := by
    have one := Bool.toNat_le (s.units.get st).hard
    omega
  have taken : (d.units.get st).tripped = true := by simp [orders.faults.tripped, many]
  have stopped := quiet.stays (d.resumeEnds_stays hdr told (orders.faults.stop ready taken))
  have statuses := State.tripEffects_sentAt flight unaborted stands
  refine ⟨by rw [units, taken], ⟨⟨?_, ?_, ?_, ?_, stopped.1, stopped.2, tripped, unphased⟩, inFlight, queue', ?_, fun _ => ⟨abortSet, timer⟩⟩,
    elsewhere, ?_, ?_⟩
  · rw [quiet.hard, units, orders.faults.hard]
    simp [some]
  · rw [quiet.tripped, units, taken]
    rfl
  · rw [quiet.soft, units, orders.faults.soft]
    simp
  · have kept := quiet.first
    rw [units] at kept
    intro none
    rw [none] at kept
    exact orders.faults.first_some some (by simpa using kept.symm)
  · rw [if_neg (by simp)]
    exact awaited
  · have waits : (y.seqr.get st).queue ≠ Option.some e.seq := by
      rw [queue]
      intro queued
      obtain ⟨x, head, same⟩ := Option.map_eq_some_iff.1 queued
      exact distinct x (List.mem_of_head? head) same
    obtain ⟨r, record⟩ := Option.isSome_iff_exists.1 first
    rw [State.sentAt_status, statuses, sentAt, orders.sent.record, State.sentAt, record]
    simp [waits]
  · intro x member
    have waits : (y.seqr.get st).queue = Option.some x.seq := by
      rw [queue]
      match rest, few, member with
      | [z], _, member => rw [List.mem_singleton.1 member]; rfl
    obtain ⟨r, record⟩ := Option.isSome_iff_exists.1 (found x member)
    have status := congrArg (Option.map Prod.fst) (t.sentAt_status st x.seq)
    rw [statuses, sentAt, (orders.next x member).record, State.sentAt, record, Option.map_map] at status
    simpa [waits] using status

end

end Sys2Proof.Machine

open Sys2Proof Sys2Proof.Machine

/-- Settles O33: the entries are ordered one after the other from the state with the trims loaded; the lanes that run out are the hard faults
of the station's unit, and where they are too many the trip withdraws the order that waits. -/
theorem resumeReordersARestrike : Obligations.ResumeReordersARestrike := by
  intro hdr s st context e rest taken port mirrored hold clear idle lineSound phased empty held others stands listed few distinct
    fed1 lane1 code1 fed2 short shorts decision noticed sent first
  let u := s.updPort hdr.port PortState.free
  let d := u.trimsLoaded.restrikeAll st (e :: rest)
  let told := s.restruckAt st stands (e :: rest)
  let y := d.resumeEnds hdr told
  have stood : s.restrikes = stands := funext fun x => by
    have still : (!reached s.web.h x.target) = decide (2 ^ 31 ≤ (s.web.h - x.target).toNat) := by
      simp [reached, ← decide_not]
    rw [State.restrikes, still]
  have entries : s.entries st = context.entries := by rw [State.entries, held]
  have mine : (s.entries st).filter stands = e :: rest := by rw [entries, listed]
  have valid : s.restrikeCause st = none := State.restrikeCause_of_valid (by simp [(idle st).2, lineSound, phased])
  have executed : exec (.resume hdr) s = y.done :=
    execResume_restrikes taken port hold clear (fun v => by simp [(idle v).1]) others valid stood mine
  have standing : ∀ x ∈ e :: rest, (s.record x.seq).isSome = true := fun x hx => by
    have stand := (List.mem_filter.1 (listed ▸ hx)).2
    simp only [stands, Bool.and_eq_true] at stand
    exact stand.1.2
  have orders : RestrikesTaken s d st e rest := by
    have all : RestrikesTaken u d st e rest := State.restrikeAll_taken (s := u) few distinct (idle st).1 empty (standing e (by simp))
    have port : FaultsTaken st [] false s u := .of_units st rfl rfl id
    have same : ∀ x f, EntrySent u d st x f → EntrySent s d st x f := fun x f order => ⟨order.record, order.firstOff, order.onReport⟩
    exact { all with
      faults := port.trans all.faults, sent := same _ _ all.sent, next := fun x hx => same _ _ (all.next x hx),
      notices := (s.updPort_notices hdr.port (f := PortState.free) fun _ => ⟨rfl, rfl⟩).trans all.notices }
  have many : (recheckFaults (s.foilAt st) (e :: rest)).length = shorts := recheckFaults_length (s.foilAt st) e few
  have mirrors : ∀ v, (y.seqr.get v).tripped = (s.seqr.get v).tripped := fun v => by
    rw [State.resumeEnds_seqr]
    by_cases station : v = st
    · subst station
      rw [orders.station]
    · rw [(orders.elsewhere v station).1]
  have units : y.units = d.units := by simp [y]
  have run : y.line = .run := by simp [y, d]
  have sends : ∀ {x : ContextEntry} {f : StationFoil}, EntrySent s d st x f → sent y x (f.2 x.slot) (feedKept f x) := fun {x f} order => by
    have ended := order.kept (u := y) (by simp [State.sentAt, State.record, y]) (d.resumeEnds_notices hdr told)
    have since : NoticesKept s y := orders.notices.trans (d.resumeEnds_notices hdr told)
    refine ⟨?_, fun c => ⟨fun starts => (ended.firstOff c starts).since since, fun code fed => (ended.onReport c code fed).since since⟩⟩
    have record := ended.record
    simp only [State.sentAt, Option.map_map] at record
    exact record
  refine ⟨fun steady => ?_, fun trips => ?_⟩
  · have ready : (d.units.get st).tripped = false := by
      have few' : ¬ 2 ≤ (s.units.get st).hard.toNat + shorts := by
        have one := Bool.toNat_le (s.units.get st).hard
        obtain none | ⟨single, clear'⟩ := steady
        · omega
        · simp [clear', single]
      rw [orders.faults.tripped, many, (idle st).2]
      simp [few']
    have kept : ∀ v, (y.units.get v).tripped = (s.units.get v).tripped := fun v => by
      rw [units]
      by_cases station : v = st
      · subst station
        rw [ready, (idle v).2]
      · rw [(orders.elsewhere v station).2.2.1]
    refine ⟨y, executed.trans (State.done_of mirrored kept mirrors), run, sends orders.sent, fun x hx => sends (orders.next x hx), ?_, ?_, ?_, ?_,
      ?_, ?_, ?_, ?_, ?_, ?_⟩
    · intro c
      have lane := congrFun (congrArg Prod.fst orders.foil) c
      rw [foilAfter_lane _ _ _ few] at lane
      exact (State.lane_of_lanes (s := d) (by simp [y]) st c).trans lane
    · intro j c
      have code := congrFun (congrFun (congrArg Prod.snd orders.foil) j) c
      rw [foilAfter_descriptor _ _ _ _ few] at code
      exact (State.descriptor_of_slots (s := d) (by simp [y]) j st c).trans code
    · rw [State.resumeEnds_seqr, orders.station]
    · have links : y.links = d.links := by simp [y]
      rw [links]
      exact orders.link
    · intro v other
      obtain ⟨seqr, lanes, units', links⟩ := orders.elsewhere v other
      refine ⟨?_, ?_, ?_, ?_⟩
      · rw [State.resumeEnds_seqr, seqr]
      · simpa [y] using lanes
      · simpa [y] using units'
      · simpa [y] using links
    · intro c out
      have some : 0 < shorts := List.length_pos_of_mem (List.mem_filter.2 ⟨by cases c <;> decide, out⟩)
      refine ⟨?_, ?_, ?_, ?_⟩
      · exact ((orders.out c out).kept (d.resumeEnds_notices hdr told)).since (orders.notices.trans (d.resumeEnds_notices hdr told))
      · rw [units, orders.faults.hard, many]
        simp [some]
      · rw [units]
        exact orders.faults.first_some (many ▸ some)
      · rw [units, ready]
    · intro none
      rw [units]
      exact orders.units (List.length_eq_zero_iff.1 (many.trans none))
    · intro v
      have calcs : y.calcs = d.calcs := by simp [y]
      rw [calcs, orders.calcs, State.loadedCalc]
      split <;> rfl
    · have freed : (u.ports.get .line).tx = (s.ports.get .line).tx := by simp [u, State.updPort, port, PortState.free]
      have sentOut := State.resumeEnds_tx (s := u) others stood mine port told
      rw [freed] at sentOut
      exact sentOut
    · refine State.ext_fields ?_ ?_ ?_ ?_ ?_ ?_ ?_ ?_ ?_ ?_ ?_ ?_ ?_ ?_ ?_ ?_ ?_ ?_ ?_ ?_ ?_
      all_goals simp [y, d, u]
  · have found : ∀ x ∈ rest, (s.record x.seq).isSome = true := fun x hx => standing x (by simp [hx])
    have trips' : 2 ≤ (s.units.get st).hard.toNat + (recheckFaults (s.foilAt st) (e :: rest)).length := by
      rw [many]
      obtain two | ⟨one, hard⟩ := trips
      · omega
      · simp [one, hard]
    obtain ⟨tripped, trip, elsewhere, statusFirst, statusNext⟩ :=
      orders.tripTaken few distinct found (standing e (by simp)) (idle st).2 trips' hdr told
    have settled : y.settleTrips = y.tripEffects st := by
      refine State.settleTrips_of_trip tripped ?_ fun v other up => ?_
      · rw [mirrors, mirrored st, (idle st).2]
      · rw [units, (orders.elsewhere v other).2.2.1, (idle v).2] at up
        cases up
    refine ⟨y.tripEffects st, executed.trans (by rw [State.done, settled]), ?_, trip, statusFirst, statusNext, fun v other => ?_⟩
    · simpa using run
    · obtain ⟨-, -, lanes, units', links⟩ := elsewhere v other
      obtain ⟨-, lanes₀, units₀, links₀⟩ := orders.elsewhere v other
      refine ⟨lanes.trans ?_, units'.trans ?_, links.trans ?_⟩
      · simpa [y] using lanes₀
      · simpa [y] using units₀
      · simpa [y] using links₀

end
